-- ==== Sys2Proof/Word.lean ====
section
/-!
DEFINITION. The word types of the Zhevion Z8 and their plainest arithmetic: bits are numbered from 0, the least
significant (R5), and every multi-byte value is little-endian.
-/
namespace Sys2Proof

/-- A 64-bit scalar register value (R52). -/
abbrev Word := BitVec 64

/-- One byte of memory (R5). -/
abbrev Byte := BitVec 8

/-- The bytes of a value, least significant first (R5): `n` bytes of `x`. -/
def leBytes : Nat → Nat → List Byte
  | 0, _ => []
  | n + 1, x => BitVec.ofNat 8 x :: leBytes n (x / 256)

/-- The number that bytes hold, least significant first (R5). -/
def leNat : List Byte → Nat
  | [] => 0
  | b :: bs => b.toNat + 256 * leNat bs

/-- The field `[h:l]` of a number (R5). -/
def bitsOf (x h l : Nat) : Nat := x / 2 ^ l % 2 ^ (h + 1 - l)

/-- `n` bytes of a list of bytes, from offset `o`, as a number. -/
def fieldAt (bs : List Byte) (o n : Nat) : Nat := leNat ((bs.drop o).take n)

/-- `x` read as a signed `w`-bit integer. -/
def signedOf (w x : Nat) : Int := if 2 * (x % 2 ^ w) < 2 ^ w then (x % 2 ^ w : Nat) else (x % 2 ^ w : Nat) - (2 ^ w : Nat)

/-- An integer kept to its low `w` bits. -/
def wrapTo (w : Nat) (x : Int) : Nat := (x % (2 ^ w : Nat)).toNat

end Sys2Proof
end

