-- ==== Sys2Proof/Syntax.lean ====
section
/-!
DEFINITION. The instructions of the Z8: one constructor for each row of the table of operations. A row with an encoding
carries the fields of its format (R30); a row without one is an event of the part (95_what_each_step_holds) and carries
what the outside world or the firmware chooses in it.
-/
namespace Sys2Proof

/-- SR, register to register scalar (R30); fn9 is the constructor's. -/
structure FmtSR where
  gd : BitVec 5
  ga : BitVec 5
  gb : BitVec 5
  sa : Bool
  sb : Bool
  deriving DecidableEq, Repr

/-- SR as the scalar atomics of majors 0x17 and 0x18 divide its fn9 (R252). -/
structure FmtAtomic where
  gd : BitVec 5
  ga : BitVec 5
  gb : BitVec 5
  sa : Bool
  sb : Bool
  order : BitVec 2
  scope : BitVec 3
  deriving DecidableEq, Repr

/-- SR as the memory group of major 0x19 divides its fn9 (R255). -/
structure FmtMem where
  gd : BitVec 5
  ga : BitVec 5
  gb : BitVec 5
  sa : Bool
  sb : Bool
  scope : BitVec 3
  deriving DecidableEq, Repr

/-- SR as the barrier group of major 0x19 divides its fn9 (R255, R262). -/
structure FmtBar where
  gd : BitVec 5
  ga : BitVec 5
  gb : BitVec 5
  sa : Bool
  sb : Bool
  bar : BitVec 6
  deriving DecidableEq, Repr

/-- SI, scalar with immediate (R30). -/
structure FmtSI where
  gd : BitVec 5
  ga : BitVec 5
  sa : Bool
  imm : BitVec 15
  deriving DecidableEq, Repr

/-- SU, scalar with upper immediate (R30). -/
structure FmtSU where
  gd : BitVec 5
  imm : BitVec 21
  deriving DecidableEq, Repr

/-- SB, conditional branch (R30); cond is the constructor's. -/
structure FmtSB where
  ga : BitVec 5
  gb : BitVec 5
  strict : Bool
  offset : BitVec 12
  deriving DecidableEq, Repr

/-- SJ, jump and link (R30). -/
structure FmtSJ where
  gd : BitVec 5
  offset : BitVec 21
  deriving DecidableEq, Repr

/-- V, vector (R30). `fnx` holds the bits of the low nibble that the row leaves to a field (the path-trace register of
vdesc); the rest of fn4 is the constructor's. -/
structure FmtV where
  vd : BitVec 5
  va : BitVec 5
  vb : BitVec 5
  sa : Bool
  sb : Bool
  guard : BitVec 3
  gneg : Bool
  cv : Bool
  fnx : BitVec 2 := 0
  deriving DecidableEq, Repr

/-- VC, vector compare (R30); cond is the constructor's. -/
structure FmtVC where
  pt : BitVec 3
  pf : BitVec 3
  va : BitVec 5
  vb : BitVec 5
  strict : Bool
  guard : BitVec 3
  gneg : Bool
  cv : Bool
  deriving DecidableEq, Repr

/-- VP, predicate logic (R30). -/
structure FmtVP where
  pd : BitVec 3
  pa : BitVec 3
  pb : BitVec 3
  rsv : BitVec 8
  guard : BitVec 3
  gneg : Bool
  cv : Bool
  deriving DecidableEq, Repr

/-- VF, repeat frame (R30). -/
structure FmtVF where
  ga : BitVec 5
  n1 : BitVec 4
  dstep : BitVec 4
  astep : BitVec 4
  bstep : BitVec 4
  deriving DecidableEq, Repr

/-- What a ring engine learns of a neighbour at the handshake (R238). -/
structure RingPeer where
  tag : Word
  n : Nat
  rev : Nat
  pos : Nat
  slots : Nat
  deriving DecidableEq, Repr

/-- A block as it travels: its 64-byte header's fields and its payload (R233). -/
structure RingBlock where
  tag : Word
  rev : Nat
  origin : Nat
  index : Nat
  toff : Nat
  tcnt : Nat
  payload : List Byte
  deriving DecidableEq, Repr

/-- What the host writes for one mailbox request: the doorbell, the request header and body, the staging area (R365, R367). -/
structure Doorbell where
  door : Word
  len : BitVec 16
  rsv : BitVec 32
  body : List Byte
  staging : List Byte
  deriving DecidableEq, Repr

/-- The class of a host request (R371). -/
inductive HostClass where
  | plain
  | orderedWrite
  | orderedRead
  deriving DecidableEq, Repr

/-- A window of the host link (R364): package DRAM by physical address, as the firmware grants it to the process of a partition; the launch
ports; the mailbox; the boot status. -/
inductive HostWindow where
  | memory (part : BitVec 6)
  | ports
  | mailbox
  | boot
  deriving DecidableEq, Repr

/-- A place in a window of the host link (R364). -/
structure HostAddress where
  window : HostWindow
  offset : Nat
  deriving DecidableEq, Repr

/-- What one island measured since the last attribution (R375, R376): its number, its cycles, its dynamic and its other energy in microjoules,
of a core island the activity counts of its pipes (7 times the core's number within the island, plus the pipe's bit of R292), of the others
the bytes moved for each partition. The physical measurement is an input. -/
structure IslandMeasure where
  id : Nat
  cycles : Nat
  dynamic : Nat
  idle : Nat
  activity : List (Nat × Nat)
  moved : List (Nat × Nat)
  deriving DecidableEq, Repr

/-- What the islands measured in one attribution interval (R376). -/
structure EnergyMeasure where
  islands : List IslandMeasure
  deriving DecidableEq, Repr

/-- What the boot ROM meets at a start (R379): the image, how training and storage went. -/
structure BootInput where
  image : List Byte
  trained : Bool
  storageReadable : Bool
  deriving DecidableEq, Repr

/-- How far a layout commit gets before the watchdog resets the management core (R374): all the way, up to the teams held at step 2, up to
the journalled preparation, up to the first `islands` flipped islands of an order that the manual leaves open, whose commit is not journalled
yet, or up to the journalled commit, before the teams are bound again and the request is answered. The moment is an input. -/
inductive CommitCut where
  | whole
  | held
  | prepared
  | flipped (islands : Nat)
  | committed
  deriving DecidableEq, Repr

/-- Why the firmware removes a unit (R381): 16 corrected errors, an uncorrected one, or an uncorrected one that leaves its data unreadable. -/
inductive RemovalCause where
  | corrected
  | uncorrected
  | unreadable
  deriving DecidableEq, Repr

/-- A unit that the firmware can remove from service (R381). -/
inductive ServiceUnit where
  | vault (n : Nat)
  | channel (n : Nat)
  | slice (n : Nat)
  | tract (n : Nat)
  deriving DecidableEq, Repr

/-- The instructions and events of the Z8, one for each row of the table. -/
inductive Instr where
  /-- `add` (R53). -/
  | add (f : FmtSR)
  /-- `sub` (R53). -/
  | sub (f : FmtSR)
  /-- `and` (R53). -/
  | and (f : FmtSR)
  /-- `or` (R53). -/
  | or (f : FmtSR)
  /-- `xor` (R53). -/
  | xor (f : FmtSR)
  /-- `andn` (R53). -/
  | andn (f : FmtSR)
  /-- `sll` (R53). -/
  | sll (f : FmtSR)
  /-- `srl` (R53). -/
  | srl (f : FmtSR)
  /-- `sra` (R53). -/
  | sra (f : FmtSR)
  /-- `rol` (R53). -/
  | rol (f : FmtSR)
  /-- `mul` (R53). -/
  | mul (f : FmtSR)
  /-- `mulh` (R53). -/
  | mulh (f : FmtSR)
  /-- `mulhz` (R53). -/
  | mulhz (f : FmtSR)
  /-- `div` (R54). -/
  | div (f : FmtSR)
  /-- `divz` (R54). -/
  | divz (f : FmtSR)
  /-- `rem` (R54). -/
  | rem (f : FmtSR)
  /-- `remz` (R54). -/
  | remz (f : FmtSR)
  /-- `ceq` (R53). -/
  | ceq (f : FmtSR)
  /-- `cne` (R53). -/
  | cne (f : FmtSR)
  /-- `clt` (R53). -/
  | clt (f : FmtSR)
  /-- `cge` (R53). -/
  | cge (f : FmtSR)
  /-- `clo` (R53). -/
  | clo (f : FmtSR)
  /-- `chs` (R53). -/
  | chs (f : FmtSR)
  /-- `min` (R53). -/
  | min (f : FmtSR)
  /-- `max` (R53). -/
  | max (f : FmtSR)
  /-- `minz` (R53). -/
  | minz (f : FmtSR)
  /-- `maxz` (R53). -/
  | maxz (f : FmtSR)
  /-- `clz` (R53). -/
  | clz (f : FmtSR)
  /-- `ctz` (R53). -/
  | ctz (f : FmtSR)
  /-- `popc` (R53). -/
  | popc (f : FmtSR)
  /-- `addi` (R55). -/
  | addi (f : FmtSI)
  /-- `andi` (R55). -/
  | andi (f : FmtSI)
  /-- `ori` (R55). -/
  | ori (f : FmtSI)
  /-- `xori` (R55). -/
  | xori (f : FmtSI)
  /-- `sll` (R56). -/
  | sllImm (f : FmtSI)
  /-- `srl` (R56). -/
  | srlImm (f : FmtSI)
  /-- `sra` (R56). -/
  | sraImm (f : FmtSI)
  /-- `rol` (R56). -/
  | rolImm (f : FmtSI)
  /-- `ldhi` (R57). -/
  | ldhi (f : FmtSU)
  /-- `addpc` (R57). -/
  | addpc (f : FmtSU)
  /-- `ld.d` (R58). -/
  | ldD (f : FmtSI)
  /-- `ld.w` (R58). -/
  | ldW (f : FmtSI)
  /-- `ld.wz` (R58). -/
  | ldWz (f : FmtSI)
  /-- `ld.h` (R58). -/
  | ldH (f : FmtSI)
  /-- `ld.hz` (R58). -/
  | ldHz (f : FmtSI)
  /-- `ld.b` (R58). -/
  | ldB (f : FmtSI)
  /-- `ld.bz` (R58). -/
  | ldBz (f : FmtSI)
  /-- `st.d` (R58). -/
  | stD (f : FmtSI)
  /-- `st.w` (R58). -/
  | stW (f : FmtSI)
  /-- `st.h` (R58). -/
  | stH (f : FmtSI)
  /-- `st.b` (R58). -/
  | stB (f : FmtSI)
  /-- `beq` (R63). -/
  | beq (f : FmtSB)
  /-- `bne` (R63). -/
  | bne (f : FmtSB)
  /-- `blt` (R63). -/
  | blt (f : FmtSB)
  /-- `bge` (R63). -/
  | bge (f : FmtSB)
  /-- `blo` (R63). -/
  | blo (f : FmtSB)
  /-- `bhs` (R63). -/
  | bhs (f : FmtSB)
  /-- `jal` (R64). -/
  | jal (f : FmtSJ)
  /-- `jalr` (R65). -/
  | jalr (f : FmtSI)
  /-- `aswp.w` (R253). -/
  | aswpW (f : FmtAtomic)
  /-- `aadd.w` (R253). -/
  | aaddW (f : FmtAtomic)
  /-- `aand.w` (R253). -/
  | aandW (f : FmtAtomic)
  /-- `aor.w` (R253). -/
  | aorW (f : FmtAtomic)
  /-- `axor.w` (R253). -/
  | axorW (f : FmtAtomic)
  /-- `amin.w` (R253). -/
  | aminW (f : FmtAtomic)
  /-- `amax.w` (R253). -/
  | amaxW (f : FmtAtomic)
  /-- `aminz.w` (R253). -/
  | aminzW (f : FmtAtomic)
  /-- `amaxz.w` (R253). -/
  | amaxzW (f : FmtAtomic)
  /-- `acas.w` (R253). -/
  | acasW (f : FmtAtomic)
  /-- `aswp.d` (R253). -/
  | aswpD (f : FmtAtomic)
  /-- `aadd.d` (R253). -/
  | aaddD (f : FmtAtomic)
  /-- `aand.d` (R253). -/
  | aandD (f : FmtAtomic)
  /-- `aor.d` (R253). -/
  | aorD (f : FmtAtomic)
  /-- `axor.d` (R253). -/
  | axorD (f : FmtAtomic)
  /-- `amin.d` (R253). -/
  | aminD (f : FmtAtomic)
  /-- `amax.d` (R253). -/
  | amaxD (f : FmtAtomic)
  /-- `aminz.d` (R253). -/
  | aminzD (f : FmtAtomic)
  /-- `amaxz.d` (R253). -/
  | amaxzD (f : FmtAtomic)
  /-- `acas.d` (R253). -/
  | acasD (f : FmtAtomic)
  /-- `ld.acq.w` (R256). -/
  | ldAcqW (f : FmtMem)
  /-- `ld.acq.d` (R256). -/
  | ldAcqD (f : FmtMem)
  /-- `st.rel.w` (R256). -/
  | stRelW (f : FmtMem)
  /-- `st.rel.d` (R256). -/
  | stRelD (f : FmtMem)
  /-- `fence.sc` (R257). -/
  | fenceSc (f : FmtMem)
  /-- `await` (R259). -/
  | await (f : FmtMem)
  /-- `wake` (R259). -/
  | wake (f : FmtMem)
  /-- `bar.arrive` (R264). -/
  | barArrive (f : FmtBar)
  /-- `bar.wait` (R264). -/
  | barWait (f : FmtBar)
  /-- `bar.sync` (R264). -/
  | barSync (f : FmtBar)
  /-- `bar.cfg` (R263). -/
  | barCfg (f : FmtBar)
  /-- `bar.stat` (R267). -/
  | barStat (f : FmtBar)
  /-- `mfs` (R66). -/
  | mfs (f : FmtSI)
  /-- `mts` (R66). -/
  | mts (f : FmtSI)
  /-- `mts` (R67). -/
  | mtsVl (f : FmtSI)
  /-- `mts` (R73). -/
  | mtsVt (f : FmtSI)
  /-- `mts` (R82). -/
  | mtsEs (f : FmtSI)
  /-- `mts` (R307). -/
  | mtsDirty (f : FmtSI)
  /-- `trap` (R323). -/
  | trap (f : FmtSR)
  /-- `eret` (R324). -/
  | eret (f : FmtSR)
  /-- `ifence` (R325). -/
  | ifence (f : FmtSR)
  /-- `tlbinv.all` (R326). -/
  | tlbinvAll (f : FmtSR)
  /-- `tlbinv.ctx` (R326). -/
  | tlbinvCtx (f : FmtSR)
  /-- `tlbinv.va` (R326). -/
  | tlbinvVa (f : FmtSR)
  /-- `cflush` (R328). -/
  | cflush (f : FmtSR)
  /-- `cclean` (R328). -/
  | cclean (f : FmtSR)
  /-- `cfetch` (R328). -/
  | cfetch (f : FmtSR)
  /-- `tlbprobe` (R327). -/
  | tlbprobe (f : FmtSR)
  /-- `spawn` (R299). -/
  | spawn (f : FmtSR)
  /-- `exit` (R300). -/
  | exit (f : FmtSR)
  /-- `yield` (R301). -/
  | yield (f : FmtSR)
  /-- `self` (R302). -/
  | self (f : FmtSR)
  /-- `vclaim` (R303). -/
  | vclaim (f : FmtSR)
  /-- `vsetl` (R80). -/
  | vsetl (f : FmtSR)
  /-- `vsett` (R81). -/
  | vsett (f : FmtSR)
  /-- `vsetes` (R82). -/
  | vsetes (f : FmtSR)
  /-- `vframe` (R44). -/
  | vframe (f : FmtVF)
  /-- `qbind` (R162). -/
  | qbind (f : FmtV)
  /-- `qfree` (R165). -/
  | qfree (f : FmtV)
  /-- `vpop` (R164). -/
  | vpop (f : FmtV)
  /-- `hld` (R170). -/
  | hld (f : FmtV)
  /-- `hst` (R171). -/
  | hst (f : FmtV)
  /-- `tcopy` (R174). -/
  | tcopy (f : FmtV)
  /-- `xpin` (R204). -/
  | xpin (f : FmtV)
  /-- `xunpin` (R205). -/
  | xunpin (f : FmtV)
  /-- `xrun` (R206). -/
  | xrun (f : FmtV)
  /-- `xsplice` (R208). -/
  | xsplice (f : FmtV)
  /-- `xreap` (R209). -/
  | xreap (f : FmtV)
  /-- `xlen` (R205). -/
  | xlen (f : FmtV)
  /-- `ring.cfg` (R238). -/
  | ringCfg (f : FmtV)
  /-- `ring.post` (R239). -/
  | ringPost (f : FmtV)
  /-- `qbind.ring` (R240). -/
  | qbindRing (f : FmtV)
  /-- `ring.hdr` (R241). -/
  | ringHdr (f : FmtV)
  /-- `ring.done` (R242). -/
  | ringDone (f : FmtV)
  /-- `ring.stat` (R243). -/
  | ringStat (f : FmtV)
  /-- `ring.brk` (R386). -/
  | ringBrk (f : FmtV)
  /-- `kseal` (R214). -/
  | kseal (f : FmtV)
  /-- `kopen` (R214). -/
  | kopen (f : FmtV)
  /-- `vadd` (R107). -/
  | vadd (f : FmtV)
  /-- `vsub` (R107). -/
  | vsub (f : FmtV)
  /-- `vmul` (R107). -/
  | vmul (f : FmtV)
  /-- `vmac` (R107). -/
  | vmac (f : FmtV)
  /-- `vmin` (R107). -/
  | vmin (f : FmtV)
  /-- `vmax` (R107). -/
  | vmax (f : FmtV)
  /-- `vdiv` (R107). -/
  | vdiv (f : FmtV)
  /-- `vrem` (R107). -/
  | vrem (f : FmtV)
  /-- `vand` (R107). -/
  | vand (f : FmtV)
  /-- `vor` (R107). -/
  | vor (f : FmtV)
  /-- `vxor` (R107). -/
  | vxor (f : FmtV)
  /-- `vsll` (R107). -/
  | vsll (f : FmtV)
  /-- `vsrl` (R107). -/
  | vsrl (f : FmtV)
  /-- `vsra` (R107). -/
  | vsra (f : FmtV)
  /-- `vadds` (R107). -/
  | vadds (f : FmtV)
  /-- `vsubs` (R107). -/
  | vsubs (f : FmtV)
  /-- `vsqrt` (R109). -/
  | vsqrt (f : FmtV)
  /-- `vnmac` (R109). -/
  | vnmac (f : FmtV)
  /-- `vabs` (R109). -/
  | vabs (f : FmtV)
  /-- `vneg` (R109). -/
  | vneg (f : FmtV)
  /-- `vsgnj` (R109). -/
  | vsgnj (f : FmtV)
  /-- `vexp2` (R109). -/
  | vexp2 (f : FmtV)
  /-- `vlog2` (R109). -/
  | vlog2 (f : FmtV)
  /-- `vrint` (R109). -/
  | vrint (f : FmtV)
  /-- `vscale` (R109). -/
  | vscale (f : FmtV)
  /-- `vcmp.eq` (R110). -/
  | vcmpEq (f : FmtVC)
  /-- `vcmp.ne` (R110). -/
  | vcmpNe (f : FmtVC)
  /-- `vcmp.lt` (R110). -/
  | vcmpLt (f : FmtVC)
  /-- `vcmp.ge` (R110). -/
  | vcmpGe (f : FmtVC)
  /-- `vcmp.le` (R110). -/
  | vcmpLe (f : FmtVC)
  /-- `vcmp.gt` (R110). -/
  | vcmpGt (f : FmtVC)
  /-- `vcmp.un` (R110). -/
  | vcmpUn (f : FmtVC)
  /-- `vcmp.ord` (R110). -/
  | vcmpOrd (f : FmtVC)
  /-- `pand` (R111). -/
  | pand (f : FmtVP)
  /-- `por` (R111). -/
  | por (f : FmtVP)
  /-- `pxor` (R111). -/
  | pxor (f : FmtVP)
  /-- `pandn` (R111). -/
  | pandn (f : FmtVP)
  /-- `pnot` (R111). -/
  | pnot (f : FmtVP)
  /-- `pset` (R111). -/
  | pset (f : FmtVP)
  /-- `pfirst` (R111). -/
  | pfirst (f : FmtVP)
  /-- `pbrkb` (R111). -/
  | pbrkb (f : FmtVP)
  /-- `pbrka` (R111). -/
  | pbrka (f : FmtVP)
  /-- `vmov` (R112). -/
  | vmov (f : FmtV)
  /-- `vslideup` (R112). -/
  | vslideup (f : FmtV)
  /-- `vslidedn` (R112). -/
  | vslidedn (f : FmtV)
  /-- `vperm` (R112). -/
  | vperm (f : FmtV)
  /-- `vcompress` (R113). -/
  | vcompress (f : FmtV)
  /-- `vexpand` (R113). -/
  | vexpand (f : FmtV)
  /-- `vbcast` (R112). -/
  | vbcast (f : FmtV)
  /-- `vrev` (R112). -/
  | vrev (f : FmtV)
  /-- `vext` (R114). -/
  | vext (f : FmtV)
  /-- `vins` (R114). -/
  | vins (f : FmtV)
  /-- `vred.osum` (R115). -/
  | vredOsum (f : FmtV)
  /-- `vred.sum` (R116). -/
  | vredSum (f : FmtV)
  /-- `vred.max` (R115). -/
  | vredMax (f : FmtV)
  /-- `vred.min` (R115). -/
  | vredMin (f : FmtV)
  /-- `vred.and` (R115). -/
  | vredAnd (f : FmtV)
  /-- `vred.or` (R115). -/
  | vredOr (f : FmtV)
  /-- `vred.xor` (R115). -/
  | vredXor (f : FmtV)
  /-- `vscan.sum` (R117). -/
  | vscanSum (f : FmtV)
  /-- `vscan.max` (R117). -/
  | vscanMax (f : FmtV)
  /-- `vscan.min` (R117). -/
  | vscanMin (f : FmtV)
  /-- `vred.gsum` (R115). -/
  | vredGsum (f : FmtV)
  /-- `vcvt` (R119). -/
  | vcvt (f : FmtV)
  /-- `vcvt.rtz` (R119). -/
  | vcvtRtz (f : FmtV)
  /-- `vcvt.sat` (R119). -/
  | vcvtSat (f : FmtV)
  /-- `vcvtf` (R119). -/
  | vcvtf (f : FmtV)
  /-- `vpopc` (R120). -/
  | vpopc (f : FmtV)
  /-- `vfirst` (R120). -/
  | vfirst (f : FmtV)
  /-- `vfromp` (R120). -/
  | vfromp (f : FmtV)
  /-- `vtop` (R120). -/
  | vtop (f : FmtV)
  /-- `vadd` (R108). -/
  | vaddVs (f : FmtV)
  /-- `vsub` (R108). -/
  | vsubVs (f : FmtV)
  /-- `vmul` (R108). -/
  | vmulVs (f : FmtV)
  /-- `vmac` (R108). -/
  | vmacVs (f : FmtV)
  /-- `vmin` (R108). -/
  | vminVs (f : FmtV)
  /-- `vmax` (R108). -/
  | vmaxVs (f : FmtV)
  /-- `vdiv` (R108). -/
  | vdivVs (f : FmtV)
  /-- `vand` (R108). -/
  | vandVs (f : FmtV)
  /-- `vor` (R108). -/
  | vorVs (f : FmtV)
  /-- `vxor` (R108). -/
  | vxorVs (f : FmtV)
  /-- `vsll` (R108). -/
  | vsllVs (f : FmtV)
  /-- `vsrl` (R108). -/
  | vsrlVs (f : FmtV)
  /-- `vsra` (R108). -/
  | vsraVs (f : FmtV)
  /-- `vadds` (R108). -/
  | vaddsVs (f : FmtV)
  /-- `vsubs` (R108). -/
  | vsubsVs (f : FmtV)
  /-- `vld` (R145). -/
  | vld (f : FmtV)
  /-- `vlds` (R145). -/
  | vlds (f : FmtV)
  /-- `vldt` (R149). -/
  | vldt (f : FmtV)
  /-- `vldseg2` (R150). -/
  | vldseg2 (f : FmtV)
  /-- `vldseg3` (R150). -/
  | vldseg3 (f : FmtV)
  /-- `vldseg4` (R150). -/
  | vldseg4 (f : FmtV)
  /-- `vldseg5` (R150). -/
  | vldseg5 (f : FmtV)
  /-- `vldseg6` (R150). -/
  | vldseg6 (f : FmtV)
  /-- `vldseg7` (R150). -/
  | vldseg7 (f : FmtV)
  /-- `vldseg8` (R150). -/
  | vldseg8 (f : FmtV)
  /-- `vst` (R145). -/
  | vst (f : FmtV)
  /-- `vsts` (R145). -/
  | vsts (f : FmtV)
  /-- `vstt` (R149). -/
  | vstt (f : FmtV)
  /-- `vstseg2` (R150). -/
  | vstseg2 (f : FmtV)
  /-- `vstseg3` (R150). -/
  | vstseg3 (f : FmtV)
  /-- `vstseg4` (R150). -/
  | vstseg4 (f : FmtV)
  /-- `vstseg5` (R150). -/
  | vstseg5 (f : FmtV)
  /-- `vstseg6` (R150). -/
  | vstseg6 (f : FmtV)
  /-- `vstseg7` (R150). -/
  | vstseg7 (f : FmtV)
  /-- `vstseg8` (R150). -/
  | vstseg8 (f : FmtV)
  /-- `vgather.32` (R153). -/
  | vgather32 (f : FmtV)
  /-- `vgather.64` (R153). -/
  | vgather64 (f : FmtV)
  /-- `vgather.x32` (R153). -/
  | vgatherX32 (f : FmtV)
  /-- `vgather.x64` (R153). -/
  | vgatherX64 (f : FmtV)
  /-- `vscatter.32` (R153). -/
  | vscatter32 (f : FmtV)
  /-- `vscatter.64` (R153). -/
  | vscatter64 (f : FmtV)
  /-- `vscatter.x32` (R153). -/
  | vscatterX32 (f : FmtV)
  /-- `vscatter.x64` (R153). -/
  | vscatterX64 (f : FmtV)
  /-- `vamo.add` (R261). -/
  | vamoAdd (f : FmtV)
  /-- `vamo.min` (R261). -/
  | vamoMin (f : FmtV)
  /-- `vamo.max` (R261). -/
  | vamoMax (f : FmtV)
  /-- `vamo.and` (R261). -/
  | vamoAnd (f : FmtV)
  /-- `vamo.or` (R261). -/
  | vamoOr (f : FmtV)
  /-- `vamo.xor` (R261). -/
  | vamoXor (f : FmtV)
  /-- `vamo.swp` (R261). -/
  | vamoSwp (f : FmtV)
  /-- `vamof.add` (R261). -/
  | vamofAdd (f : FmtV)
  /-- `vamof.min` (R261). -/
  | vamofMin (f : FmtV)
  /-- `vamof.max` (R261). -/
  | vamofMax (f : FmtV)
  /-- `vamof.and` (R261). -/
  | vamofAnd (f : FmtV)
  /-- `vamof.or` (R261). -/
  | vamofOr (f : FmtV)
  /-- `vamof.xor` (R261). -/
  | vamofXor (f : FmtV)
  /-- `vamof.swp` (R261). -/
  | vamofSwp (f : FmtV)
  /-- `mmab` (R136). -/
  | mmab (f : FmtV)
  /-- `mmah` (R137). -/
  | mmah (f : FmtV)
  /-- `mzero` (R138). -/
  | mzero (f : FmtV)
  /-- `vwmac` (R139). -/
  | vwmac (f : FmtV)
  /-- `vbnorm` (R140). -/
  | vbnorm (f : FmtV)
  /-- `vbexp.f32` (R141). -/
  | vbexpF32 (f : FmtV)
  /-- `vbexp.get` (R142). -/
  | vbexpGet (f : FmtV)
  /-- `vbexp.set` (R142). -/
  | vbexpSet (f : FmtV)
  /-- `vgroup` (R182). -/
  | vgroup (f : FmtV)
  /-- `vxsect` (R183). -/
  | vxsect (f : FmtV)
  /-- `vmerge` (R185). -/
  | vmerge (f : FmtV)
  /-- `vsegsum` (R186). -/
  | vsegsum (f : FmtV)
  /-- `vsegmax` (R186). -/
  | vsegmax (f : FmtV)
  /-- `vsegmin` (R186). -/
  | vsegmin (f : FmtV)
  /-- `tcon` (R190). -/
  | tcon (f : FmtV)
  /-- `vdesc` (R224). -/
  | vdesc (f : FmtV)
  /-- `vpnode` (R227). -/
  | vpnode (f : FmtV)
  /-- `vpget` (R228). -/
  | vpget (f : FmtV)
  /-- `vpclr` (R228). -/
  | vpclr (f : FmtV)
  /-- Event ENTRY_DISPATCH (R48): a step of the part without an encoding. -/
  | entryDispatch
  /-- Event ENTRY_RETIRE (R90): a step of the part without an encoding. -/
  | entryRetire
  /-- Event SLICE_EXPIRY (R293): a step of the part without an encoding. -/
  | sliceExpiry (slot : Nat) (groups : List Nat)
  /-- Event SLOT_UNBIND (R293): a step of the part without an encoding. -/
  | slotUnbind (slot : Nat) (groups : List Nat)
  /-- Event CONTEXT_SAVE (R334): a step of the part without an encoding. -/
  | contextSave (slot : Nat)
  /-- Event SLOT_BIND (R293): a step of the part without an encoding. -/
  | slotBind (slot : Nat)
  /-- Event STREAM_ENGINE_FETCH (R163): a step of the part without an encoding. -/
  | streamEngineFetch (q : BitVec 3)
  /-- Event COPY_LANDING (R176): a step of the part without an encoding. -/
  | copyLanding (copy : Nat)
  /-- Event KSEAL_COMPLETION (R215): a step of the part without an encoding. -/
  | ksealCompletion (op : Nat)
  /-- Event KOPEN_COMPLETION (R216): a step of the part without an encoding. -/
  | kopenCompletion (op : Nat)
  /-- Event BARRIER_PHASE_COMPLETE (R264): a step of the part without an encoding. -/
  | barrierPhaseComplete (team : Nat) (bar : BitVec 6)
  /-- Event AWAIT_WAKEUP (R259): a step of the part without an encoding. -/
  | awaitWakeup (slot : Nat)
  /-- Event RING_HANDSHAKE (R238): a step of the part without an encoding. -/
  | ringHandshake (r : BitVec 2) (up down : RingPeer)
  /-- Event RING_ARRIVAL (R234): a step of the part without an encoding. -/
  | ringArrival (r : BitVec 2) (b : RingBlock)
  /-- Event RING_FORWARD (R235): a step of the part without an encoding. -/
  | ringForward (r : BitVec 2)
  /-- Event RING_SLOT_RELEASE (R235): a step of the part without an encoding. -/
  | ringSlotRelease (r : BitVec 2)
  /-- Event RING_BREAK_FLIT (R245): a step of the part without an encoding. -/
  | ringBreakFlit (r : BitVec 2)
  /-- Event THRUMEZ_LINK_LOSS (R245): a step of the part without an encoding. -/
  | thrumezLinkLoss (port : BitVec 3)
  /-- Event THRUMEZ_LINK_RETRAIN (R373): a step of the part without an encoding. -/
  | thrumezLinkRetrain (port : BitVec 3)
  /-- Event LAUNCH_PORT_WRITE (R372): a step of the part without an encoding. -/
  | launchPortWrite (part : BitVec 6) (record : List Byte)
  /-- Event LAUNCH_START (R286): a step of the part without an encoding. -/
  | launchStart (team : Nat) (placement : List Nat)
  /-- Event COMMIT_LAYOUT (R374): a step of the part without an encoding. -/
  | commitLayout (d : Doorbell) (cut : CommitCut)
  /-- Event READ_LAYOUT_STATE (R367): a step of the part without an encoding. -/
  | readLayoutState (d : Doorbell)
  /-- Event REGISTER_SESSION (R380): a step of the part without an encoding. -/
  | registerSession (d : Doorbell)
  /-- Event ENERGY_READING (R377): a step of the part without an encoding. -/
  | energyReading (d : Doorbell)
  /-- Event ATTESTATION (R380): a step of the part without an encoding. -/
  | attestation (d : Doorbell)
  /-- Event READ_COUNTS (R382): a step of the part without an encoding. -/
  | readCounts (d : Doorbell)
  /-- Event READ_ENABLED_UNITS (R370): a step of the part without an encoding. -/
  | readEnabledUnits (d : Doorbell)
  /-- Event CONFIGURE_PAGE_COUNTERS (R383): a step of the part without an encoding. -/
  | configurePageCounters (d : Doorbell)
  /-- Event PROMOTE (R384): a step of the part without an encoding. -/
  | promote (d : Doorbell)
  /-- Event CANCEL_PROMOTION (R384): a step of the part without an encoding. -/
  | cancelPromotion (d : Doorbell)
  /-- Event PAGE_PROMOTION (R384): a step of the part without an encoding. -/
  | pagePromotion (number : Nat) (target : Nat)
  /-- Event CLEAR_START_COUNT (R379): a step of the part without an encoding. -/
  | clearStartCount (d : Doorbell)
  /-- Event IMAGE_CHUNK (R367): a step of the part without an encoding. -/
  | imageChunk (d : Doorbell)
  /-- Event COMMIT_IMAGE (R379): a step of the part without an encoding. -/
  | commitImage (d : Doorbell)
  /-- Event TEAR_DOWN_LAUNCH (R367): a step of the part without an encoding. -/
  | tearDownLaunch (d : Doorbell)
  /-- Event HOST_MEMORY_READ (R371): a step of the part without an encoding. -/
  | hostMemoryRead (cls : HostClass) (place : HostAddress) (n : Nat)
  /-- Event HOST_MEMORY_WRITE (R371): a step of the part without an encoding. -/
  | hostMemoryWrite (cls : HostClass) (place : HostAddress) (bytes : List Byte)
  /-- Event ENERGY_ATTRIBUTION (R376): a step of the part without an encoding. -/
  | energyAttribution (m : EnergyMeasure)
  /-- Event POWER_UP (R379): a step of the part without an encoding. -/
  | powerUp (b : BootInput)
  /-- Event FIRMWARE_READY (R379): a step of the part without an encoding. -/
  | firmwareReady
  /-- Event POWER_LOSS (R378): a step of the part without an encoding. -/
  | powerLoss
  /-- Event WATCHDOG_RESET (R374): a step of the part without an encoding. -/
  | watchdogReset (m : EnergyMeasure)
  /-- Event LANE_GROUP_DISABLE (R381): a step of the part without an encoding. -/
  | laneGroupDisable (core lg : Nat) (uncorrected : Bool)
  /-- Event ILLEGAL_INSTRUCTION (R47): a step of the part without an encoding. -/
  | illegalInstruction (word : BitVec 32)
  /-- Event INSTRUCTION_FETCH (R29): a step of the part without an encoding. -/
  | instructionFetch
  /-- Event UNKNOWN_REQUEST_CODE (R367): a step of the part without an encoding. -/
  | unknownRequestCode (code : BitVec 16) (d : Doorbell)
  /-- Event PACKAGE_RESET (R376): a step of the part without an encoding. -/
  | packageReset (m : EnergyMeasure)
  /-- Event UNIT_REMOVAL (R381): a step of the part without an encoding. -/
  | unitRemoval (u : ServiceUnit) (why : RemovalCause)
  deriving DecidableEq, Repr

end Sys2Proof
end

