-- ==== Sys2Proof/WellFormed.lean ====
section
/-!
DEFINITION. Which instruction terms the encodings accept: reserved fields zero, register fields inside their files, and the
value ranges of R31, R33 and R47. A word that breaks one of these is no instruction (cause 0x40).
-/
namespace Sys2Proof

/-- The type codes that a conversion's T field may hold without being a reserved value: 0x0E and 0x11 to 0x1F are reserved
(R118). -/
def convCode (t : BitVec 5) : Bool := t.toNat ≤ 0x0D || t.toNat == 0x0F || t.toNat == 0x10

/-- A record of an event is well formed when its sizes are those of the windows it is written to (R364, R365). -/
def Doorbell.wf (d : Doorbell) : Bool := d.body.length ≤ 4088 && d.staging.length ≤ 49152

/-- The conditions of R31 and R47 on an instruction's fields. The strict bit sa of vpopc, vfirst and vfromp, whose va names a predicate, is not
among them: it is accepted and has no effect (DESIGN CHOICE, log entry 56). -/
def Instr.wf (i : Instr) : Bool :=
  match i with
  | .add _ => true
  | .sub _ => true
  | .and _ => true
  | .or _ => true
  | .xor _ => true
  | .andn _ => true
  | .sll _ => true
  | .srl _ => true
  | .sra _ => true
  | .rol _ => true
  | .mul _ => true
  | .mulh _ => true
  | .mulhz _ => true
  | .div _ => true
  | .divz _ => true
  | .rem _ => true
  | .remz _ => true
  | .ceq _ => true
  | .cne _ => true
  | .clt _ => true
  | .cge _ => true
  | .clo _ => true
  | .chs _ => true
  | .min _ => true
  | .max _ => true
  | .minz _ => true
  | .maxz _ => true
  | .clz f => (f.gb == 0) && !f.sb
  | .ctz f => (f.gb == 0) && !f.sb
  | .popc f => (f.gb == 0) && !f.sb
  | .addi _ => true
  | .andi _ => true
  | .ori _ => true
  | .xori _ => true
  | .sllImm f => (f.imm.toNat < 64)
  | .srlImm f => (f.imm.toNat < 64)
  | .sraImm f => (f.imm.toNat < 64)
  | .rolImm f => (f.imm.toNat < 64)
  | .ldhi _ => true
  | .addpc _ => true
  | .ldD _ => true
  | .ldW _ => true
  | .ldWz _ => true
  | .ldH _ => true
  | .ldHz _ => true
  | .ldB _ => true
  | .ldBz _ => true
  | .stD _ => true
  | .stW _ => true
  | .stH _ => true
  | .stB _ => true
  | .beq _ => true
  | .bne _ => true
  | .blt _ => true
  | .bge _ => true
  | .blo _ => true
  | .bhs _ => true
  | .jal _ => true
  | .jalr _ => true
  | .aswpW f => (f.scope.toNat < 6)
  | .aaddW f => (f.scope.toNat < 6)
  | .aandW f => (f.scope.toNat < 6)
  | .aorW f => (f.scope.toNat < 6)
  | .axorW f => (f.scope.toNat < 6)
  | .aminW f => (f.scope.toNat < 6)
  | .amaxW f => (f.scope.toNat < 6)
  | .aminzW f => (f.scope.toNat < 6)
  | .amaxzW f => (f.scope.toNat < 6)
  | .acasW f => (f.scope.toNat < 6)
  | .aswpD f => (f.scope.toNat < 6)
  | .aaddD f => (f.scope.toNat < 6)
  | .aandD f => (f.scope.toNat < 6)
  | .aorD f => (f.scope.toNat < 6)
  | .axorD f => (f.scope.toNat < 6)
  | .aminD f => (f.scope.toNat < 6)
  | .amaxD f => (f.scope.toNat < 6)
  | .aminzD f => (f.scope.toNat < 6)
  | .amaxzD f => (f.scope.toNat < 6)
  | .acasD f => (f.scope.toNat < 6)
  | .ldAcqW f => (f.gb == 0) && !f.sb && (f.scope.toNat < 6)
  | .ldAcqD f => (f.gb == 0) && !f.sb && (f.scope.toNat < 6)
  | .stRelW f => (f.gb == 0) && !f.sb && (f.scope.toNat < 6)
  | .stRelD f => (f.gb == 0) && !f.sb && (f.scope.toNat < 6)
  | .fenceSc f => (f.gd == 0) && (f.ga == 0) && (f.gb == 0) && !f.sa && !f.sb && (f.scope.toNat < 6)
  | .await f => (f.scope.toNat < 6)
  | .wake f => (f.gd == 0) && (f.gb == 0) && !f.sb && (f.scope.toNat < 6)
  | .barArrive f => (f.gd == 0) && (f.ga == 0) && (f.gb == 0) && !f.sa && !f.sb && (f.bar.toNat < 48)
  | .barWait f => (f.gd == 0) && (f.gb == 0) && !f.sb && (f.bar.toNat < 48)
  | .barSync f => (f.gd == 0) && (f.ga == 0) && (f.gb == 0) && !f.sa && !f.sb && (f.bar.toNat < 48)
  | .barCfg f => (f.gd == 0) && (f.gb == 0) && !f.sb && (f.bar.toNat < 48)
  | .barStat f => (f.gb == 0) && !f.sb && (f.bar.toNat < 48)
  | .mfs f => (f.ga == 0) && !f.sa
  | .mts f => (f.gd == 0) && (f.imm != 0 && f.imm != 1 && f.imm != 3 && f.imm != 0x409)
  | .mtsVl f => (f.gd == 0) && (f.imm == 0x0)
  | .mtsVt f => (f.gd == 0) && (f.imm == 0x1)
  | .mtsEs f => (f.gd == 0) && (f.imm == 0x3)
  | .mtsDirty f => (f.gd == 0) && (f.imm == 0x409)
  | .trap f => (f.gd == 0) && !f.sa && !f.sb
  | .eret f => (f.gd == 0) && (f.ga == 0) && (f.gb == 0) && !f.sa && !f.sb
  | .ifence f => (f.gd == 0) && (f.ga == 0) && (f.gb == 0) && !f.sa && !f.sb
  | .tlbinvAll f => (f.gd == 0) && (f.ga == 0) && (f.gb == 0) && !f.sa && !f.sb
  | .tlbinvCtx f => (f.gd == 0) && (f.gb == 0) && !f.sb
  | .tlbinvVa f => (f.gd == 0)
  | .cflush f => (f.gd == 0) && (f.gb == 0) && !f.sb
  | .cclean f => (f.gd == 0) && (f.gb == 0) && !f.sb
  | .cfetch f => (f.gd == 0) && (f.gb == 0) && !f.sb
  | .tlbprobe f => (f.gb == 0) && !f.sb
  | .spawn f => (f.gb == 0) && !f.sb
  | .exit f => (f.gd == 0) && (f.ga == 0) && (f.gb == 0) && !f.sa && !f.sb
  | .yield f => (f.gd == 0) && (f.ga == 0) && (f.gb == 0) && !f.sa && !f.sb
  | .self f => (f.ga == 0) && !f.sa && !f.sb && (f.gb.toNat < 6)
  | .vclaim f => (f.gb == 0) && !f.sb
  | .vsetl f => (f.gb == 0) && !f.sb
  | .vsett f => (f.gb == 0) && !f.sb
  | .vsetes f => (f.gd == 0) && (f.gb == 0) && !f.sb
  | .vframe _ => true
  | .qbind f => (f.vd.toNat < 8) && (f.guard == 0) && !f.gneg && !f.cv && (f.fnx == 0)
  | .qfree f => (f.vd.toNat < 8) && (f.va == 0) && (f.vb == 0) && !f.sa && !f.sb && (f.guard == 0) && !f.gneg && !f.cv && (f.fnx == 0)
  | .vpop f => (f.va.toNat < 8) && (f.vb == 0) && !f.sa && !f.sb && (f.guard == 0) && !f.gneg && (f.fnx == 0)
  | .hld f => (f.vd.toNat < 8) && (f.vb == 0) && !f.sb && (f.guard == 0) && !f.gneg && !f.cv && (f.fnx == 0)
  | .hst f => (f.vd.toNat < 8) && (f.vb == 0) && !f.sb && (f.guard == 0) && !f.gneg && !f.cv && (f.fnx == 0)
  | .tcopy f => (f.vd.toNat < 8) && (f.va.toNat < 8) && !f.sa && (f.guard == 0) && !f.gneg && !f.cv && (f.fnx == 0)
  | .xpin f => (f.vb == 0) && !f.sb && (f.guard == 0) && !f.gneg && !f.cv && (f.fnx == 0)
  | .xunpin f => (f.vd == 0) && (f.vb == 0) && !f.sb && (f.guard == 0) && !f.gneg && !f.cv && (f.fnx == 0)
  | .xrun f => (f.guard == 0) && !f.gneg && !f.cv && (f.fnx == 0)
  | .xsplice f => (f.guard == 0) && !f.gneg && !f.cv && (f.fnx == 0)
  | .xreap f => (f.guard == 0) && !f.gneg && !f.cv && (f.fnx == 0)
  | .xlen f => (f.vb == 0) && !f.sb && (f.guard == 0) && !f.gneg && !f.cv && (f.fnx == 0)
  | .ringCfg f => (f.vd.toNat < 4) && (f.vb == 0) && !f.sb && (f.guard == 0) && !f.gneg && !f.cv && (f.fnx == 0)
  | .ringPost f => (f.vd.toNat < 4) && (f.va == 0) && (f.vb == 0) && !f.sa && !f.sb && (f.guard == 0) && !f.gneg && !f.cv && (f.fnx == 0)
  | .qbindRing f => (f.vd.toNat < 8) && (f.va.toNat < 4) && (f.vb == 0) && !f.sa && !f.sb && (f.guard == 0) && !f.gneg && !f.cv && (f.fnx == 0)
  | .ringHdr f => (f.va.toNat < 8) && (f.vb == 0) && !f.sa && !f.sb && (f.guard == 0) && !f.gneg && !f.cv && (f.fnx == 0)
  | .ringDone f => (f.vd == 0) && (f.va.toNat < 8) && (f.vb == 0) && !f.sa && !f.sb && (f.guard == 0) && !f.gneg && !f.cv && (f.fnx == 0)
  | .ringStat f => (f.va.toNat < 4) && (f.vb == 0) && !f.sa && !f.sb && (f.guard == 0) && !f.gneg && !f.cv && (f.fnx == 0)
  | .ringBrk f => (f.vd.toNat < 4) && (f.va == 0) && (f.vb == 0) && !f.sa && !f.sb && (f.guard == 0) && !f.gneg && !f.cv && (f.fnx == 0)
  | .kseal f => (f.vd == 0) && (f.guard == 0) && !f.gneg && !f.cv && (f.fnx == 0)
  | .kopen f => (f.vd == 0) && (f.guard == 0) && !f.gneg && !f.cv && (f.fnx == 0)
  | .vadd f => (f.fnx == 0)
  | .vsub f => (f.fnx == 0)
  | .vmul f => (f.fnx == 0)
  | .vmac f => (f.fnx == 0)
  | .vmin f => (f.fnx == 0)
  | .vmax f => (f.fnx == 0)
  | .vdiv f => (f.fnx == 0)
  | .vrem f => (f.fnx == 0)
  | .vand f => (f.fnx == 0)
  | .vor f => (f.fnx == 0)
  | .vxor f => (f.fnx == 0)
  | .vsll f => (f.fnx == 0)
  | .vsrl f => (f.fnx == 0)
  | .vsra f => (f.fnx == 0)
  | .vadds f => (f.fnx == 0)
  | .vsubs f => (f.fnx == 0)
  | .vsqrt f => (f.vb == 0) && !f.sb && (f.fnx == 0)
  | .vnmac f => (f.fnx == 0)
  | .vabs f => (f.vb == 0) && !f.sb && (f.fnx == 0)
  | .vneg f => (f.vb == 0) && !f.sb && (f.fnx == 0)
  | .vsgnj f => (f.fnx == 0)
  | .vexp2 f => (f.vb == 0) && !f.sb && (f.fnx == 0)
  | .vlog2 f => (f.vb == 0) && !f.sb && (f.fnx == 0)
  | .vrint f => (f.vb == 0) && !f.sb && (f.fnx == 0)
  | .vscale f => (f.fnx == 0)
  | .vcmpEq _ => true
  | .vcmpNe _ => true
  | .vcmpLt _ => true
  | .vcmpGe _ => true
  | .vcmpLe _ => true
  | .vcmpGt _ => true
  | .vcmpUn _ => true
  | .vcmpOrd _ => true
  | .pand f => (f.rsv == 0)
  | .por f => (f.rsv == 0)
  | .pxor f => (f.rsv == 0)
  | .pandn f => (f.rsv == 0)
  | .pnot f => (f.pb == 0) && (f.rsv == 0)
  | .pset f => (f.pa == 0) && (f.pb == 0) && (f.rsv == 0)
  | .pfirst f => (f.pb == 0) && (f.rsv == 0)
  | .pbrkb f => (f.pb == 0) && (f.rsv == 0)
  | .pbrka f => (f.pb == 0) && (f.rsv == 0)
  | .vmov f => (f.vb == 0) && !f.sb && (f.fnx == 0)
  | .vslideup f => (f.fnx == 0)
  | .vslidedn f => (f.fnx == 0)
  | .vperm f => (f.fnx == 0)
  | .vcompress f => (f.vb == 0) && !f.sb && (f.fnx == 0)
  | .vexpand f => (f.vb == 0) && !f.sb && (f.fnx == 0)
  | .vbcast f => (f.va == 0) && !f.sa && (f.fnx == 0)
  | .vrev f => (f.vb == 0) && !f.sb && (f.fnx == 0)
  | .vext f => (f.guard == 0) && !f.gneg && (f.fnx == 0)
  | .vins f => (f.guard == 0) && !f.gneg && (f.fnx == 0)
  | .vredOsum f => (f.fnx == 0)
  | .vredSum f => (f.fnx == 0)
  | .vredMax f => (f.fnx == 0)
  | .vredMin f => (f.fnx == 0)
  | .vredAnd f => (f.fnx == 0)
  | .vredOr f => (f.fnx == 0)
  | .vredXor f => (f.fnx == 0)
  | .vscanSum f => (f.fnx == 0)
  | .vscanMax f => (f.fnx == 0)
  | .vscanMin f => (f.fnx == 0)
  | .vredGsum f => (f.fnx == 0)
  | .vcvt f => !f.sb && (f.fnx == 0) && (convCode f.vb)
  | .vcvtRtz f => !f.sb && (f.fnx == 0) && (convCode f.vb)
  | .vcvtSat f => !f.sb && (f.fnx == 0) && (convCode f.vb)
  | .vcvtf f => !f.sb && (f.fnx == 0) && (convCode f.vb)
  | .vpopc f => (f.va.toNat < 8) && (f.vb == 0) && !f.sb && (f.fnx == 0)
  | .vfirst f => (f.va.toNat < 8) && (f.vb == 0) && !f.sb && (f.fnx == 0)
  | .vfromp f => (f.va.toNat < 8) && (f.vb == 0) && !f.sb && (f.fnx == 0)
  | .vtop f => (f.vd.toNat < 8) && (f.vb == 0) && !f.sb && (f.fnx == 0)
  | .vaddVs f => (f.fnx == 0)
  | .vsubVs f => (f.fnx == 0)
  | .vmulVs f => (f.fnx == 0)
  | .vmacVs f => (f.fnx == 0)
  | .vminVs f => (f.fnx == 0)
  | .vmaxVs f => (f.fnx == 0)
  | .vdivVs f => (f.fnx == 0)
  | .vandVs f => (f.fnx == 0)
  | .vorVs f => (f.fnx == 0)
  | .vxorVs f => (f.fnx == 0)
  | .vsllVs f => (f.fnx == 0)
  | .vsrlVs f => (f.fnx == 0)
  | .vsraVs f => (f.fnx == 0)
  | .vaddsVs f => (f.fnx == 0)
  | .vsubsVs f => (f.fnx == 0)
  | .vld f => (f.vb == 0) && !f.sb && (f.fnx == 0)
  | .vlds f => (f.fnx == 0)
  | .vldt f => (f.fnx == 0)
  | .vldseg2 f => (f.vb == 0) && !f.sb && (f.fnx == 0)
  | .vldseg3 f => (f.vb == 0) && !f.sb && (f.fnx == 0)
  | .vldseg4 f => (f.vb == 0) && !f.sb && (f.fnx == 0)
  | .vldseg5 f => (f.vb == 0) && !f.sb && (f.fnx == 0)
  | .vldseg6 f => (f.vb == 0) && !f.sb && (f.fnx == 0)
  | .vldseg7 f => (f.vb == 0) && !f.sb && (f.fnx == 0)
  | .vldseg8 f => (f.vb == 0) && !f.sb && (f.fnx == 0)
  | .vst f => (f.vb == 0) && !f.sb && (f.fnx == 0)
  | .vsts f => (f.fnx == 0)
  | .vstt f => (f.fnx == 0)
  | .vstseg2 f => (f.vb == 0) && !f.sb && (f.fnx == 0)
  | .vstseg3 f => (f.vb == 0) && !f.sb && (f.fnx == 0)
  | .vstseg4 f => (f.vb == 0) && !f.sb && (f.fnx == 0)
  | .vstseg5 f => (f.vb == 0) && !f.sb && (f.fnx == 0)
  | .vstseg6 f => (f.vb == 0) && !f.sb && (f.fnx == 0)
  | .vstseg7 f => (f.vb == 0) && !f.sb && (f.fnx == 0)
  | .vstseg8 f => (f.vb == 0) && !f.sb && (f.fnx == 0)
  | .vgather32 f => (f.fnx == 0)
  | .vgather64 f => (f.fnx == 0)
  | .vgatherX32 f => (f.fnx == 0)
  | .vgatherX64 f => (f.fnx == 0)
  | .vscatter32 f => (f.fnx == 0)
  | .vscatter64 f => (f.fnx == 0)
  | .vscatterX32 f => (f.fnx == 0)
  | .vscatterX64 f => (f.fnx == 0)
  | .vamoAdd f => !f.cv && (f.fnx == 0)
  | .vamoMin f => !f.cv && (f.fnx == 0)
  | .vamoMax f => !f.cv && (f.fnx == 0)
  | .vamoAnd f => !f.cv && (f.fnx == 0)
  | .vamoOr f => !f.cv && (f.fnx == 0)
  | .vamoXor f => !f.cv && (f.fnx == 0)
  | .vamoSwp f => !f.cv && (f.fnx == 0)
  | .vamofAdd f => !f.cv && (f.fnx == 0)
  | .vamofMin f => !f.cv && (f.fnx == 0)
  | .vamofMax f => !f.cv && (f.fnx == 0)
  | .vamofAnd f => !f.cv && (f.fnx == 0)
  | .vamofOr f => !f.cv && (f.fnx == 0)
  | .vamofXor f => !f.cv && (f.fnx == 0)
  | .vamofSwp f => !f.cv && (f.fnx == 0)
  | .mmab f => (f.fnx == 0)
  | .mmah f => (f.fnx == 0)
  | .mzero f => (f.va == 0) && (f.vb == 0) && !f.sa && !f.sb && (f.fnx == 0)
  | .vwmac f => (f.fnx == 0)
  | .vbnorm f => !f.sb && (f.fnx == 0) && (1 ≤ f.vb.toNat && f.vb.toNat ≤ 15)
  | .vbexpF32 f => (f.vb == 0) && !f.sb && (f.fnx == 0)
  | .vbexpGet f => (f.vb == 0) && !f.sb && (f.fnx == 0)
  | .vbexpSet f => (f.vb == 0) && !f.sb && (f.fnx == 0)
  | .vgroup f => (f.vb.toNat < 8) && !f.sb && (f.fnx == 0)
  | .vxsect f => (f.va.toNat < 8) && (f.vb.toNat < 8) && !f.sa && !f.sb && !f.gneg && (f.fnx == 0) && (f.va != f.vb)
  | .vmerge f => !f.gneg && (f.fnx == 0)
  | .vsegsum f => (f.vb.toNat < 8) && !f.sb && (f.fnx == 0)
  | .vsegmax f => (f.vb.toNat < 8) && !f.sb && (f.fnx == 0)
  | .vsegmin f => (f.vb.toNat < 8) && !f.sb && (f.fnx == 0)
  | .tcon f => (f.vd == 0) && (f.vb == 0) && !f.sb && (f.guard == 0) && !f.gneg && !f.cv && (f.fnx == 0)
  | .vdesc f => !f.sa && !f.cv && (f.vd != f.va)
  | .vpnode f => (f.va.toNat < 4) && !f.sa && !f.cv && (f.fnx == 0)
  | .vpget f => (f.va.toNat < 4) && (f.vb == 0) && !f.sa && !f.sb && !f.cv && (f.fnx == 0)
  | .vpclr f => (f.vd == 0) && (f.va.toNat < 4) && (f.vb == 0) && !f.sa && !f.sb && !f.cv && (f.fnx == 0)
  | .entryDispatch => true
  | .entryRetire => true
  | .sliceExpiry _ _ => true
  | .slotUnbind _ _ => true
  | .contextSave _ => true
  | .slotBind _ => true
  | .streamEngineFetch _ => true
  | .copyLanding _ => true
  | .ksealCompletion _ => true
  | .kopenCompletion _ => true
  | .barrierPhaseComplete _ _ => true
  | .awaitWakeup _ => true
  | .ringHandshake _ _ _ => true
  | .ringArrival _ _ => true
  | .ringForward _ => true
  | .ringSlotRelease _ => true
  | .ringBreakFlit _ => true
  | .thrumezLinkLoss _ => true
  | .thrumezLinkRetrain _ => true
  | .launchPortWrite _ record => record.length == 64
  | .launchStart _ _ => true
  | .commitLayout d _ => d.wf
  | .readLayoutState d => d.wf
  | .registerSession d => d.wf
  | .energyReading d => d.wf
  | .attestation d => d.wf
  | .readCounts d => d.wf
  | .readEnabledUnits d => d.wf
  | .configurePageCounters d => d.wf
  | .promote d => d.wf
  | .cancelPromotion d => d.wf
  | .pagePromotion _ _ => true
  | .clearStartCount d => d.wf
  | .imageChunk d => d.wf
  | .commitImage d => d.wf
  | .tearDownLaunch d => d.wf
  | .hostMemoryRead _ _ _ => true
  | .hostMemoryWrite _ _ _ => true
  | .energyAttribution _ => true
  | .powerUp _ => true
  | .firmwareReady => true
  | .powerLoss => true
  | .watchdogReset _ => true
  | .laneGroupDisable _ _ _ => true
  | .illegalInstruction _ => true
  | .instructionFetch => true
  | .unknownRequestCode _ d => d.wf
  | .packageReset _ => true
  | .unitRemoval _ _ => true

end Sys2Proof
end

