-- ==== Sys2Proof/Decode.lean ====
section
/-!
DEFINITION. The decoder (R30 to R33, R47) and, after it, the encoder. Every instruction is one 32-bit word, little-endian
(R5, R29). The decoder is total: a word that is no instruction is rejected by name. The compiler's runtime has no tag for
constructors beyond the 245th, so the definitions that build one are marked noncomputable; Lean's kernel evaluates them.
-/
namespace Sys2Proof

/-- Why a word is no instruction (R47). Every one of these takes cause 0x40. -/
inductive Reject where
  /-- Major 0x00. -/
  | majorIllegal
  /-- Majors 0x24 to 0x27 and 0x38 to 0x3F. -/
  | majorReserved
  /-- A function or condition value that no entry assigns. -/
  | functionReserved
  /-- A reserved field that is not zero, or a field value outside its file or range. -/
  | fieldReserved
  deriving DecidableEq, Repr

/-- What a word decodes to. -/
inductive Decoded where
  | instr (i : Instr)
  | reject (r : Reject)
  deriving DecidableEq, Repr

/-- A function table's answer, where no answer is a reserved function. -/
def orReserved : Option Instr → Decoded
  | some i => .instr i
  | none => .reject .functionReserved

/-- One bit of a word. -/
def bitOf (w : BitVec 32) (n : Nat) : Bool := w.extractLsb' n 1 == 1#1

/-- The fields of an SR word (R30). -/
def srOf (w : BitVec 32) : FmtSR :=
  { gd := w.extractLsb' 21 5, ga := w.extractLsb' 16 5, gb := w.extractLsb' 11 5, sa := bitOf w 10, sb := bitOf w 9 }

/-- The fields of a scalar atomic (R252). -/
def atomicOf (w : BitVec 32) : FmtAtomic :=
  { gd := w.extractLsb' 21 5, ga := w.extractLsb' 16 5, gb := w.extractLsb' 11 5, sa := bitOf w 10, sb := bitOf w 9,
    order := w.extractLsb' 3 2, scope := w.extractLsb' 0 3 }

/-- The fields of a word of the memory group of major 0x19 (R255). -/
def memOf (w : BitVec 32) : FmtMem :=
  { gd := w.extractLsb' 21 5, ga := w.extractLsb' 16 5, gb := w.extractLsb' 11 5, sa := bitOf w 10, sb := bitOf w 9,
    scope := w.extractLsb' 0 3 }

/-- The fields of a word of the barrier group of major 0x19 (R255, R262). -/
def barOf (w : BitVec 32) : FmtBar :=
  { gd := w.extractLsb' 21 5, ga := w.extractLsb' 16 5, gb := w.extractLsb' 11 5, sa := bitOf w 10, sb := bitOf w 9,
    bar := w.extractLsb' 0 6 }

/-- The fields of an SI word (R30). -/
def siOf (w : BitVec 32) : FmtSI :=
  { gd := w.extractLsb' 21 5, ga := w.extractLsb' 16 5, sa := bitOf w 15, imm := w.extractLsb' 0 15 }

/-- The fields of a shift by an immediate: the selector [14:12] is the constructor's, so `imm` is [11:0] (R32). -/
def shiftOf (w : BitVec 32) : FmtSI :=
  { gd := w.extractLsb' 21 5, ga := w.extractLsb' 16 5, sa := bitOf w 15, imm := 0#3 ++ w.extractLsb' 0 12 }

/-- The fields of an SU word (R30). -/
def suOf (w : BitVec 32) : FmtSU := { gd := w.extractLsb' 21 5, imm := w.extractLsb' 0 21 }

/-- The fields of an SB word (R30). -/
def sbOf (w : BitVec 32) : FmtSB :=
  { ga := w.extractLsb' 21 5, gb := w.extractLsb' 16 5, strict := bitOf w 15, offset := w.extractLsb' 0 12 }

/-- The fields of an SJ word (R30). -/
def sjOf (w : BitVec 32) : FmtSJ := { gd := w.extractLsb' 21 5, offset := w.extractLsb' 0 21 }

/-- The fields of a V word (R30). -/
def vOf (w : BitVec 32) : FmtV :=
  { vd := w.extractLsb' 21 5, va := w.extractLsb' 16 5, vb := w.extractLsb' 11 5, sa := bitOf w 10, sb := bitOf w 9,
    guard := w.extractLsb' 6 3, gneg := bitOf w 5, cv := bitOf w 4, fnx := 0 }

/-- The fields of a vdesc word: its path-trace register is fn4[1:0] (R222). -/
def vdescOf (w : BitVec 32) : FmtV := { vOf w with fnx := w.extractLsb' 0 2 }

/-- The fields of a VC word (R30). -/
def vcOf (w : BitVec 32) : FmtVC :=
  { pt := w.extractLsb' 23 3, pf := w.extractLsb' 20 3, va := w.extractLsb' 15 5, vb := w.extractLsb' 10 5,
    strict := bitOf w 9, guard := w.extractLsb' 6 3, gneg := bitOf w 5, cv := bitOf w 4 }

/-- The fields of a VP word (R30). -/
def vpOf (w : BitVec 32) : FmtVP :=
  { pd := w.extractLsb' 23 3, pa := w.extractLsb' 20 3, pb := w.extractLsb' 17 3, rsv := w.extractLsb' 9 8,
    guard := w.extractLsb' 6 3, gneg := bitOf w 5, cv := bitOf w 4 }

/-- The fields of a VF word (R30). -/
def vfOf (w : BitVec 32) : FmtVF :=
  { ga := w.extractLsb' 21 5, n1 := w.extractLsb' 16 4, dstep := w.extractLsb' 12 4, astep := w.extractLsb' 8 4,
    bstep := w.extractLsb' 4 4 }

/-- Major 0x01 (R33). -/
def decodeMajor01 (w : BitVec 32) : Option Instr :=
  match w.extractLsb' 0 9 with
  | 0x000#9 => some (.add (srOf w))
  | 0x001#9 => some (.sub (srOf w))
  | 0x002#9 => some (.and (srOf w))
  | 0x003#9 => some (.or (srOf w))
  | 0x004#9 => some (.xor (srOf w))
  | 0x005#9 => some (.andn (srOf w))
  | 0x008#9 => some (.sll (srOf w))
  | 0x009#9 => some (.srl (srOf w))
  | 0x00a#9 => some (.sra (srOf w))
  | 0x00b#9 => some (.rol (srOf w))
  | 0x010#9 => some (.mul (srOf w))
  | 0x011#9 => some (.mulh (srOf w))
  | 0x012#9 => some (.mulhz (srOf w))
  | 0x014#9 => some (.div (srOf w))
  | 0x015#9 => some (.divz (srOf w))
  | 0x016#9 => some (.rem (srOf w))
  | 0x017#9 => some (.remz (srOf w))
  | 0x018#9 => some (.ceq (srOf w))
  | 0x019#9 => some (.cne (srOf w))
  | 0x01a#9 => some (.clt (srOf w))
  | 0x01b#9 => some (.cge (srOf w))
  | 0x01c#9 => some (.clo (srOf w))
  | 0x01d#9 => some (.chs (srOf w))
  | 0x020#9 => some (.min (srOf w))
  | 0x021#9 => some (.max (srOf w))
  | 0x022#9 => some (.minz (srOf w))
  | 0x023#9 => some (.maxz (srOf w))
  | 0x028#9 => some (.clz (srOf w))
  | 0x029#9 => some (.ctz (srOf w))
  | 0x02a#9 => some (.popc (srOf w))
  | _ => none

/-- Major 0x06 (R33). -/
def decodeMajor06 (w : BitVec 32) : Option Instr :=
  match w.extractLsb' 12 3 with
  | 0#3 => some (.sllImm (shiftOf w))
  | 1#3 => some (.srlImm (shiftOf w))
  | 2#3 => some (.sraImm (shiftOf w))
  | 3#3 => some (.rolImm (shiftOf w))
  | _ => none

/-- Major 0x14 (R33). -/
def decodeMajor14 (w : BitVec 32) : Option Instr :=
  match w.extractLsb' 12 3 with
  | 0#3 => some (.beq (sbOf w))
  | 1#3 => some (.bne (sbOf w))
  | 2#3 => some (.blt (sbOf w))
  | 3#3 => some (.bge (sbOf w))
  | 4#3 => some (.blo (sbOf w))
  | 5#3 => some (.bhs (sbOf w))
  | _ => none

/-- Major 0x17 (R33). -/
def decodeMajor17 (w : BitVec 32) : Option Instr :=
  match w.extractLsb' 5 4 with
  | 0x0#4 => some (.aswpW (atomicOf w))
  | 0x1#4 => some (.aaddW (atomicOf w))
  | 0x2#4 => some (.aandW (atomicOf w))
  | 0x3#4 => some (.aorW (atomicOf w))
  | 0x4#4 => some (.axorW (atomicOf w))
  | 0x5#4 => some (.aminW (atomicOf w))
  | 0x6#4 => some (.amaxW (atomicOf w))
  | 0x7#4 => some (.aminzW (atomicOf w))
  | 0x8#4 => some (.amaxzW (atomicOf w))
  | 0x9#4 => some (.acasW (atomicOf w))
  | _ => none

/-- Major 0x18 (R33). -/
def decodeMajor18 (w : BitVec 32) : Option Instr :=
  match w.extractLsb' 5 4 with
  | 0x0#4 => some (.aswpD (atomicOf w))
  | 0x1#4 => some (.aaddD (atomicOf w))
  | 0x2#4 => some (.aandD (atomicOf w))
  | 0x3#4 => some (.aorD (atomicOf w))
  | 0x4#4 => some (.axorD (atomicOf w))
  | 0x5#4 => some (.aminD (atomicOf w))
  | 0x6#4 => some (.amaxD (atomicOf w))
  | 0x7#4 => some (.aminzD (atomicOf w))
  | 0x8#4 => some (.amaxzD (atomicOf w))
  | 0x9#4 => some (.acasD (atomicOf w))
  | _ => none

/-- Major 0x19 (R33). -/
def decodeMajor19 (w : BitVec 32) : Option Instr :=
  match w.extractLsb' 6 3 with
  | 0#3 =>
    match w.extractLsb' 3 3 with
    | 0#3 => some (.ldAcqW (memOf w))
    | 1#3 => some (.ldAcqD (memOf w))
    | 2#3 => some (.stRelW (memOf w))
    | 3#3 => some (.stRelD (memOf w))
    | 4#3 => some (.fenceSc (memOf w))
    | 5#3 => some (.await (memOf w))
    | 6#3 => some (.wake (memOf w))
    | _ => none
  | 1#3 => some (.barArrive (barOf w))
  | 2#3 => some (.barWait (barOf w))
  | 3#3 => some (.barSync (barOf w))
  | 4#3 => some (.barCfg (barOf w))
  | 5#3 => some (.barStat (barOf w))
  | _ => none

/-- Major 0x1b (R33). -/
def decodeMajor1B (w : BitVec 32) : Option Instr :=
  match w.extractLsb' 0 15 with
  | 0x000#15 => some (.mtsVl (siOf w))
  | 0x001#15 => some (.mtsVt (siOf w))
  | 0x003#15 => some (.mtsEs (siOf w))
  | 0x409#15 => some (.mtsDirty (siOf w))
  | _ => some (.mts (siOf w))

/-- Major 0x1c (R33). -/
def decodeMajor1C (w : BitVec 32) : Option Instr :=
  match w.extractLsb' 0 9 with
  | 0x000#9 => some (.trap (srOf w))
  | 0x001#9 => some (.eret (srOf w))
  | 0x002#9 => some (.ifence (srOf w))
  | 0x003#9 => some (.tlbinvAll (srOf w))
  | 0x004#9 => some (.tlbinvCtx (srOf w))
  | 0x005#9 => some (.tlbinvVa (srOf w))
  | 0x006#9 => some (.cflush (srOf w))
  | 0x007#9 => some (.cclean (srOf w))
  | 0x008#9 => some (.cfetch (srOf w))
  | 0x009#9 => some (.tlbprobe (srOf w))
  | _ => none

/-- Major 0x1d (R33). -/
def decodeMajor1D (w : BitVec 32) : Option Instr :=
  match w.extractLsb' 0 9 with
  | 0x000#9 => some (.spawn (srOf w))
  | 0x001#9 => some (.exit (srOf w))
  | 0x002#9 => some (.yield (srOf w))
  | 0x003#9 => some (.self (srOf w))
  | 0x004#9 => some (.vclaim (srOf w))
  | _ => none

/-- Major 0x1e (R33). -/
def decodeMajor1E (w : BitVec 32) : Option Instr :=
  match w.extractLsb' 0 9 with
  | 0x000#9 => some (.vsetl (srOf w))
  | 0x001#9 => some (.vsett (srOf w))
  | 0x002#9 => some (.vsetes (srOf w))
  | _ => none

/-- Major 0x20 (R33). -/
def decodeMajor20 (w : BitVec 32) : Option Instr :=
  match w.extractLsb' 0 4 with
  | 0x0#4 => some (.qbind (vOf w))
  | 0x1#4 => some (.qfree (vOf w))
  | 0x2#4 => some (.vpop (vOf w))
  | 0x3#4 => some (.hld (vOf w))
  | 0x4#4 => some (.hst (vOf w))
  | 0x5#4 => some (.tcopy (vOf w))
  | _ => none

/-- Major 0x21 (R33). -/
def decodeMajor21 (w : BitVec 32) : Option Instr :=
  match w.extractLsb' 0 4 with
  | 0x0#4 => some (.xpin (vOf w))
  | 0x1#4 => some (.xunpin (vOf w))
  | 0x2#4 => some (.xrun (vOf w))
  | 0x3#4 => some (.xsplice (vOf w))
  | 0x4#4 => some (.xreap (vOf w))
  | 0x5#4 => some (.xlen (vOf w))
  | _ => none

/-- Major 0x22 (R33). -/
def decodeMajor22 (w : BitVec 32) : Option Instr :=
  match w.extractLsb' 0 4 with
  | 0x0#4 => some (.ringCfg (vOf w))
  | 0x1#4 => some (.ringPost (vOf w))
  | 0x2#4 => some (.qbindRing (vOf w))
  | 0x3#4 => some (.ringHdr (vOf w))
  | 0x4#4 => some (.ringDone (vOf w))
  | 0x5#4 => some (.ringStat (vOf w))
  | 0x6#4 => some (.ringBrk (vOf w))
  | _ => none

/-- Major 0x23 (R33). -/
def decodeMajor23 (w : BitVec 32) : Option Instr :=
  match w.extractLsb' 0 4 with
  | 0x0#4 => some (.kseal (vOf w))
  | 0x1#4 => some (.kopen (vOf w))
  | _ => none

/-- Major 0x28 (R33). -/
def decodeMajor28 (w : BitVec 32) : Option Instr :=
  match w.extractLsb' 0 4 with
  | 0x0#4 => some (.vadd (vOf w))
  | 0x1#4 => some (.vsub (vOf w))
  | 0x2#4 => some (.vmul (vOf w))
  | 0x3#4 => some (.vmac (vOf w))
  | 0x4#4 => some (.vmin (vOf w))
  | 0x5#4 => some (.vmax (vOf w))
  | 0x6#4 => some (.vdiv (vOf w))
  | 0x7#4 => some (.vrem (vOf w))
  | 0x8#4 => some (.vand (vOf w))
  | 0x9#4 => some (.vor (vOf w))
  | 0xa#4 => some (.vxor (vOf w))
  | 0xb#4 => some (.vsll (vOf w))
  | 0xc#4 => some (.vsrl (vOf w))
  | 0xd#4 => some (.vsra (vOf w))
  | 0xe#4 => some (.vadds (vOf w))
  | 0xf#4 => some (.vsubs (vOf w))
  | _ => none

/-- Major 0x29 (R33). -/
def decodeMajor29 (w : BitVec 32) : Option Instr :=
  match w.extractLsb' 0 4 with
  | 0x0#4 => some (.vsqrt (vOf w))
  | 0x1#4 => some (.vnmac (vOf w))
  | 0x2#4 => some (.vabs (vOf w))
  | 0x3#4 => some (.vneg (vOf w))
  | 0x4#4 => some (.vsgnj (vOf w))
  | 0x5#4 => some (.vexp2 (vOf w))
  | 0x6#4 => some (.vlog2 (vOf w))
  | 0x7#4 => some (.vrint (vOf w))
  | 0x8#4 => some (.vscale (vOf w))
  | _ => none

/-- Major 0x2a (R33). -/
def decodeMajor2A (w : BitVec 32) : Option Instr :=
  match w.extractLsb' 0 4 with
  | 0x0#4 => some (.vcmpEq (vcOf w))
  | 0x1#4 => some (.vcmpNe (vcOf w))
  | 0x2#4 => some (.vcmpLt (vcOf w))
  | 0x3#4 => some (.vcmpGe (vcOf w))
  | 0x4#4 => some (.vcmpLe (vcOf w))
  | 0x5#4 => some (.vcmpGt (vcOf w))
  | 0x6#4 => some (.vcmpUn (vcOf w))
  | 0x7#4 => some (.vcmpOrd (vcOf w))
  | _ => none

/-- Major 0x2b (R33). -/
def decodeMajor2B (w : BitVec 32) : Option Instr :=
  match w.extractLsb' 0 4 with
  | 0x0#4 => some (.pand (vpOf w))
  | 0x1#4 => some (.por (vpOf w))
  | 0x2#4 => some (.pxor (vpOf w))
  | 0x3#4 => some (.pandn (vpOf w))
  | 0x4#4 => some (.pnot (vpOf w))
  | 0x5#4 => some (.pset (vpOf w))
  | 0x6#4 => some (.pfirst (vpOf w))
  | 0x7#4 => some (.pbrkb (vpOf w))
  | 0x8#4 => some (.pbrka (vpOf w))
  | _ => none

/-- Major 0x2c (R33). -/
def decodeMajor2C (w : BitVec 32) : Option Instr :=
  match w.extractLsb' 0 4 with
  | 0x0#4 => some (.vmov (vOf w))
  | 0x1#4 => some (.vslideup (vOf w))
  | 0x2#4 => some (.vslidedn (vOf w))
  | 0x3#4 => some (.vperm (vOf w))
  | 0x4#4 => some (.vcompress (vOf w))
  | 0x5#4 => some (.vexpand (vOf w))
  | 0x6#4 => some (.vbcast (vOf w))
  | 0x7#4 => some (.vrev (vOf w))
  | 0x8#4 => some (.vext (vOf w))
  | 0x9#4 => some (.vins (vOf w))
  | _ => none

/-- Major 0x2d (R33). -/
def decodeMajor2D (w : BitVec 32) : Option Instr :=
  match w.extractLsb' 0 4 with
  | 0x0#4 => some (.vredOsum (vOf w))
  | 0x1#4 => some (.vredSum (vOf w))
  | 0x2#4 => some (.vredMax (vOf w))
  | 0x3#4 => some (.vredMin (vOf w))
  | 0x4#4 => some (.vredAnd (vOf w))
  | 0x5#4 => some (.vredOr (vOf w))
  | 0x6#4 => some (.vredXor (vOf w))
  | 0x7#4 => some (.vscanSum (vOf w))
  | 0x8#4 => some (.vscanMax (vOf w))
  | 0x9#4 => some (.vscanMin (vOf w))
  | 0xa#4 => some (.vredGsum (vOf w))
  | _ => none

/-- Major 0x2e (R33). -/
def decodeMajor2E (w : BitVec 32) : Option Instr :=
  match w.extractLsb' 0 4 with
  | 0x0#4 => some (.vcvt (vOf w))
  | 0x1#4 => some (.vcvtRtz (vOf w))
  | 0x2#4 => some (.vcvtSat (vOf w))
  | 0x3#4 => some (.vcvtf (vOf w))
  | 0x4#4 => some (.vpopc (vOf w))
  | 0x5#4 => some (.vfirst (vOf w))
  | 0x6#4 => some (.vfromp (vOf w))
  | 0x7#4 => some (.vtop (vOf w))
  | _ => none

/-- Major 0x2f (R33). -/
def decodeMajor2F (w : BitVec 32) : Option Instr :=
  match w.extractLsb' 0 4 with
  | 0x0#4 => some (.vaddVs (vOf w))
  | 0x1#4 => some (.vsubVs (vOf w))
  | 0x2#4 => some (.vmulVs (vOf w))
  | 0x3#4 => some (.vmacVs (vOf w))
  | 0x4#4 => some (.vminVs (vOf w))
  | 0x5#4 => some (.vmaxVs (vOf w))
  | 0x6#4 => some (.vdivVs (vOf w))
  | 0x8#4 => some (.vandVs (vOf w))
  | 0x9#4 => some (.vorVs (vOf w))
  | 0xa#4 => some (.vxorVs (vOf w))
  | 0xb#4 => some (.vsllVs (vOf w))
  | 0xc#4 => some (.vsrlVs (vOf w))
  | 0xd#4 => some (.vsraVs (vOf w))
  | 0xe#4 => some (.vaddsVs (vOf w))
  | 0xf#4 => some (.vsubsVs (vOf w))
  | _ => none

/-- Major 0x30 (R33). -/
def decodeMajor30 (w : BitVec 32) : Option Instr :=
  match w.extractLsb' 0 4 with
  | 0x0#4 => some (.vld (vOf w))
  | 0x1#4 => some (.vlds (vOf w))
  | 0x2#4 => some (.vldt (vOf w))
  | 0x8#4 => some (.vldseg2 (vOf w))
  | 0x9#4 => some (.vldseg3 (vOf w))
  | 0xa#4 => some (.vldseg4 (vOf w))
  | 0xb#4 => some (.vldseg5 (vOf w))
  | 0xc#4 => some (.vldseg6 (vOf w))
  | 0xd#4 => some (.vldseg7 (vOf w))
  | 0xe#4 => some (.vldseg8 (vOf w))
  | _ => none

/-- Major 0x31 (R33). -/
def decodeMajor31 (w : BitVec 32) : Option Instr :=
  match w.extractLsb' 0 4 with
  | 0x0#4 => some (.vst (vOf w))
  | 0x1#4 => some (.vsts (vOf w))
  | 0x2#4 => some (.vstt (vOf w))
  | 0x8#4 => some (.vstseg2 (vOf w))
  | 0x9#4 => some (.vstseg3 (vOf w))
  | 0xa#4 => some (.vstseg4 (vOf w))
  | 0xb#4 => some (.vstseg5 (vOf w))
  | 0xc#4 => some (.vstseg6 (vOf w))
  | 0xd#4 => some (.vstseg7 (vOf w))
  | 0xe#4 => some (.vstseg8 (vOf w))
  | _ => none

/-- Major 0x32 (R33). -/
noncomputable def decodeMajor32 (w : BitVec 32) : Option Instr :=
  match w.extractLsb' 0 4 with
  | 0x0#4 => some (.vgather32 (vOf w))
  | 0x1#4 => some (.vgather64 (vOf w))
  | 0x2#4 => some (.vgatherX32 (vOf w))
  | 0x3#4 => some (.vgatherX64 (vOf w))
  | 0x8#4 => some (.vscatter32 (vOf w))
  | 0x9#4 => some (.vscatter64 (vOf w))
  | 0xa#4 => some (.vscatterX32 (vOf w))
  | 0xb#4 => some (.vscatterX64 (vOf w))
  | _ => none

/-- Major 0x33 (R33). -/
noncomputable def decodeMajor33 (w : BitVec 32) : Option Instr :=
  match w.extractLsb' 0 4 with
  | 0x0#4 => some (.vamoAdd (vOf w))
  | 0x1#4 => some (.vamoMin (vOf w))
  | 0x2#4 => some (.vamoMax (vOf w))
  | 0x3#4 => some (.vamoAnd (vOf w))
  | 0x4#4 => some (.vamoOr (vOf w))
  | 0x5#4 => some (.vamoXor (vOf w))
  | 0x6#4 => some (.vamoSwp (vOf w))
  | 0x8#4 => some (.vamofAdd (vOf w))
  | 0x9#4 => some (.vamofMin (vOf w))
  | 0xa#4 => some (.vamofMax (vOf w))
  | 0xb#4 => some (.vamofAnd (vOf w))
  | 0xc#4 => some (.vamofOr (vOf w))
  | 0xd#4 => some (.vamofXor (vOf w))
  | 0xe#4 => some (.vamofSwp (vOf w))
  | _ => none

/-- Major 0x34 (R33). -/
noncomputable def decodeMajor34 (w : BitVec 32) : Option Instr :=
  match w.extractLsb' 0 4 with
  | 0x0#4 => some (.mmab (vOf w))
  | 0x1#4 => some (.mmah (vOf w))
  | 0x2#4 => some (.mzero (vOf w))
  | 0x3#4 => some (.vwmac (vOf w))
  | 0x4#4 => some (.vbnorm (vOf w))
  | 0x5#4 => some (.vbexpF32 (vOf w))
  | 0x6#4 => some (.vbexpGet (vOf w))
  | 0x7#4 => some (.vbexpSet (vOf w))
  | _ => none

/-- Major 0x35 (R33). -/
noncomputable def decodeMajor35 (w : BitVec 32) : Option Instr :=
  match w.extractLsb' 0 4 with
  | 0x0#4 => some (.vgroup (vOf w))
  | 0x1#4 => some (.vxsect (vOf w))
  | 0x2#4 => some (.vmerge (vOf w))
  | 0x3#4 => some (.vsegsum (vOf w))
  | 0x4#4 => some (.vsegmax (vOf w))
  | 0x5#4 => some (.vsegmin (vOf w))
  | _ => none

/-- Major 0x36 (R33). -/
noncomputable def decodeMajor36 (w : BitVec 32) : Option Instr :=
  match w.extractLsb' 0 4 with
  | 0x0#4 => some (.tcon (vOf w))
  | _ => none

/-- Major 0x37 (R33). -/
noncomputable def decodeMajor37 (w : BitVec 32) : Option Instr :=
  match w.extractLsb' 0 4 with
  | 0x0#4 => some (.vdesc (vdescOf w))
  | 0x1#4 => some (.vdesc (vdescOf w))
  | 0x2#4 => some (.vdesc (vdescOf w))
  | 0x3#4 => some (.vdesc (vdescOf w))
  | 0x4#4 => some (.vpnode (vOf w))
  | 0x5#4 => some (.vpget (vOf w))
  | 0x6#4 => some (.vpclr (vOf w))
  | _ => none

/-- The instruction that the major opcode and the function select, before the reserved fields are looked at (R33). -/
noncomputable def decodeShape (w : BitVec 32) : Decoded :=
  match w.extractLsb' 26 6 with
  | 0x00#6 => .reject .majorIllegal
  | 0x01#6 => orReserved (decodeMajor01 w)
  | 0x02#6 => .instr (.addi (siOf w))
  | 0x03#6 => .instr (.andi (siOf w))
  | 0x04#6 => .instr (.ori (siOf w))
  | 0x05#6 => .instr (.xori (siOf w))
  | 0x06#6 => orReserved (decodeMajor06 w)
  | 0x07#6 => .instr (.ldhi (suOf w))
  | 0x08#6 => .instr (.addpc (suOf w))
  | 0x09#6 => .instr (.ldD (siOf w))
  | 0x0a#6 => .instr (.ldW (siOf w))
  | 0x0b#6 => .instr (.ldWz (siOf w))
  | 0x0c#6 => .instr (.ldH (siOf w))
  | 0x0d#6 => .instr (.ldHz (siOf w))
  | 0x0e#6 => .instr (.ldB (siOf w))
  | 0x0f#6 => .instr (.ldBz (siOf w))
  | 0x10#6 => .instr (.stD (siOf w))
  | 0x11#6 => .instr (.stW (siOf w))
  | 0x12#6 => .instr (.stH (siOf w))
  | 0x13#6 => .instr (.stB (siOf w))
  | 0x14#6 => orReserved (decodeMajor14 w)
  | 0x15#6 => .instr (.jal (sjOf w))
  | 0x16#6 => .instr (.jalr (siOf w))
  | 0x17#6 => orReserved (decodeMajor17 w)
  | 0x18#6 => orReserved (decodeMajor18 w)
  | 0x19#6 => orReserved (decodeMajor19 w)
  | 0x1a#6 => .instr (.mfs (siOf w))
  | 0x1b#6 => orReserved (decodeMajor1B w)
  | 0x1c#6 => orReserved (decodeMajor1C w)
  | 0x1d#6 => orReserved (decodeMajor1D w)
  | 0x1e#6 => orReserved (decodeMajor1E w)
  | 0x1f#6 => .instr (.vframe (vfOf w))
  | 0x20#6 => orReserved (decodeMajor20 w)
  | 0x21#6 => orReserved (decodeMajor21 w)
  | 0x22#6 => orReserved (decodeMajor22 w)
  | 0x23#6 => orReserved (decodeMajor23 w)
  | 0x28#6 => orReserved (decodeMajor28 w)
  | 0x29#6 => orReserved (decodeMajor29 w)
  | 0x2a#6 => orReserved (decodeMajor2A w)
  | 0x2b#6 => orReserved (decodeMajor2B w)
  | 0x2c#6 => orReserved (decodeMajor2C w)
  | 0x2d#6 => orReserved (decodeMajor2D w)
  | 0x2e#6 => orReserved (decodeMajor2E w)
  | 0x2f#6 => orReserved (decodeMajor2F w)
  | 0x30#6 => orReserved (decodeMajor30 w)
  | 0x31#6 => orReserved (decodeMajor31 w)
  | 0x32#6 => orReserved (decodeMajor32 w)
  | 0x33#6 => orReserved (decodeMajor33 w)
  | 0x34#6 => orReserved (decodeMajor34 w)
  | 0x35#6 => orReserved (decodeMajor35 w)
  | 0x36#6 => orReserved (decodeMajor36 w)
  | 0x37#6 => orReserved (decodeMajor37 w)
  | _ => .reject .majorReserved

/-- The reserved bits that no field of the format structures holds: VF [20] and [3:0] (R30). -/
def strayBits (w : BitVec 32) : Bool :=
  w.extractLsb' 26 6 == 0x1F#6 && (bitOf w 20 || w.extractLsb' 0 4 != 0#4)

/-- Decoding of one word: the shape, then the reserved fields (R47). -/
noncomputable def decode (w : BitVec 32) : Decoded :=
  match decodeShape w with
  | .reject r => .reject r
  | .instr i => if i.wf && !strayBits w then .instr i else .reject .fieldReserved

/-- Decoding of the bytes at a PC: the first four, little-endian (R5, R29). -/
noncomputable def decodeBytes (bs : List Byte) : Decoded := decode (BitVec.ofNat 32 (leNat (bs.take 4)))

/-- The instruction whose bits are `w`, numbered as the table of operations numbers them. A Z8 word is 32 bits, so bits of
`w` above `nbits` are zero. -/
noncomputable def decodeTableWord (nbits w : Nat) : Option Instr :=
  match decodeBytes (leBytes 4 (w % 2 ^ nbits)) with
  | .instr i => some i
  | .reject _ => none

/-! The encoder, from the same formats (R30). -/

/-- One bit as a bit vector. -/
def bit1 (b : Bool) : BitVec 1 := if b then 1#1 else 0#1

/-- An SR word. -/
def packSR (op : BitVec 6) (fn : BitVec 9) (f : FmtSR) : BitVec 32 :=
  op ++ f.gd ++ f.ga ++ f.gb ++ bit1 f.sa ++ bit1 f.sb ++ fn

/-- A scalar atomic. -/
def packAtomic (op : BitVec 6) (aop : BitVec 4) (f : FmtAtomic) : BitVec 32 :=
  op ++ f.gd ++ f.ga ++ f.gb ++ bit1 f.sa ++ bit1 f.sb ++ aop ++ f.order ++ f.scope

/-- A word of the memory group of major 0x19; `fn` is fn9[8:3]. -/
def packMem (op : BitVec 6) (fn : BitVec 6) (f : FmtMem) : BitVec 32 :=
  op ++ f.gd ++ f.ga ++ f.gb ++ bit1 f.sa ++ bit1 f.sb ++ fn ++ f.scope

/-- A word of the barrier group of major 0x19; `fn` is fn9[8:6]. -/
def packBar (op : BitVec 6) (fn : BitVec 3) (f : FmtBar) : BitVec 32 :=
  op ++ f.gd ++ f.ga ++ f.gb ++ bit1 f.sa ++ bit1 f.sb ++ fn ++ f.bar

/-- An SI word. -/
def packSI (op : BitVec 6) (f : FmtSI) : BitVec 32 := op ++ f.gd ++ f.ga ++ bit1 f.sa ++ f.imm

/-- A shift by an immediate: the selector and the amount (R32). -/
def packShift (sel : BitVec 3) (f : FmtSI) : BitVec 32 :=
  0x06#6 ++ f.gd ++ f.ga ++ bit1 f.sa ++ sel ++ f.imm.extractLsb' 0 12

/-- An SU word. -/
def packSU (op : BitVec 6) (f : FmtSU) : BitVec 32 := op ++ f.gd ++ f.imm

/-- An SB word. -/
def packSB (op : BitVec 6) (cond : BitVec 3) (f : FmtSB) : BitVec 32 :=
  op ++ f.ga ++ f.gb ++ bit1 f.strict ++ cond ++ f.offset

/-- An SJ word. -/
def packSJ (op : BitVec 6) (f : FmtSJ) : BitVec 32 := op ++ f.gd ++ f.offset

/-- A V word. -/
def packV (op : BitVec 6) (fn : BitVec 4) (f : FmtV) : BitVec 32 :=
  op ++ f.vd ++ f.va ++ f.vb ++ bit1 f.sa ++ bit1 f.sb ++ f.guard ++ bit1 f.gneg ++ bit1 f.cv ++ fn

/-- A vdesc word: fn4 is 0b00 and the path-trace register (R222). -/
def packVdesc (f : FmtV) : BitVec 32 :=
  0x37#6 ++ f.vd ++ f.va ++ f.vb ++ bit1 f.sa ++ bit1 f.sb ++ f.guard ++ bit1 f.gneg ++ bit1 f.cv ++ 0#2 ++ f.fnx

/-- A VC word. -/
def packVC (op : BitVec 6) (cond : BitVec 4) (f : FmtVC) : BitVec 32 :=
  op ++ f.pt ++ f.pf ++ f.va ++ f.vb ++ bit1 f.strict ++ f.guard ++ bit1 f.gneg ++ bit1 f.cv ++ cond

/-- A VP word. -/
def packVP (op : BitVec 6) (fn : BitVec 4) (f : FmtVP) : BitVec 32 :=
  op ++ f.pd ++ f.pa ++ f.pb ++ f.rsv ++ f.guard ++ bit1 f.gneg ++ bit1 f.cv ++ fn

/-- A VF word. -/
def packVF (op : BitVec 6) (f : FmtVF) : BitVec 32 :=
  op ++ f.ga ++ 0#1 ++ f.n1 ++ f.dstep ++ f.astep ++ f.bstep ++ 0#4

/-- The word of an instruction; an event has none. -/
def encode (i : Instr) : Option (BitVec 32) :=
  match i with
  | .add f => some (packSR 0x01 0x0 f)
  | .sub f => some (packSR 0x01 0x1 f)
  | .and f => some (packSR 0x01 0x2 f)
  | .or f => some (packSR 0x01 0x3 f)
  | .xor f => some (packSR 0x01 0x4 f)
  | .andn f => some (packSR 0x01 0x5 f)
  | .sll f => some (packSR 0x01 0x8 f)
  | .srl f => some (packSR 0x01 0x9 f)
  | .sra f => some (packSR 0x01 0xa f)
  | .rol f => some (packSR 0x01 0xb f)
  | .mul f => some (packSR 0x01 0x10 f)
  | .mulh f => some (packSR 0x01 0x11 f)
  | .mulhz f => some (packSR 0x01 0x12 f)
  | .div f => some (packSR 0x01 0x14 f)
  | .divz f => some (packSR 0x01 0x15 f)
  | .rem f => some (packSR 0x01 0x16 f)
  | .remz f => some (packSR 0x01 0x17 f)
  | .ceq f => some (packSR 0x01 0x18 f)
  | .cne f => some (packSR 0x01 0x19 f)
  | .clt f => some (packSR 0x01 0x1a f)
  | .cge f => some (packSR 0x01 0x1b f)
  | .clo f => some (packSR 0x01 0x1c f)
  | .chs f => some (packSR 0x01 0x1d f)
  | .min f => some (packSR 0x01 0x20 f)
  | .max f => some (packSR 0x01 0x21 f)
  | .minz f => some (packSR 0x01 0x22 f)
  | .maxz f => some (packSR 0x01 0x23 f)
  | .clz f => some (packSR 0x01 0x28 f)
  | .ctz f => some (packSR 0x01 0x29 f)
  | .popc f => some (packSR 0x01 0x2a f)
  | .addi f => some (packSI 0x02 f)
  | .andi f => some (packSI 0x03 f)
  | .ori f => some (packSI 0x04 f)
  | .xori f => some (packSI 0x05 f)
  | .sllImm f => some (packShift 0 f)
  | .srlImm f => some (packShift 1 f)
  | .sraImm f => some (packShift 2 f)
  | .rolImm f => some (packShift 3 f)
  | .ldhi f => some (packSU 0x07 f)
  | .addpc f => some (packSU 0x08 f)
  | .ldD f => some (packSI 0x09 f)
  | .ldW f => some (packSI 0x0a f)
  | .ldWz f => some (packSI 0x0b f)
  | .ldH f => some (packSI 0x0c f)
  | .ldHz f => some (packSI 0x0d f)
  | .ldB f => some (packSI 0x0e f)
  | .ldBz f => some (packSI 0x0f f)
  | .stD f => some (packSI 0x10 f)
  | .stW f => some (packSI 0x11 f)
  | .stH f => some (packSI 0x12 f)
  | .stB f => some (packSI 0x13 f)
  | .beq f => some (packSB 0x14 0x0 f)
  | .bne f => some (packSB 0x14 0x1 f)
  | .blt f => some (packSB 0x14 0x2 f)
  | .bge f => some (packSB 0x14 0x3 f)
  | .blo f => some (packSB 0x14 0x4 f)
  | .bhs f => some (packSB 0x14 0x5 f)
  | .jal f => some (packSJ 0x15 f)
  | .jalr f => some (packSI 0x16 f)
  | .aswpW f => some (packAtomic 0x17 0x0 f)
  | .aaddW f => some (packAtomic 0x17 0x1 f)
  | .aandW f => some (packAtomic 0x17 0x2 f)
  | .aorW f => some (packAtomic 0x17 0x3 f)
  | .axorW f => some (packAtomic 0x17 0x4 f)
  | .aminW f => some (packAtomic 0x17 0x5 f)
  | .amaxW f => some (packAtomic 0x17 0x6 f)
  | .aminzW f => some (packAtomic 0x17 0x7 f)
  | .amaxzW f => some (packAtomic 0x17 0x8 f)
  | .acasW f => some (packAtomic 0x17 0x9 f)
  | .aswpD f => some (packAtomic 0x18 0x0 f)
  | .aaddD f => some (packAtomic 0x18 0x1 f)
  | .aandD f => some (packAtomic 0x18 0x2 f)
  | .aorD f => some (packAtomic 0x18 0x3 f)
  | .axorD f => some (packAtomic 0x18 0x4 f)
  | .aminD f => some (packAtomic 0x18 0x5 f)
  | .amaxD f => some (packAtomic 0x18 0x6 f)
  | .aminzD f => some (packAtomic 0x18 0x7 f)
  | .amaxzD f => some (packAtomic 0x18 0x8 f)
  | .acasD f => some (packAtomic 0x18 0x9 f)
  | .ldAcqW f => some (packMem 0x19 0x0 f)
  | .ldAcqD f => some (packMem 0x19 0x1 f)
  | .stRelW f => some (packMem 0x19 0x2 f)
  | .stRelD f => some (packMem 0x19 0x3 f)
  | .fenceSc f => some (packMem 0x19 0x4 f)
  | .await f => some (packMem 0x19 0x5 f)
  | .wake f => some (packMem 0x19 0x6 f)
  | .barArrive f => some (packBar 0x19 0x1 f)
  | .barWait f => some (packBar 0x19 0x2 f)
  | .barSync f => some (packBar 0x19 0x3 f)
  | .barCfg f => some (packBar 0x19 0x4 f)
  | .barStat f => some (packBar 0x19 0x5 f)
  | .mfs f => some (packSI 0x1a f)
  | .mts f => some (packSI 0x1b f)
  | .mtsVl f => some (packSI 0x1b f)
  | .mtsVt f => some (packSI 0x1b f)
  | .mtsEs f => some (packSI 0x1b f)
  | .mtsDirty f => some (packSI 0x1b f)
  | .trap f => some (packSR 0x1c 0x0 f)
  | .eret f => some (packSR 0x1c 0x1 f)
  | .ifence f => some (packSR 0x1c 0x2 f)
  | .tlbinvAll f => some (packSR 0x1c 0x3 f)
  | .tlbinvCtx f => some (packSR 0x1c 0x4 f)
  | .tlbinvVa f => some (packSR 0x1c 0x5 f)
  | .cflush f => some (packSR 0x1c 0x6 f)
  | .cclean f => some (packSR 0x1c 0x7 f)
  | .cfetch f => some (packSR 0x1c 0x8 f)
  | .tlbprobe f => some (packSR 0x1c 0x9 f)
  | .spawn f => some (packSR 0x1d 0x0 f)
  | .exit f => some (packSR 0x1d 0x1 f)
  | .yield f => some (packSR 0x1d 0x2 f)
  | .self f => some (packSR 0x1d 0x3 f)
  | .vclaim f => some (packSR 0x1d 0x4 f)
  | .vsetl f => some (packSR 0x1e 0x0 f)
  | .vsett f => some (packSR 0x1e 0x1 f)
  | .vsetes f => some (packSR 0x1e 0x2 f)
  | .vframe f => some (packVF 0x1f f)
  | .qbind f => some (packV 0x20 0x0 f)
  | .qfree f => some (packV 0x20 0x1 f)
  | .vpop f => some (packV 0x20 0x2 f)
  | .hld f => some (packV 0x20 0x3 f)
  | .hst f => some (packV 0x20 0x4 f)
  | .tcopy f => some (packV 0x20 0x5 f)
  | .xpin f => some (packV 0x21 0x0 f)
  | .xunpin f => some (packV 0x21 0x1 f)
  | .xrun f => some (packV 0x21 0x2 f)
  | .xsplice f => some (packV 0x21 0x3 f)
  | .xreap f => some (packV 0x21 0x4 f)
  | .xlen f => some (packV 0x21 0x5 f)
  | .ringCfg f => some (packV 0x22 0x0 f)
  | .ringPost f => some (packV 0x22 0x1 f)
  | .qbindRing f => some (packV 0x22 0x2 f)
  | .ringHdr f => some (packV 0x22 0x3 f)
  | .ringDone f => some (packV 0x22 0x4 f)
  | .ringStat f => some (packV 0x22 0x5 f)
  | .ringBrk f => some (packV 0x22 0x6 f)
  | .kseal f => some (packV 0x23 0x0 f)
  | .kopen f => some (packV 0x23 0x1 f)
  | .vadd f => some (packV 0x28 0x0 f)
  | .vsub f => some (packV 0x28 0x1 f)
  | .vmul f => some (packV 0x28 0x2 f)
  | .vmac f => some (packV 0x28 0x3 f)
  | .vmin f => some (packV 0x28 0x4 f)
  | .vmax f => some (packV 0x28 0x5 f)
  | .vdiv f => some (packV 0x28 0x6 f)
  | .vrem f => some (packV 0x28 0x7 f)
  | .vand f => some (packV 0x28 0x8 f)
  | .vor f => some (packV 0x28 0x9 f)
  | .vxor f => some (packV 0x28 0xa f)
  | .vsll f => some (packV 0x28 0xb f)
  | .vsrl f => some (packV 0x28 0xc f)
  | .vsra f => some (packV 0x28 0xd f)
  | .vadds f => some (packV 0x28 0xe f)
  | .vsubs f => some (packV 0x28 0xf f)
  | .vsqrt f => some (packV 0x29 0x0 f)
  | .vnmac f => some (packV 0x29 0x1 f)
  | .vabs f => some (packV 0x29 0x2 f)
  | .vneg f => some (packV 0x29 0x3 f)
  | .vsgnj f => some (packV 0x29 0x4 f)
  | .vexp2 f => some (packV 0x29 0x5 f)
  | .vlog2 f => some (packV 0x29 0x6 f)
  | .vrint f => some (packV 0x29 0x7 f)
  | .vscale f => some (packV 0x29 0x8 f)
  | .vcmpEq f => some (packVC 0x2a 0x0 f)
  | .vcmpNe f => some (packVC 0x2a 0x1 f)
  | .vcmpLt f => some (packVC 0x2a 0x2 f)
  | .vcmpGe f => some (packVC 0x2a 0x3 f)
  | .vcmpLe f => some (packVC 0x2a 0x4 f)
  | .vcmpGt f => some (packVC 0x2a 0x5 f)
  | .vcmpUn f => some (packVC 0x2a 0x6 f)
  | .vcmpOrd f => some (packVC 0x2a 0x7 f)
  | .pand f => some (packVP 0x2b 0x0 f)
  | .por f => some (packVP 0x2b 0x1 f)
  | .pxor f => some (packVP 0x2b 0x2 f)
  | .pandn f => some (packVP 0x2b 0x3 f)
  | .pnot f => some (packVP 0x2b 0x4 f)
  | .pset f => some (packVP 0x2b 0x5 f)
  | .pfirst f => some (packVP 0x2b 0x6 f)
  | .pbrkb f => some (packVP 0x2b 0x7 f)
  | .pbrka f => some (packVP 0x2b 0x8 f)
  | .vmov f => some (packV 0x2c 0x0 f)
  | .vslideup f => some (packV 0x2c 0x1 f)
  | .vslidedn f => some (packV 0x2c 0x2 f)
  | .vperm f => some (packV 0x2c 0x3 f)
  | .vcompress f => some (packV 0x2c 0x4 f)
  | .vexpand f => some (packV 0x2c 0x5 f)
  | .vbcast f => some (packV 0x2c 0x6 f)
  | .vrev f => some (packV 0x2c 0x7 f)
  | .vext f => some (packV 0x2c 0x8 f)
  | .vins f => some (packV 0x2c 0x9 f)
  | .vredOsum f => some (packV 0x2d 0x0 f)
  | .vredSum f => some (packV 0x2d 0x1 f)
  | .vredMax f => some (packV 0x2d 0x2 f)
  | .vredMin f => some (packV 0x2d 0x3 f)
  | .vredAnd f => some (packV 0x2d 0x4 f)
  | .vredOr f => some (packV 0x2d 0x5 f)
  | .vredXor f => some (packV 0x2d 0x6 f)
  | .vscanSum f => some (packV 0x2d 0x7 f)
  | .vscanMax f => some (packV 0x2d 0x8 f)
  | .vscanMin f => some (packV 0x2d 0x9 f)
  | .vredGsum f => some (packV 0x2d 0xa f)
  | .vcvt f => some (packV 0x2e 0x0 f)
  | .vcvtRtz f => some (packV 0x2e 0x1 f)
  | .vcvtSat f => some (packV 0x2e 0x2 f)
  | .vcvtf f => some (packV 0x2e 0x3 f)
  | .vpopc f => some (packV 0x2e 0x4 f)
  | .vfirst f => some (packV 0x2e 0x5 f)
  | .vfromp f => some (packV 0x2e 0x6 f)
  | .vtop f => some (packV 0x2e 0x7 f)
  | .vaddVs f => some (packV 0x2f 0x0 f)
  | .vsubVs f => some (packV 0x2f 0x1 f)
  | .vmulVs f => some (packV 0x2f 0x2 f)
  | .vmacVs f => some (packV 0x2f 0x3 f)
  | .vminVs f => some (packV 0x2f 0x4 f)
  | .vmaxVs f => some (packV 0x2f 0x5 f)
  | .vdivVs f => some (packV 0x2f 0x6 f)
  | .vandVs f => some (packV 0x2f 0x8 f)
  | .vorVs f => some (packV 0x2f 0x9 f)
  | .vxorVs f => some (packV 0x2f 0xa f)
  | .vsllVs f => some (packV 0x2f 0xb f)
  | .vsrlVs f => some (packV 0x2f 0xc f)
  | .vsraVs f => some (packV 0x2f 0xd f)
  | .vaddsVs f => some (packV 0x2f 0xe f)
  | .vsubsVs f => some (packV 0x2f 0xf f)
  | .vld f => some (packV 0x30 0x0 f)
  | .vlds f => some (packV 0x30 0x1 f)
  | .vldt f => some (packV 0x30 0x2 f)
  | .vldseg2 f => some (packV 0x30 0x8 f)
  | .vldseg3 f => some (packV 0x30 0x9 f)
  | .vldseg4 f => some (packV 0x30 0xa f)
  | .vldseg5 f => some (packV 0x30 0xb f)
  | .vldseg6 f => some (packV 0x30 0xc f)
  | .vldseg7 f => some (packV 0x30 0xd f)
  | .vldseg8 f => some (packV 0x30 0xe f)
  | .vst f => some (packV 0x31 0x0 f)
  | .vsts f => some (packV 0x31 0x1 f)
  | .vstt f => some (packV 0x31 0x2 f)
  | .vstseg2 f => some (packV 0x31 0x8 f)
  | .vstseg3 f => some (packV 0x31 0x9 f)
  | .vstseg4 f => some (packV 0x31 0xa f)
  | .vstseg5 f => some (packV 0x31 0xb f)
  | .vstseg6 f => some (packV 0x31 0xc f)
  | .vstseg7 f => some (packV 0x31 0xd f)
  | .vstseg8 f => some (packV 0x31 0xe f)
  | .vgather32 f => some (packV 0x32 0x0 f)
  | .vgather64 f => some (packV 0x32 0x1 f)
  | .vgatherX32 f => some (packV 0x32 0x2 f)
  | .vgatherX64 f => some (packV 0x32 0x3 f)
  | .vscatter32 f => some (packV 0x32 0x8 f)
  | .vscatter64 f => some (packV 0x32 0x9 f)
  | .vscatterX32 f => some (packV 0x32 0xa f)
  | .vscatterX64 f => some (packV 0x32 0xb f)
  | .vamoAdd f => some (packV 0x33 0x0 f)
  | .vamoMin f => some (packV 0x33 0x1 f)
  | .vamoMax f => some (packV 0x33 0x2 f)
  | .vamoAnd f => some (packV 0x33 0x3 f)
  | .vamoOr f => some (packV 0x33 0x4 f)
  | .vamoXor f => some (packV 0x33 0x5 f)
  | .vamoSwp f => some (packV 0x33 0x6 f)
  | .vamofAdd f => some (packV 0x33 0x8 f)
  | .vamofMin f => some (packV 0x33 0x9 f)
  | .vamofMax f => some (packV 0x33 0xa f)
  | .vamofAnd f => some (packV 0x33 0xb f)
  | .vamofOr f => some (packV 0x33 0xc f)
  | .vamofXor f => some (packV 0x33 0xd f)
  | .vamofSwp f => some (packV 0x33 0xe f)
  | .mmab f => some (packV 0x34 0x0 f)
  | .mmah f => some (packV 0x34 0x1 f)
  | .mzero f => some (packV 0x34 0x2 f)
  | .vwmac f => some (packV 0x34 0x3 f)
  | .vbnorm f => some (packV 0x34 0x4 f)
  | .vbexpF32 f => some (packV 0x34 0x5 f)
  | .vbexpGet f => some (packV 0x34 0x6 f)
  | .vbexpSet f => some (packV 0x34 0x7 f)
  | .vgroup f => some (packV 0x35 0x0 f)
  | .vxsect f => some (packV 0x35 0x1 f)
  | .vmerge f => some (packV 0x35 0x2 f)
  | .vsegsum f => some (packV 0x35 0x3 f)
  | .vsegmax f => some (packV 0x35 0x4 f)
  | .vsegmin f => some (packV 0x35 0x5 f)
  | .tcon f => some (packV 0x36 0x0 f)
  | .vdesc f => some (packVdesc f)
  | .vpnode f => some (packV 0x37 0x4 f)
  | .vpget f => some (packV 0x37 0x5 f)
  | .vpclr f => some (packV 0x37 0x6 f)
  | .entryDispatch => none
  | .entryRetire => none
  | .sliceExpiry _ _ => none
  | .slotUnbind _ _ => none
  | .contextSave _ => none
  | .slotBind _ => none
  | .streamEngineFetch _ => none
  | .copyLanding _ => none
  | .ksealCompletion _ => none
  | .kopenCompletion _ => none
  | .barrierPhaseComplete _ _ => none
  | .awaitWakeup _ => none
  | .ringHandshake _ _ _ => none
  | .ringArrival _ _ => none
  | .ringForward _ => none
  | .ringSlotRelease _ => none
  | .ringBreakFlit _ => none
  | .thrumezLinkLoss _ => none
  | .thrumezLinkRetrain _ => none
  | .launchPortWrite _ _ => none
  | .launchStart _ _ => none
  | .commitLayout _ _ => none
  | .readLayoutState _ => none
  | .registerSession _ => none
  | .energyReading _ => none
  | .attestation _ => none
  | .readCounts _ => none
  | .readEnabledUnits _ => none
  | .configurePageCounters _ => none
  | .promote _ => none
  | .cancelPromotion _ => none
  | .pagePromotion _ _ => none
  | .clearStartCount _ => none
  | .imageChunk _ => none
  | .commitImage _ => none
  | .tearDownLaunch _ => none
  | .hostMemoryRead _ _ _ => none
  | .hostMemoryWrite _ _ _ => none
  | .energyAttribution _ => none
  | .powerUp _ => none
  | .firmwareReady => none
  | .powerLoss => none
  | .watchdogReset _ => none
  | .laneGroupDisable _ _ _ => none
  | .illegalInstruction _ => none
  | .instructionFetch => none
  | .unknownRequestCode _ _ => none
  | .packageReset _ => none
  | .unitRemoval _ _ => none

end Sys2Proof
end

