-- ==== Sys2Proof/Config.lean ====
section
/-!
DEFINITION. What an implementation fixes, and the free values: constants without a body, for what the manual leaves open.
Nothing in Lean can evaluate one of them, so no proof can rest on a value.
-/
namespace Sys2Proof.Config

/-- DESIGN CHOICE (log entry 8): the core-local cycle count that the n-th read returns. Its start is unrelated to anything
and timing is not modelled (R13, R67). -/
opaque cycleCount : Nat → Word

/-- DESIGN CHOICE (log entry 9): whether a use that may see a superseded translation or instruction word does see it
(R71, R319, R321): the model's counter and the first frame number of the cached page, so that an instruction translates a page once (R154,
R155), or the word's address. -/
opaque staleChoice : Nat → Nat → Bool

/-- DESIGN CHOICE (log entry 7): the cycles of a slice for each unit of a partition's weight (R292, R294), by the layout's generation. -/
opaque sliceUnit : Nat → Nat

/-- DESIGN CHOICE (log entry 27): the channel of its tract that holds a DRAM frame (R11, R381); the manual gives no mapping. -/
opaque channelOf : Nat → Nat

/-- DESIGN CHOICE (log entry 27): whether a slice that fails held the only copy of a line (R381): the model's counter and the line. -/
opaque lineLost : Nat → Nat → Bool

/-- DESIGN CHOICE (log entry 10): a byte that reads unpredictably (R251, R233, R328): the model's counter and the address, so that one
instruction reads one value at one address (R154). -/
opaque freeByte : Nat → Nat → Byte

/-- DESIGN CHOICE (log entry 4): the doubleword that a table walk reads where the line was written under another key slot (R2, R318): the
key slot written under, the one read under, the address, what was written. -/
opaque throughKey : Nat → Nat → Nat → Nat → Nat

/-- DESIGN CHOICE (log entry 10): whether the home slice still holds the size record of an overlapped access (R251). -/
opaque sizeRecordKept : Nat → Bool

/-- DESIGN CHOICE (log entry 11): which outcome xrun has on a tensor that software broke, where R206 defines none. -/
opaque brokenRunTraps : Nat → Bool

/-- DESIGN CHOICE (log entry 11): the address that xrun writes on a tensor that software broke (R206). -/
opaque brokenRunAddress : Nat → Word

/-- DESIGN CHOICE (log entry 11): the VL that xrun sets on a tensor that software broke, before the cap of R206. -/
opaque brokenRunLength : Nat → Nat

/-- DESIGN CHOICE (log entry 12): the 32 bytes of randomness of the n-th ML-DSA-44 signature (FIPS 204 lets a signer draw them or take
zeros; the manual does not say which). -/
opaque signRandom : Nat → List Byte

/-- DESIGN CHOICE (log entry 12): which status code other than 0 a sealed operation lands with where R217 names none (a handle, a
header or a list that cannot be used). -/
opaque sealCode : Nat → Nat

/-- DESIGN CHOICE (log entry 12): the part's identity key (R380). -/
opaque identityKey : List Byte

/-- DESIGN CHOICE (log entry 12): the image-signature public key fused in the hub (R379). -/
opaque imageKey : List Byte

/-- DESIGN CHOICE (log entry 12): the signature that comes with a firmware image (R367 request 0x0D names it and gives its
place in no layout). -/
opaque imageSignature : List Byte → List Byte

/-- DESIGN CHOICE (log entry 13): the stepping, 0 A0 or 1 B0 (R1, R370). -/
opaque stepping : Byte

/-- DESIGN CHOICE (log entry 13): whether a layout, given by its 32-byte grant entries, stays within 2,600 W at the lowest
island frequencies (R374); the manual gives no figures to compute it from. -/
opaque layoutPowerFits : List (List Byte) → Bool

/-- DESIGN CHOICE (log entry 10): whether an uncorrected error of DRAM data is found in the LLC (R86). -/
opaque errorInLlc : Nat → Bool

/-- DESIGN CHOICE (log entry 52): how many microcode entries a tcon expands into at its n-th free choice (R191). -/
opaque microEntries : Nat → Nat

end Sys2Proof.Config
end

