-- ==== Sys2Proof/Machine/State.lean ====
section
/-!
DEFINITION. The state of a Z8-M512 package as plain data: the threads bound to its slots, the memory they share, the
engines, the hub with its firmware, and the machine right after reset.
-/
namespace Sys2Proof.Machine

/-- Nothing of the part stops with a fault: every failure the manual describes is a trap, which is a next state. -/
inductive Fault where
  deriving DecidableEq, Repr

/-- Why a step has no meaning. -/
inductive Refusal where
  /-- Raised by an arm of `exec` whose instruction has no meaning yet. Safe: nothing can be proved of such a step. -/
  | notModelled (mnemonic : String)
  deriving DecidableEq, Repr

/-- Memory by 48-bit physical address (R5, R20, R364): the bytes that differ from what an unlisted address reads as,
addresses strictly rising. -/
structure Memory where
  cells : List Host.Cell
  deriving DecidableEq, Repr

/-- DESIGN CHOICE (log entry 2): what a byte reads as that nothing has written. -/
def Memory.blank : Byte := 0

/-- Addresses strictly rise, from `n` on, and no byte is listed that reads as it would unlisted. -/
def canonicalFrom : Nat → List Host.Cell → Bool
  | _, [] => true
  | n, (a, b) :: rest => decide (n ≤ a) && decide (b ≠ Memory.blank) && canonicalFrom (a + 1) rest

/-- The canonical form of memory: equal memories are equal lists. -/
def Memory.wf (m : Memory) : Bool := canonicalFrom 0 m.cells

/-- The size that the home slice recorded for the last strong access to a 32-byte sector (R251). -/
structure SizeRecord where
  sector : Nat
  addr : Nat
  size : Nat
  deriving DecidableEq, Repr

/-- A translation held by a TLB (R320, R321): partition, context, G, first VA of the page, log2 of its size, leaf, and the address of the
leaf's doubleword. -/
structure TlbEntry where
  part : Nat
  ctx : Nat
  global : Bool
  va : Nat
  bits : Nat
  leaf : Word
  at_ : Nat
  deriving DecidableEq, Repr

/-- How a 128-byte line of DRAM was last accessed (R2, R318, R328; log entry 4): its number, the key slot, and the FMT bit and way class
where no cflush has come since. -/
structure LineTag where
  line : Nat
  key : Nat
  seen : Option Nat
  deriving DecidableEq, Repr

/-- A voltage and frequency island (R13, R375): its cycle counter and its energy integrator, in microjoules. -/
structure Island where
  id : Nat
  cycles : Word
  energy : Nat
  deriving DecidableEq, Repr

/-- What a stream register is bound to (R162, R240, R332). -/
inductive StreamKind where
  | unbound
  | memory
  | ring
  deriving DecidableEq, Repr

/-- An element that a stream engine has landed (R163): its number, the context that translated it (R326), its physical address and its bits
in the memory type. -/
structure Landed where
  elem : Nat
  ctx : Nat
  pa : Nat
  value : Nat
  deriving DecidableEq, Repr

/-- Where a stream engine has stopped, and for what (R163, R164): element, cause, subcode, TRA. -/
structure Stop where
  elem : Nat
  cause : BitVec 8
  sub : Nat
  addr : Nat
  deriving DecidableEq, Repr

/-- A stream register (R162 to R167, R240, R332). `pos` counts the elements consumed, of the stream or of the current
block. `landed` is QLAND (R163); `ahead` holds landed elements that nothing has consumed. A ring stream's current arrival is its
engine's (R248). `live` is set once the qbind has retired, from when the engine fetches (R162). -/
structure Stream where
  kind : StreamKind
  live : Bool
  base : Word
  count : Nat
  pos : Nat
  vt : BitVec 12
  landed : Nat
  ahead : List Landed
  stop : Option Stop
  engine : BitVec 2
  deriving DecidableEq, Repr

/-- A thread's token for one barrier (R264, R332). -/
structure Token where
  phase : BitVec 16
  valid : Bool
  deriving DecidableEq, Repr

/-- One element on its way through a copy engine: physical addresses of its bytes, source and destination (R172). With `width` 0
every byte moves. An element of a block moves the two exponent bytes, which come first, and bits [lo+width-1:lo] of the others. -/
structure CopyMove where
  index : Nat
  src : List Nat
  dst : List Nat
  lo : Nat
  width : Nat
  deriving DecidableEq, Repr

/-- A page held by a pin (R175, R238): the leaf's page of VA and of frame addresses, the context that mapped it, whether its translation is
global, and where its leaf lies. -/
structure Pin where
  part : Nat
  ctx : Nat
  global : Bool
  va : Nat
  pa : Nat
  bits : Nat
  at_ : Nat
  deriving DecidableEq, Repr

/-- A copy in flight (R172 to R178): who issued it, the landing barrier of which core, what is still to move. `whole` lists the destination
sectors, by number, or for blocks the destination blocks, by address, that it writes in full and has had no error for (R157, R177). -/
structure Copy where
  num : Nat
  team : Nat
  lthread : Nat
  crew : Nat
  stand : Nat
  bar : BitVec 6
  moves : List CopyMove
  whole : List Nat
  pins : List Pin
  deriving DecidableEq, Repr

/-- A sealed-record operation in flight (R214 to R217): its request block's address and input fields as they were at
dispatch, and under which translation it runs. -/
structure SealOp where
  num : Nat
  opens : Bool
  team : Nat
  lthread : Nat
  crew : Nat
  bar : BitVec 6
  part : Nat
  ptb : Word
  key : Nat
  user : Bool
  block : Word
  req : List Byte
  deriving DecidableEq, Repr

/-- What an entry hands to an engine when it retires. -/
inductive HandOff where
  | nothing
  | copy (c : Copy)
  | sealed (o : SealOp)
  /-- A stream register whose engine fetches from now on (R162). -/
  | stream (q : BitVec 3)
  deriving DecidableEq, Repr

/-- A trap taken at retirement (R90, R251): cause, EADDR and EINFO. -/
structure Deferred where
  cause : BitVec 8
  addr : Word
  info : Word
  deriving DecidableEq, Repr

/-- What is left for an entry's retirement (R36, R37, R90, R103, R104, R307): the groups (bit 8r + g) and predicate
segments (bit 64p + s) that its dispatch emptied, the flags it raised, the FX registers it writes, ROWP, the DIRTY bits, the
trap it defers and what it hands to an engine. `span` is the number of registers of its destination group and `reached` the element
group it has reached, counted through that group (R18, R36, R78): the groups before that one are full again. `limit` comes after the last
group that it processes: those above fill when it retires (R36). `needs` names, for each of its groups, the groups of vector registers and the
segments of predicates that must be full before it has processed that one (R37, R39, R40). `micro` counts the queue slots that a tcon's microcode takes (R191). -/
structure Retire where
  groups : BitVec 256
  span : Nat
  reached : Nat
  limit : Nat
  needs : List (BitVec 256 × BitVec 512)
  micro : Nat
  segs : BitVec 512
  flags : BitVec 5
  fx : Option (Vector (BitVec 17) 5)
  rowp : Option (BitVec 16)
  dirty : Word
  deferred : Option Deferred
  hand : HandOff
  deriving DecidableEq, Repr

/-- How far a queue entry has come: still to dispatch, or past its elements and waiting to retire. -/
inductive Phase where
  | unstarted
  | done (r : Retire)
  deriving DecidableEq, Repr

/-- An entry of the vector queue (R17, R78, R333): the word and its address, the sequence number and slot, the type, the
effective length, TRL (R144) and the operands captured at the push, the hold level (0: not held), whether a frame captured it. `epoch` is
the model's own: the count of scalar VL writes at the push, which tells which entries a trim caps (R87; log entry 6). `lateA` and `lateB`
name the scalar register of an operand that an earlier member of the same convoy or frame writes: its value comes with that member (R39,
R40; log entry 49). A frame's member keeps the DIRTY bits and the deferred error of its iterations until it retires (R90, R307), and in
`running` what its last iteration emptied (R36, R45). -/
structure Entry where
  word : BitVec 32
  pc : Word
  seq : BitVec 16
  slot : BitVec 6
  vt : BitVec 12
  vl : Nat
  trl : BitVec 16
  opa : Word
  opb : Word
  lateA : Option (BitVec 5)
  lateB : Option (BitVec 5)
  dirty : Word
  deferred : Option Deferred
  running : Option Retire
  level : BitVec 4
  frame : Bool
  epoch : Nat
  phase : Phase
  deriving DecidableEq, Repr

/-- Whether a thread's slot executes: running; pre-empted and waiting to be saved (R179); ended by `exit` (R300); stopped by a
double trap (R310); or no thread at all. -/
inductive Status where
  | unbound
  | running
  | leaving
  | exited
  | stopped
  deriving DecidableEq, Repr

/-- A thread bound to a slot: its place, its registers, its queue. -/
structure Thread where
  status : Status
  -- identity and place (R281, R292)
  part : BitVec 6
  team : Nat
  lthread : Nat
  slot : Nat
  pipes : BitVec 7
  lg : Nat
  -- the physical lane groups it uses, fixed at its bind (R76, R77)
  laneSet : List Nat
  -- scalar registers (R52) and the program counter (R29)
  pc : Word
  g : Vector Word 32
  -- vector, side-file, predicate, stream, shape and path-trace registers (R21, R123, R168, R221)
  v : Vector (BitVec 8192) 32
  bad : Vector (BitVec 8192) 32
  side : Vector (BitVec 512) 32
  sideBad : Vector (BitVec 32) 32
  p : Vector (BitVec 2048) 8
  q : Vector Stream 8
  h : Vector (BitVec 1024) 8
  hill : BitVec 8
  k : Vector (BitVec 8192) 4
  -- user special registers (R67, R68, R72, R73, R78, R104)
  vl : BitVec 16
  vt : BitVec 13
  es : BitVec 16
  trc : Word
  tra : Word
  rowp : BitVec 16
  trl : BitVec 16
  fflags : BitVec 5
  fen : BitVec 5
  frm : BitVec 3
  fx : Vector (BitVec 17) 5
  moved : Word
  amode : BitVec 2
  -- privileged special registers (R305 to R307)
  tvec : Word
  epc : Word
  ecause : BitVec 10
  eaddr : Word
  einfo : Word
  priv : Bool
  ppriv : Bool
  busy : Bool
  ptb : Word
  colour : BitVec 5
  keydef : BitVec 12
  dirty : Word
  hsave0 : Word
  hsave1 : Word
  -- the vector queue (R17, R78); `epoch` counts scalar VL writes and `epochs` keeps it across handlers (log entry 6)
  queue : List Entry
  seq : BitVec 16
  nextSlot : BitVec 6
  epoch : Nat
  epochs : List Nat
  -- barrier tokens (R264), groups written since the last save (R334), words fetched ahead (R71), the sector
  -- (and scope) an await sleeps on and whether it was woken (R259), the barrier whose bar.sync has arrived and waits, and where that
  -- bar.sync is (R264, R270),
  -- entries released by `eret` that have not retired (R309), the operand of a premature read found at issue, whose trap waits for the
  -- older entries (R39, R97)
  tokens : Vector Token 48
  dlen : Vector Nat 32
  fetched : List (Nat × BitVec 32)
  asleep : Option Nat
  woken : Bool
  syncing : Option (BitVec 6 × Word)
  released : Nat
  stuck : Option Nat
  -- whether an entry has completed an element group since the thread was bound (R95, R297)
  progress : Bool
  -- rows of X0's next instruction whose residue will mismatch, and whether again on the second computation (R133)
  residue : List (Nat × Bool)
  deriving DecidableEq, Repr

/-- A named barrier of one crew of a team (R263 to R268). The participating core is named by the team's logical crew number,
which never changes (R249); a barrier that is not listed is off. -/
structure Barrier where
  team : Nat
  crew : Nat
  num : BitVec 6
  kind : BitVec 2
  scope : BitVec 3
  count : Nat
  phase : BitVec 16
  arrivals : Nat
  expected : Nat
  landed : Nat
  err : Bool
  svalid : Bool
  code : BitVec 8
  elem : BitVec 16
  land : Nat
  deriving DecidableEq, Repr

/-- The state of a ring engine (R243). -/
inductive RingState where
  | unconfigured
  | waiting
  | running
  | complete
  | broken
  deriving DecidableEq, Repr

/-- What an engine knows of an arrival that has landed (R232, R233). -/
structure RingHead where
  arrival : Nat
  origin : Nat
  index : Nat
  bytes : Nat
  toff : Nat
  tcnt : Nat
  deriving DecidableEq, Repr

/-- A ring engine of the hub (R230 to R245). `landed`: arrivals that have landed, own posts first, so that the posted count is the
lesser of it and B; `forwarded`:
arrivals sent downstream; `credits`: releases received from downstream; `next`: the oldest arrival neither consumed nor skipped,
which is the current block where `current` is set; `freed`: releases sent upstream; `heads`: the landed arrivals; `marked`: the bits
of the bitmap as ring.cfg read them; `user`: the stream register bound to it (team, logical thread, q); `pins`: the pages as
ring.cfg translated them, held while `pinned`; `spoiled`: software wrote a slot (R233). -/
structure Ring where
  state : RingState
  part : Nat
  tag : Word
  n : Nat
  m : Nat
  up : Nat
  down : Nat
  b : Nat
  s : Nat
  ssize : Nat
  rev : Nat
  slots : Word
  own : Word
  done : Word
  landed : Nat
  forwarded : Nat
  credits : Nat
  next : Nat
  freed : Nat
  local_ : Bool
  link : Bool
  peerSlots : Nat
  current : Bool
  heads : List RingHead
  marked : List Nat
  user : Option (Nat × Nat × Nat)
  pins : List Pin
  pinned : Bool
  spoiled : Bool
  deriving DecidableEq, Repr

/-- A launch record's fields (R284). -/
structure LaunchRecord where
  entry : Word
  param : Word
  save : Word
  tpc : Nat
  cps : Nat
  spc : Nat
  cpt : Nat
  tr : Nat
  prio : Nat
  deps : List Nat
  done : Word
  bars : BitVec 48
  deriving DecidableEq, Repr

/-- What a queue entry holds beside its image of R333 (log entry 6). -/
structure EntryMarks where
  epoch : Nat
  seq : BitVec 16
  trl : BitVec 16
  lateA : Option (BitVec 5)
  lateB : Option (BitVec 5)
  dirty : Word
  deferred : Option Deferred
  deriving DecidableEq, Repr

/-- The model's own marks of a saved thread, which its image has no place for (log entry 6): its epoch, the epochs kept across
handlers, what its entries hold beside their image, how many entries `eret` released, the barrier whose bar.sync has arrived, and the key
slot that its image was written under (log entry 4). -/
structure Marks where
  key : Nat
  epoch : Nat
  epochs : List Nat
  entries : List EntryMarks
  released : Nat
  syncing : Option (BitVec 6 × Word)
  deriving DecidableEq, Repr

/-- A team (R16, R281, R286): the launch and node it runs, its record, whether the firmware has started it, the slot of each
thread where it is placed, and for each thread whether it has exited, has an image, which lane groups it uses (0 before its
first bind), the slot it last ran on, the pipes of each kind on its first core and the model's marks of its image. `hub` is its team number
within the hub while it is placed (R292); `pages` are the frames of its save area, page by page (R285); `cores` those on which its barrier
numbers belong to it (R283); `blockKey` the key slot that its team block was written under (log entry 4). -/
structure Team where
  num : Nat
  hub : Option Nat
  part : Nat
  launch : Nat
  node : Nat
  record : LaunchRecord
  started : Bool
  placement : List Nat
  pages : List Nat
  cores : List Nat
  blockKey : Nat
  exited : List Bool
  saved : List Bool
  lanes : List Nat
  lastSlot : List (Option Nat)
  kinds : List (List Nat)
  marks : List Marks
  ended : Bool
  deriving DecidableEq, Repr

/-- A launch (R286 to R290): its number in its partition, the completion word, the launches it waits for, the graph it
instantiates. -/
structure Launch where
  part : Nat
  number : Nat
  done : Word
  deps : List Nat
  graph : Option Word
  concurrent : Bool
  coresident : Bool
  complete : Bool
  torn : Bool
  deriving DecidableEq, Repr

/-- A bind record (R292); one for each physical thread slot, all zero where none is listed. -/
structure BindRecord where
  slot : Nat
  valid : Bool
  part : BitVec 6
  team : BitVec 16
  lthread : BitVec 12
  pipes : BitVec 7
  prio : BitVec 2
  save : BitVec 36
  budget : BitVec 32
  left : BitVec 32
  saved : Bool
  exited : Bool
  deriving DecidableEq, Repr

/-- A grant entry of a layout (R369). -/
structure Grant where
  type : Nat
  part : Nat
  value : Nat
  first : Nat
  count : Nat
  extra : Nat
  deriving DecidableEq, Repr

/-- The last entry of the layout journal in retention SRAM (R374). -/
inductive Journal where
  | empty
  | prepared (gen : Nat)
  | committed (gen : Nat)
  deriving DecidableEq, Repr

/-- The partition layout and its commit (R374): the generation and grants that stand, the shadow banks and how many of the
512 islands have flipped to them, the journal, an unreported abandoned commit, the teams held back, and the generation and the grants under which the energy of the
running interval is attributed (R376). -/
structure Layout where
  generation : Nat
  grants : List Grant
  shadow : Option (List Grant)
  flipped : Nat
  journal : Journal
  abandoned : Bool
  heldTeams : List Nat
  energyGen : Nat
  energyGrants : List Grant
  deriving DecidableEq, Repr

/-- The mailbox window (R365, R366). -/
structure Mailbox where
  request : List Byte
  response : List Byte
  tag : BitVec 16
  code : BitVec 8
  rlen : BitVec 16
  busy : Bool
  done : Bool
  staging : List Byte
  deriving DecidableEq, Repr

/-- A launch port's status doubleword (R372). -/
structure PortStatus where
  part : Nat
  number : Nat
  reason : Nat
  index : Nat
  pend : Bool
  valid : Bool
  deriving DecidableEq, Repr

/-- A sealed-record session (R370, R380). -/
structure Session where
  part : Nat
  tenant : List Byte
  model : List Byte
  wdigest : List Byte
  publicKey : List Byte
  privateKey : List Byte
  deriving DecidableEq, Repr

/-- An energy account (R376 to R378): a partition 0..63 or the operator 0xFF, the eight categories, its last reading number,
its accuracy class, the lost-energy bound and the newest generation included. -/
structure Account where
  id : Nat
  cats : List Nat
  readings : Nat
  cls : Nat
  gap : Nat
  gen : Nat
  deriving DecidableEq, Repr

/-- The event counts of a partition (R382). -/
structure Counts where
  part : Nat
  corrected : Word
  demotions : Word
  abandoned : Word
  late : Word
  overflows : Word
  lost : Word
  deriving DecidableEq, Repr

/-- The page counter of one DRAM frame (R383). -/
structure PageCounter where
  frame : Nat
  count : BitVec 16
  queued : Bool
  ovf : Bool
  deriving DecidableEq, Repr

/-- The notification queue of a partition (R367, R383): threshold, ring and tail addresses, entries written. -/
structure PageQueue where
  part : Nat
  threshold : Nat
  queue : Nat
  tail : Nat
  written : Nat
  deriving DecidableEq, Repr

/-- How far a promotion is (R384). -/
inductive PromotionState where
  | queued
  | started
  | finished
  | cancelled
  deriving DecidableEq, Repr

/-- A promotion (R384). -/
structure Promotion where
  number : Nat
  part : Nat
  frame : Nat
  target : Nat
  state : PromotionState
  deriving DecidableEq, Repr

/-- The boot state (R379): power, firmware running and ready, minimal mode and its reason, why the ROM refused the
image if it did, the start count in retention storage, the measurement registers, the image store (4 MiB, by offset) and the image that a
reset starts. -/
structure Boot where
  powered : Bool
  running : Bool
  ready : Bool
  minimal : Option (BitVec 8)
  refused : Option (BitVec 8)
  startCount : Nat
  mr0 : List Byte
  mr1 : List Byte
  store : Memory
  length : Nat
  pending : Option (List Byte)
  deriving DecidableEq, Repr

/-- A unit whose corrected errors the firmware counts (R381): a lane group (core, group), the X0 array of a core (R133), a vault, a slice, a
channel. -/
inductive CountedUnit where
  | laneGroup (core lg : Nat)
  | x0 (core : Nat)
  | vault (n : Nat)
  | slice (n : Nat)
  | channel (n : Nat)
  deriving DecidableEq, Repr

/-- Units out of service, by physical number (R12, R381): disabled lane groups as (core, group), cores, vaults (16t + v),
channels (64t + c), slices (4t + c), tracts; the units whose removal waits for a commit; and the corrected errors by unit and interval, where
an interval of 2^20 hub cycles ends with each energy attribution (R376). -/
structure Units where
  lanesOff : List (Nat × Nat)
  coresOff : List Nat
  vaultsOff : List Nat
  channelsOff : List Nat
  slicesOff : List Nat
  tractsOff : List Nat
  removing : List ServiceUnit
  errors : List (CountedUnit × Nat)
  interval : Nat
  deriving DecidableEq, Repr

/-- An error that the hardware itself makes and the manual describes only from its discovery on (R86, R90, R133, R157): in memory, in a
register file (register and bits), in a side-file entry, in a row that X0 computes next (`again`: on the second computation too); and what
the hardware only counts: an error corrected in a unit (R381, R382), a retain fill demoted (R159). `counter` is system software writing a
frame's page counter, by a way that the manual does not give (R383). -/
inductive Upset where
  | memory (pa : Nat)
  | register (r : BitVec 5) (bits : BitVec 8192)
  | side (r : BitVec 5) (entries : BitVec 32)
  | residue (row : Nat) (again : Bool)
  | corrected (unit : CountedUnit)
  | demotion (part : Nat)
  | counter (frame : Nat) (value : BitVec 32)
  deriving DecidableEq, Repr

/-- What happens next, where the manual leaves order and timing to the part and the outside world: an event, the scalar part of
the current thread, the turn passing to the next thread, the n-th entry of the current thread's queue passing one more element group
(R36), an error of the hardware (log entry 50), the current thread fetching the word at an address ahead of its use (R71, R325), or the
firmware migrating a page, or a vault window, of a partition off a unit that is to be removed (R381). -/
inductive Choice where
  | event (i : Instr)
  | scalar
  | turn
  | fill (n : Nat)
  | upset (u : Upset)
  | prefetch (va : Nat)
  | migrate (part frame target : Nat)
  | migrateVault (part vault target : Nat)
  deriving DecidableEq, Repr

/-- When queued entries do their work: at once after the push, or at ENTRY_DISPATCH and ENTRY_RETIRE events. -/
inductive Pace where
  | eager
  | decoupled
  deriving DecidableEq, Repr

/-- The whole package. `cur` is the thread whose scalar part runs next, `others` the other bound threads in turn. `poison` holds the
32-byte sectors with an uncorrected error, `badBytes` the bytes of format regions at which one lies, which fails their whole stored block (R127, R129, R157). `wild` lists ranges
of unpredictable bytes (address, length; R233, R251, R328). `sizes` is what the home
slices recorded of strong accesses and `strong` holds, for each byte, every size of the strong accesses to it (R251).
`agenda`, `pace` and `tick` are the model's own (log entries 6 and 7). -/
structure State where
  cur : Thread
  others : List Thread
  mem : Memory
  poison : List Nat
  badBytes : List Nat
  wild : List (Nat × Nat)
  sizes : List SizeRecord
  strong : List (Nat × Nat)
  lines : List LineTag
  tlb : List TlbEntry
  barriers : List Barrier
  copies : List Copy
  seals : List SealOp
  nextOp : Nat
  rings : Vector Ring 4
  linkUp : BitVec 8
  binds : List BindRecord
  teams : List Team
  launches : List Launch
  launchNumbers : List (Nat × Nat)
  ports : List PortStatus
  layout : Layout
  keys : List Nat
  mailbox : Mailbox
  sessions : List Session
  accounts : List Account
  counts : List Counts
  pageCounters : List PageCounter
  pageQueues : List PageQueue
  promotions : List Promotion
  nextPromotion : Nat
  boot : Boot
  units : Units
  islands : List Island
  reports : List (Nat × ServiceUnit)
  hostRead : List Byte
  agenda : List Choice
  pace : Pace
  tick : Nat
  deriving DecidableEq, Repr

/-- An unbound stream register (R163, R283). -/
def Stream.unboundReset : Stream :=
  { kind := .unbound, live := false, base := 0, count := 0, pos := 0, vt := 0, landed := 0, ahead := [], stop := none, engine := 0 }

/-- The registers a thread starts with (R67, R283, R305): everything 0 but VT, whose ILL bit is set, and DIRTY. The values
that the partition gives (TVEC, PTB, PART, KEYDEF, AMODE) are 0 until a layout gives them (log entry 3). -/
def Thread.start : Thread :=
  { status := .unbound, part := 0, team := 0, lthread := 0, slot := 0, pipes := 0, lg := 8, laneSet := List.range 8, pc := 0,
    g := Vector.replicate 32 0, v := Vector.replicate 32 0, bad := Vector.replicate 32 0,
    side := Vector.replicate 32 0, sideBad := Vector.replicate 32 0, p := Vector.replicate 8 0, q := Vector.replicate 8 Stream.unboundReset,
    h := Vector.replicate 8 0, hill := 0, k := Vector.replicate 4 0, vl := 0, vt := 0x1000, es := 0, trc := 0, tra := 0,
    rowp := 0, trl := 0, fflags := 0, fen := 0, frm := 0, fx := Vector.replicate 5 0, moved := 0, amode := 0, tvec := 0,
    epc := 0, ecause := 0, eaddr := 0, einfo := 0, priv := false, ppriv := false, busy := false, ptb := 0, colour := 0,
    keydef := 0, dirty := 0x000FFFFEFFFFFFFF, hsave0 := 0, hsave1 := 0, queue := [], seq := 0, nextSlot := 0, epoch := 0, epochs := [],
    tokens := Vector.replicate 48 { phase := 0, valid := false }, dlen := Vector.replicate 32 8, fetched := [],
    asleep := none, woken := false, syncing := none, released := 0, stuck := none, progress := false, residue := [] }

/-- An engine that no ring.cfg has set up (R243). -/
def Ring.off : Ring :=
  { state := .unconfigured, part := 0, tag := 0, n := 0, m := 0, up := 0, down := 0, b := 0, s := 0, ssize := 0, rev := 0,
    slots := 0, own := 0, done := 0, landed := 0, forwarded := 0, credits := 0, next := 0,
    freed := 0, local_ := false, link := false, peerSlots := 0, current := false, heads := [], marked := [], user := none, pins := [],
    pinned := false, spoiled := false }

/-- The package right after reset: no layout, no team, no thread bound; every thread register as R283, R67 and R305 say a
thread starts; no memory byte listed; the launch ports not pending (R372); the ring ports up (log entry 3). How a program comes
to run is log entry 14. -/
def State.reset : State :=
  { cur := Thread.start, others := [], mem := { cells := [] }, poison := [], badBytes := [], wild := [], sizes := [], strong := [], lines := [], tlb := [],
    barriers := [], copies := [], seals := [], nextOp := 0, rings := Vector.replicate 4 Ring.off, linkUp := 0xFF,
    binds := [], teams := [], launches := [], launchNumbers := [], ports := [],
    layout := { generation := 0, grants := [], shadow := none, flipped := 0, journal := .empty, abandoned := false,
                heldTeams := [], energyGen := 0, energyGrants := [] },
    keys := [], mailbox := { request := [], response := [], tag := 0, code := 0, rlen := 0, busy := false, done := false,
                             staging := [] },
    sessions := [], accounts := [{ id := 255, cats := List.replicate 8 0, readings := 0, cls := 1, gap := 0, gen := 0 }], counts := [], pageCounters := [], pageQueues := [], promotions := [],
    nextPromotion := 1,
    boot := { powered := false, running := false, ready := false, minimal := none, refused := none, startCount := 0,
              mr0 := List.replicate 32 0, mr1 := List.replicate 32 0, store := { cells := [] }, length := 0,
              pending := none },
    units := { lanesOff := [], coresOff := [], vaultsOff := [], channelsOff := [], slicesOff := [], tractsOff := [],
               removing := [], errors := [], interval := 0 },
    islands := [], reports := [], hostRead := [], agenda := [], pace := .eager, tick := 0 }

end Sys2Proof.Machine
end

