-- ==== Sys2Proof/Machine/Ops.lean ====
section
/-!
DEFINITION. The named operations over memory, registers, the layout, translation and the queue that every meaning uses, and
the shared operations of taking an exception and returning from one.
-/
namespace Sys2Proof.Machine

/-- What a meaning answers. -/
abbrev Out := Host.Outcome State Fault Refusal

/-! ## Memory -/

/-- The byte listed for an address, or what an unlisted one reads as. -/
def cellGet : List Host.Cell → Nat → Byte
  | [], _ => Memory.blank
  | (a, b) :: rest, x => if a = x then b else cellGet rest x

/-- Sets one byte and keeps the canonical form. -/
def cellSet : List Host.Cell → Nat → Byte → List Host.Cell
  | [], x, y => if y = Memory.blank then [] else [(x, y)]
  | (a, b) :: rest, x, y =>
    if x < a then (if y = Memory.blank then (a, b) :: rest else (x, y) :: (a, b) :: rest)
    else if x = a then (if y = Memory.blank then rest else (a, y) :: rest)
    else (a, b) :: cellSet rest x y

/-- One byte of memory. -/
def Memory.get (m : Memory) (a : Nat) : Byte := cellGet m.cells a

/-- Writes one byte of memory. -/
def Memory.set (m : Memory) (a : Nat) (b : Byte) : Memory := { cells := cellSet m.cells a b }

/-- `n` bytes from an address, ascending. -/
def Memory.bytes (m : Memory) : Nat → Nat → List Byte
  | _, 0 => []
  | a, n + 1 => m.get a :: m.bytes (a + 1) n

/-- Writes bytes at ascending addresses from `a`. -/
def Memory.write (m : Memory) : Nat → List Byte → Memory
  | _, [] => m
  | a, b :: bs => Memory.write (m.set a b) (a + 1) bs

/-- A little-endian number in memory (R5). -/
def Memory.num (m : Memory) (a n : Nat) : Nat := leNat (m.bytes a n)

/-- Adds a number to a strictly rising list. -/
def insertNat (x : Nat) : List Nat → List Nat
  | [] => [x]
  | y :: ys => if x < y then x :: y :: ys else if x = y then y :: ys else y :: insertNat x ys

/-- The 32-byte sectors that `n` bytes from `pa` touch, by number. -/
def sectorsOf (pa n : Nat) : List Nat :=
  if n = 0 then [] else (List.range ((pa + n - 1) / 32 - pa / 32 + 1)).map (fun i => pa / 32 + i)

/-- The 32-byte sectors that `n` bytes from `pa` cover in full. -/
def fullSectors (pa n : Nat) : List Nat := (sectorsOf pa n).filter (fun x => decide (pa ≤ 32 * x ∧ 32 * x + 32 ≤ pa + n))

/-- The first byte and the size of the vault aperture (R160). -/
def apertureBase : Nat := 0xFF0000000000

/-- The size of the vault aperture: 8 tracts of 16 vaults of 16 MiB (R160). -/
def apertureSize : Nat := 0x80000000

/-- Whether a physical address lies in the vault aperture (R160). -/
def inAperture (pa : Nat) : Bool := decide (apertureBase ≤ pa ∧ pa < apertureBase + apertureSize)

/-- The number 16t + v of the vault at an address of the aperture (R160). -/
def vaultOf (pa : Nat) : Nat := (pa - apertureBase) / 2 ^ 24

/-- The tract of a DRAM address: 64 GiB each (R11, R21; PRESUMED, log entry 16). -/
def tractOf (pa : Nat) : Nat := pa / 2 ^ 36

/-- Whether an address lies in package DRAM (R364; PRESUMED, log entry 16). -/
def isDram (pa : Nat) : Bool := decide (pa < 2 ^ 39)

/-- The number 64t + c of the DRAM channel that holds a byte (R381; which it is, is free: log entry 27). -/
def channelAt (pa : Nat) : Nat := 64 * tractOf pa + Config.channelOf (pa / 4096) % 64

/-- Whether a byte lies in a vault, a DRAM channel or a tract that was removed (R381). -/
def Units.gone (u : Units) (pa : Nat) : Bool :=
  if inAperture pa then u.vaultsOff.contains (vaultOf pa) || u.tractsOff.contains (vaultOf pa / 16)
  else isDram pa && (u.tractsOff.contains (tractOf pa) || u.channelsOff.contains (channelAt pa))

/-- Whether reading these bytes meets an uncorrected error: in their sectors (R157), or in a unit that was removed (R381). -/
def State.poisoned (s : State) (pa n : Nat) : Bool :=
  (sectorsOf pa n).any (fun x => s.poison.contains x) || s.units.gone pa

/-- Whether a range (address, length) meets `n` bytes from `pa`. -/
def meetsSpan (pa n : Nat) (w : Nat × Nat) : Bool := decide (pa < w.1 + w.2 ∧ w.1 < pa + n)

/-- What is left of a range without `n` bytes from `pa`. -/
def cutSpan (pa n : Nat) (w : Nat × Nat) : List (Nat × Nat) :=
  if meetsSpan pa n w then
    (if w.1 < pa then [(w.1, pa - w.1)] else []) ++ (if pa + n < w.1 + w.2 then [(pa + n, w.1 + w.2 - (pa + n))] else [])
  else [w]

/-- Reads bytes by physical address. An unpredictable byte (R233, R251, R328) reads as a free value, another one in each instruction; one
instruction reads one value at one address (R154). -/
def State.read (s : State) (pa n : Nat) : List Byte :=
  if s.wild.any (meetsSpan pa n) then
    (List.range n).map (fun i => if s.wild.any (meetsSpan (pa + i) 1) then Config.freeByte s.tick (pa + i) else s.mem.get (pa + i))
  else s.mem.bytes pa n

/-- The model's counter goes on: free values are drawn anew (log entries 9 and 10). -/
def State.tock (s : State) : State := { s with tick := s.tick + 1 }

/-- Adds `n` bytes from `pa` to the unpredictable ones (R233, R251, R328). -/
def State.addWild (s : State) (pa n : Nat) : State :=
  if n = 0 then s else { s with wild := (pa, n) :: s.wild.flatMap (cutSpan pa n) }

/-- Adds single bytes to the unpredictable ones. -/
def State.addWildBytes (s : State) (bs : List Nat) : State := bs.foldl (fun s b => s.addWild b 1) s

/-- A stream register without the landed elements that a store to these bytes may overlap (R166): an element has at most 8 bytes. -/
def Stream.dropOver (pa n : Nat) (q : Stream) : Stream :=
  { q with ahead := q.ahead.filter (fun x => !decide (x.pa < pa + n ∧ pa < x.pa + 8)) }

/-- Writes bytes by physical address: a sector written in full loses its poison (R157); a written byte is predictable again, until strong
accesses of different sizes meet at it again (R251). -/
def State.put (s : State) (pa : Nat) (bs : List Byte) : State :=
  { s with
    mem := s.mem.write pa bs
    poison := s.poison.filter (fun x => !(fullSectors pa bs.length).contains x)
    wild := s.wild.flatMap (cutSpan pa bs.length) }

/-- Where `n` bytes from virtual address `va` lie on the pages that ring.cfg translated: physical ranges (address, length). -/
def Ring.spans (r : Ring) (va n : Nat) : List (Nat × Nat) :=
  r.pins.filterMap (fun p =>
    let lo := max va p.va
    let hi := min (va + n) (p.va + 2 ^ p.bits)
    if lo < hi then some (p.pa + (lo - p.va), hi - lo) else none)

/-- The ranges that hold the payloads of a ring's slots (R233). -/
def Ring.payloads (r : Ring) : List (Nat × Nat) :=
  (List.range r.s).flatMap (fun k => r.spans (r.slots.toNat + k * r.ssize + 64) (r.ssize - 64))

/-- A ring whose slots software writes has undefined payloads from then on (R233): whether these bytes lie in a slot. -/
def Ring.spoiledBy (pa n : Nat) (r : Ring) : Bool :=
  r.state != .unconfigured && (r.spans r.slots.toNat (r.s * r.ssize)).any (meetsSpan pa n)

/-- What a software write to `n` bytes from `pa` does to the rings (R233): the payloads of one whose slots it reaches are unpredictable. -/
def State.spoilRings (s : State) (pa n : Nat) : State :=
  if s.rings.toList.any (Ring.spoiledBy pa n) then
    let hit := s.rings.toList.filter (Ring.spoiledBy pa n)
    let s1 := (hit.flatMap Ring.payloads).foldl (fun s w => s.addWild w.1 w.2) s
    { s1 with rings := s.rings.map (fun r => if r.spoiledBy pa n then { r with spoiled := true } else r) }
  else s

/-- Landed stream data of the current thread that a store of its own to these bytes may overlap is dropped (R166). -/
def State.dropLanded (s : State) (pa n : Nat) : State := { s with cur := { s.cur with q := s.cur.q.map (Stream.dropOver pa n) } }

/-- A write by software: bytes are put, landed stream data of the writing thread that they overlap is dropped (R166), and a ring
slot that they reach spoils its ring (R233). -/
def State.write (s : State) (pa : Nat) (bs : List Byte) : State := ((s.put pa bs).dropLanded pa bs.length).spoilRings pa bs.length

/-- Marks the sectors of these bytes as holding an uncorrected error (R90, R157, R177). -/
def State.poisonBytes (s : State) (pa n : Nat) : State :=
  { s with poison := (sectorsOf pa n).foldl (fun l x => insertNat x l) s.poison }

/-! ## Registers -/

/-- Reads a scalar register; g0 reads 0 (R52). -/
def Thread.gread (t : Thread) (r : BitVec 5) : Word := if r = 0 then 0 else t.g[r.toNat]'r.isLt

/-- Writes a scalar register; a write to g0 is discarded (R52). -/
def Thread.gwrite (t : Thread) (r : BitVec 5) (x : Word) : Thread := if r = 0 then t else { t with g := t.g.set r.toNat x r.isLt }

/-- Reads a predicate register; p0 reads all-true (R31). -/
def Thread.pread (t : Thread) (r : BitVec 3) : BitVec 2048 := if r = 0 then BitVec.allOnes 2048 else t.p[r.toNat]'r.isLt

/-- Writes a predicate register; a write to p0 is discarded (R31). -/
def Thread.pwrite (t : Thread) (r : BitVec 3) (x : BitVec 2048) : Thread :=
  if r = 0 then t else { t with p := t.p.set r.toNat x r.isLt }

/-- A vector register by number, modulo 32 (R45). -/
def Thread.vread (t : Thread) (r : Nat) : BitVec 8192 := t.v[r % 32]'(Nat.mod_lt _ (by decide))

/-- Writes a vector register. -/
def Thread.vwrite (t : Thread) (r : Nat) (x : BitVec 8192) : Thread :=
  { t with v := t.v.set (r % 32) x (Nat.mod_lt _ (by decide)) }

/-- The exponent side-file of a vector register (R123). -/
def Thread.sideRead (t : Thread) (r : Nat) : BitVec 512 := t.side[r % 32]'(Nat.mod_lt _ (by decide))

/-- Writes the exponent side-file of a vector register (R123). -/
def Thread.sideWrite (t : Thread) (r : Nat) (x : BitVec 512) : Thread :=
  { t with side := t.side.set (r % 32) x (Nat.mod_lt _ (by decide)) }

/-- VLEN in bits (R77). -/
def Thread.vlen (t : Thread) : Nat := 1024 * t.lg

/-- The current privilege for accesses: user mode (R304). -/
def Thread.user (t : Thread) : Bool := !t.priv

/-- Lets a function act on the current thread. -/
def State.mod (s : State) (f : Thread → Thread) : State := { s with cur := f s.cur }

/-- Continues at the next word (R63). -/
def Thread.next (t : Thread) : Thread := { t with pc := t.pc + 4 }

/-! ## The queue -/

/-- The major opcode of a word (R30). -/
def majorOf (w : BitVec 32) : Nat := (w.extractLsb' 26 6).toNat

/-- The fn4 field of a word (R30). -/
def fn4Of (w : BitVec 32) : Nat := (w.extractLsb' 0 4).toNat

/-- Whether a word's cv bit may be set (R41, R42). -/
def convoyEligible (w : BitVec 32) : Bool :=
  (0x28 ≤ majorOf w && majorOf w ≤ 0x32) || majorOf w == 0x34 || majorOf w == 0x35 || (majorOf w == 0x20 && fn4Of w == 2)

/-- Whether a word joins the next to its convoy (R41). -/
def joins (w : BitVec 32) : Bool := convoyEligible w && w.extractLsb' 4 1 == 1#1

/-- Whether a word is a vframe (R44). -/
def isFrame (w : BitVec 32) : Bool := majorOf w == 0x1F

/-- The captured count of a vframe word (R44). -/
def frameCount (w : BitVec 32) : Nat := (w.extractLsb' 16 4).toNat + 1

/-- Whether an entry is held (R309). -/
def Entry.held (e : Entry) : Bool := e.level != 0

/-- Whether an entry has been dispatched and only waits to retire. -/
def Entry.isDone (e : Entry) : Bool := match e.phase with | .done _ => true | .unstarted => false

/-- The entries that are not held. -/
def Thread.pending (t : Thread) : List Entry := t.queue.filter (fun e => !e.held)

/-- The older entries that the waits of R17 and R69 name: a privileged thread leaves the held ones out (R313). -/
def Thread.waited (t : Thread) : List Entry := t.queue.filter (fun e => !e.held || !t.priv)

/-- The highest hold level of any entry, 0 when none is held (R309). -/
def topLevel : List Entry → Nat
  | [] => 0
  | e :: es => max e.level.toNat (topLevel es)

/-- The members of the open convoy, oldest first: the youngest entries that are not held, each with its cv bit set (R385). -/
def openConvoy (q : List Entry) : List Entry := (q.reverse.takeWhile (fun e => !e.held && joins e.word)).reverse

/-- The members captured so far of the frame that is still capturing, with its vframe entry first (R44); none when no frame
captures. -/
def capturing (q : List Entry) : Option (List Entry) :=
  match q.reverse.takeWhile (fun e => !e.held && e.frame), (q.reverse.dropWhile (fun e => !e.held && e.frame)).head? with
  | ms, some f => if !f.held && isFrame f.word && ms.length < frameCount f.word then some (f :: ms.reverse) else none
  | _, none => none

/-- The entry that VCP names (R78, R309): while entries are held and none that `eret` released is left, the first of the
highest level; otherwise the oldest that is not held. -/
def Thread.named (t : Thread) : Option Entry :=
  let top := topLevel t.queue
  if top ≠ 0 ∧ t.released = 0 then t.queue.find? (fun e => e.level.toNat = top) else t.pending.head?

/-- The scalar register that a queued word writes, if any (R38): spawn, vclaim, the stitched forms with a result, ring.hdr,
ring.stat, vext, vred.gsum, vpopc and vfirst. -/
def scalarDst (w : BitVec 32) : Option (BitVec 5) :=
  let gd := w.extractLsb' 21 5
  match majorOf w, fn4Of w with
  | 0x1D, 0x0 => some gd
  | 0x1D, 0x4 => some gd
  | 0x21, 0x0 => some gd
  | 0x21, 0x2 => some gd
  | 0x21, 0x3 => some gd
  | 0x21, 0x4 => some gd
  | 0x21, 0x5 => some gd
  | 0x22, 0x3 => some gd
  | 0x22, 0x5 => some gd
  | 0x2C, 0x8 => some gd
  | 0x2D, 0xA => some gd
  | 0x2E, 0x4 => some gd
  | 0x2E, 0x5 => some gd
  | _, _ => none

/-- Whether scalar register r is empty for the code that runs (R38): an entry that will write it has not retired. Held entries do not
make a register empty for privileged code, whose waits leave them out (R313; log entry 34). -/
def Thread.gempty (t : Thread) (r : BitVec 5) : Bool := r != 0 && t.waited.any (fun e => scalarDst e.word == some r)

/-- Whether an entry may read or write memory, or orders the thread's later accesses as a ring.hdr does (R62, R241, R272; decided by its
kind alone). -/
def touchesMemory (w : BitVec 32) : Bool :=
  match majorOf w, fn4Of w with
  | 0x1D, _ => true
  | 0x20, 0x0 => false
  | 0x20, 0x1 => false
  | 0x20, _ => true
  | 0x21, _ => true
  | 0x22, 0x0 => true
  | 0x22, 0x1 => true
  | 0x22, 0x3 => true
  | 0x22, 0x4 => true
  | 0x23, _ => true
  | 0x30, _ => true
  | 0x31, _ => true
  | 0x32, _ => true
  | 0x33, _ => true
  | 0x35, 0x1 => true
  | 0x35, 0x2 => true
  | 0x36, _ => true
  | 0x37, 0x0 => true
  | 0x37, 0x1 => true
  | 0x37, 0x2 => true
  | 0x37, 0x3 => true
  | _, _ => false

/-- The entries of R17 and R69 that have not retired: whether a wait that names them is over. -/
def Thread.drained (t : Thread) : Bool := t.waited.isEmpty

/-- Whether every older entry that may touch memory has retired (R62). -/
def Thread.memoryClear (t : Thread) : Bool := t.waited.all (fun e => !touchesMemory e.word)

/-- Whether a copy is the current thread's. -/
def State.ownCopy (s : State) (c : Copy) : Bool := c.team == s.cur.team && c.lthread == s.cur.lthread

/-- Whether `n` bytes from `pa` meet the range that lists of addresses span (R178: decided conservatively). -/
def meetsRange (pa n : Nat) (l : List (List Nat)) : Bool :=
  let all := l.flatten
  match all with
  | [] => false
  | x :: xs => decide (pa ≤ xs.foldl max x) && decide (xs.foldl min x < pa + n)

/-- The copies that a queue's entries will hand over when they retire. -/
def pendingCopies (q : List Entry) : List Copy :=
  q.filterMap (fun e => match e.phase with
    | .done r => (match r.hand with | .copy c => some c | _ => none)
    | .unstarted => none)

/-- Every copy that has passed its dispatch and holds pins (R175): in flight, or waiting to retire. -/
def State.pinning (s : State) : List Copy := s.copies ++ (s.cur :: s.others).flatMap (fun t => pendingCopies t.queue)

/-- Whether an access must wait for a copy of its own thread (R178), in flight or dispatched before it: it reads what the copy may yet
write, or writes what the copy may yet read or write. -/
def State.copyMeets (s : State) (pa n : Nat) (write : Bool) : Bool :=
  (s.copies ++ pendingCopies s.cur.queue).any (fun c => s.ownCopy c &&
    (meetsRange pa n (c.moves.map (·.dst)) || (write && meetsRange pa n (c.moves.map (·.src)))))

/-- Whether every earlier access of the thread has taken effect: no older entry that may touch memory, no copy in flight. -/
def State.memoryClear (s : State) : Bool := s.cur.memoryClear && s.copies.all (fun c => !s.ownCopy c)

/-- Whether every older entry has passed its trim point (R69, R89): an entry's checks and elements are made in one step, so an
entry that has dispatched is past it. -/
def Thread.trimPointsPassed (t : Thread) : Bool := t.waited.all Entry.isDone

/-! ## Taking an exception and returning from one -/

/-- EINFO for causes 0x40 to 0x45 and 0x48 (R49): pos, opnd, egroup, iter. -/
def einfoPos (pos opnd egroup iter : Nat) : Word := BitVec.ofNat 64 (pos % 16 + 16 * (opnd % 4) + 256 * (egroup % 256) + 65536 * (iter % 2 ^ 32))

/-- EINFO for a scalar access or a fetch (R60). -/
def einfoScalar (size : Nat) (store fetch user : Bool) (level : Nat) : Word :=
  BitVec.ofNat 64 (size % 4 + (if store then 4 else 0) + (if fetch then 8 else 0) + (if user then 16 else 0) + 256 * (level % 256))

/-- EINFO for 0x4A (R269): opnd, check, index. -/
def einfoShape (opnd check index : Nat) : Word := BitVec.ofNat 64 (16 * (opnd % 4) + 256 * (check % 256) + 65536 * (index % 256))

/-- EINFO for 0x4B (R268). -/
def einfoBarrier (bar : BitVec 6) (reason : Nat) : Word := BitVec.ofNat 64 (bar.toNat + 256 * (reason % 256))

/-- Trap entry (R308 to R310): saves the resume PC, the cause and its details, raises the privilege, sets busy and goes to
TVEC. A trap met while busy is set is a double trap: the thread stops at once, with no further effect. -/
def Thread.enterTrap (t : Thread) (cause : BitVec 8) (deferred : Bool) (epc eaddr einfo : Word) : Thread :=
  if t.busy then { t with status := .stopped }
  else
    { t with
      stuck := none
      epc := epc &&& 0x00FFFFFFFFFFFFFC
      ecause := (if deferred then 1#1 else 0#1) ++ ((if t.queue.isEmpty then 0#1 else 1#1) ++ cause)
      eaddr := eaddr
      einfo := einfo
      ppriv := t.priv
      priv := true
      busy := true
      epochs := t.epoch :: t.epochs
      pc := t.tvec }

/-- The open convoy or the capturing frame, whichever a push-time trap discards (R385): the discarded entries, oldest first. A
frame takes its open convoy with it. -/
def Thread.openEntries (t : Thread) : List Entry :=
  match capturing t.queue with
  | some f => f
  | none => openConvoy t.queue

/-- The queue without its youngest `n` entries; the sequence counter and the next slot return to what they were before the
first discarded entry (R385). -/
def Thread.discard (t : Thread) (gone : List Entry) : Thread :=
  match gone with
  | [] => t
  | e :: _ => { t with queue := t.queue.take (t.queue.length - gone.length), seq := e.seq, nextSlot := e.slot, pc := e.pc }

/-- A trap that a word takes at its issue or push (R39, R48, R97, R385). It waits until every older entry has retired; an open
convoy or a capturing frame is discarded, and the thread resumes at its first word. `info` is EINFO without R49's pos, which a
discard fills with the word's position; `withPos` says whether EINFO has that field. -/
def State.issueTrap (s : State) (cause : BitVec 8) (eaddr info : Word) (withPos : Bool := true) : State :=
  let gone := s.cur.openEntries
  let rest := s.cur.discard gone
  if !rest.drained then s
  else
    let pos := match capturing s.cur.queue with
      | some f => f.length - 1
      | none => gone.length
    s.mod (fun _ => rest.enterTrap cause false rest.pc eaddr (if withPos then info ||| BitVec.ofNat 64 (pos % 16) else info))

/-- A trap of a word with R49's EINFO, where EADDR is the word's PC. -/
def State.wordTrap (s : State) (cause : BitVec 8) (opnd : Nat := 0) : State :=
  s.issueTrap cause s.cur.pc (einfoPos 0 opnd 0 0)

/-- Whether a trap at the issue of the current word must wait for older entries (R97). -/
def Thread.trapWaits (t : Thread) : Bool := !(t.discard t.openEntries).drained

/-- The trap of a premature read (R39): found once, it is taken when the older entries have retired, full as the register then is (R97). -/
def State.prematureTrap (s : State) (opnd : Nat) : State :=
  if s.cur.trapWaits then s.mod (fun t => { t with stuck := some opnd }) else s.wordTrap 0x44 opnd

/-- A frame violation (R46): the vframe entry and every captured member are discarded, EPC and EADDR hold the vframe word's PC
and EINFO.pos the offending word's position. -/
def State.frameViolation (s : State) : State :=
  match capturing s.cur.queue with
  | some (f :: _) => s.issueTrap 0x43 f.pc 0
  | _ => s.issueTrap 0x43 s.cur.pc 0

/-- Marks held, at `level`, every entry that is not held from the `n`-th on (R309); what a frame's member emptied is full again (R36). -/
def holdFrom (level : BitVec 4) : Nat → List Entry → List Entry
  | _, [] => []
  | n, e :: es =>
    (if n = 0 ∧ !e.held then { e with level := level, running := none } else e) :: holdFrom level (n - 1) es

/-- A trap of the queued entry at position `n` of the queue (R96, R309): every older entry has retired or is held; it and every
younger entry that is not held, an open convoy or a capturing frame among them, are held one level above the highest. ES keeps the
entry's start, and the scalar part continues after the last word pushed. -/
def Thread.holdTrap (t : Thread) (n : Nat) (es : BitVec 16) (cause : BitVec 8) (eaddr einfo : Word) : Thread :=
  let level := topLevel t.queue + 1
  if t.busy ∨ 16 ≤ level then { t with status := .stopped }
  else
    ({ t with queue := holdFrom (BitVec.ofNat 4 level) n t.queue, es := es, released := 0 } : Thread).enterTrap
      cause false t.pc eaddr einfo

/-- Releases the entries of the highest hold level (R309). -/
def releaseTop (q : List Entry) : List Entry :=
  let top := topLevel q
  if top = 0 then q else q.map (fun e => if e.level.toNat = top then { e with level := 0 } else e)

/-- Return from a handler (R324): the PC from EPC, the privilege from ppriv, busy clear, and the entries of the highest level
lose their mark. A bar.sync that has arrived goes on waiting where the outermost handler returns to it (R264, R270). -/
def Thread.leaveTrap (t : Thread) : Thread :=
  let top := topLevel t.queue
  { t with
    pc := t.epc, priv := t.ppriv, busy := false, queue := releaseTop t.queue
    epoch := t.epochs.head?.getD t.epoch, epochs := t.epochs.tail
    syncing := if t.epochs.length ≤ 1 then t.syncing.filter (fun x => x.2 == t.epc) else t.syncing
    released := (t.queue.filter (fun e => top != 0 && e.level.toNat == top)).length }

/-! ## Issuing a scalar instruction -/

/-- A scalar source: its register, its strict bit, its number in EINFO.opnd (R49). -/
abbrev Source := BitVec 5 × Bool × Nat

/-- Whether a member of the open convoy writes scalar register r (R39): a later member's read of it is exempt. -/
def Thread.convoyWrites (t : Thread) (r : BitVec 5) : Bool := r != 0 && (openConvoy t.queue).any (fun e => scalarDst e.word == some r)

/-- Whether a member of the open convoy or of the capturing frame writes scalar register r: that member cannot dispatch before the word
that reads r is pushed, which takes the value later (R40; log entry 49). -/
def Thread.openWrites (t : Thread) (r : BitVec 5) : Bool := r != 0 && t.openEntries.any (fun e => scalarDst e.word == some r)

/-- The operand that a premature read concerns, if the word has one (R39): found now, or when the word first issued; of several the
first in the order of the word's operands (log entry 19). -/
def Thread.premature (t : Thread) (srcs : List Source) : Option Nat :=
  (srcs.find? (fun x => x.2.1 && ((t.gempty x.1 && !t.convoyWrites x.1) || t.stuck == some x.2.2))).map (·.2.2)

/-- What stops a scalar instruction before it has an effect. -/
inductive Gate where
  | trap (s : State)
  | wait
  | pass
  deriving DecidableEq, Repr

/-- The checks of a scalar instruction that comes after its decoding (R48): privilege 0x45, frame violation 0x43, convoy
conflict 0x42, premature read of a strict source 0x44; then the waits for empty registers (R39, R40, R52). -/
def State.gate (s : State) (privileged : Bool) (srcs : List Source) (dsts : List (BitVec 5)) : Gate :=
  if privileged && !s.cur.priv then .trap (s.wordTrap 0x45)
  else if (capturing s.cur.queue).isSome then .trap s.frameViolation
  else if !(openConvoy s.cur.queue).isEmpty then .trap (s.wordTrap 0x42)
  else
    match s.cur.premature srcs with
    | some opnd => .trap (s.prematureTrap opnd)
    | none =>
      if srcs.any (fun x => s.cur.gempty x.1) || dsts.any (fun r => s.cur.gempty r) then .wait else .pass

/-- A scalar instruction: its checks and waits, then its body. A wait leaves the machine as it is: the instruction issues again. -/
def State.scalar (s : State) (privileged : Bool) (srcs : List Source) (dsts : List (BitVec 5)) (body : State → State) : Out :=
  match s.gate privileged srcs dsts with
  | .trap s' => .next s'
  | .wait => .next s
  | .pass => .next (body s)

end Sys2Proof.Machine
end

