-- ==== Sys2Proof/Machine/Translation.lean ====
section
/-!
DEFINITION. What the partition layout grants (R125, R160, R335, R369), page tables and translation (R315 to R321), and the
checks and accesses of one span of bytes (R29, R59, R155 to R157).
-/
namespace Sys2Proof.Machine

/-! ## The layout as the units see it -/

/-- Whether some islands have flipped to the shadow bank and others have not (R374): no instruction executes then. -/
def Layout.mixed (l : Layout) : Bool := l.shadow.isSome && decide (0 < l.flipped ∧ l.flipped < 512)

/-- The grants of one type of a partition (R369). -/
def State.grantsOf (s : State) (type part : Nat) : List Grant :=
  s.layout.grants.filter (fun g => g.type == type && g.part == part)

/-- Whether a range of numbers lies wholly inside the union of ranges (first, count). -/
def coveredBy (ranges : List (Nat × Nat)) : Nat → Nat → Nat → Bool
  | 0, lo, hi => decide (hi ≤ lo)
  | fuel + 1, lo, hi =>
    if hi ≤ lo then true
    else match ranges.find? (fun r => decide (r.1 ≤ lo ∧ lo < r.1 + r.2)) with
      | some r => coveredBy ranges fuel (r.1 + r.2) hi
      | none => false

/-- The DRAM frames of a partition, as ranges of frame numbers (R369, type 4). -/
def State.dramRanges (s : State) (part : Nat) : List (Nat × Nat) := (s.grantsOf 4 part).map (fun g => (g.first % 2 ^ 36, g.count))

/-- The host frames of a partition (R369, type 5). DESIGN CHOICE (log entry 16): the spec does not say where host memory lies in the physical
address space; a host frame number is PA[47:12] itself, and must lie outside package DRAM and the vault aperture (`grantOk`). -/
def State.hostRanges (s : State) (part : Nat) : List (Nat × Nat) := (s.grantsOf 5 part).map (fun g => (g.first, g.count))

/-- Whether the bytes lie in the partition's DRAM grant. -/
def State.inDram (s : State) (part pa n : Nat) : Bool :=
  let rs := s.dramRanges part
  coveredBy rs (rs.length + 1) (pa / 4096) ((pa + n + 4095) / 4096)

/-- The vault grant that names a vault (R369, type 2). -/
def State.vaultGrant (s : State) (v : Nat) : Option Grant :=
  s.layout.grants.find? (fun g => g.type == 2 && decide (g.first ≤ v ∧ v < g.first + g.count))

/-- Whether a partition may reach a vault window: the vault is its own and in addressed mode (R160). DESIGN CHOICE (log entry 67): R160 names a
vault in block-cache mode and one of another partition; one that no grant names belongs to no partition (R368), and its window is closed
too. -/
def State.vaultOpen (s : State) (part pa : Nat) : Bool :=
  match s.vaultGrant (vaultOf pa) with
  | some g => g.part == part && g.value % 2 == 0
  | none => false

/-- Whether a frame lies in the partition's grant: its DRAM pages, its host range or the vault aperture (R318). -/
def State.frameGranted (s : State) (part pa n : Nat) : Bool :=
  let rs := s.dramRanges part ++ s.hostRanges part ++ [(apertureBase / 4096, apertureSize / 4096)]
  coveredBy rs (rs.length + 1) (pa / 4096) ((pa + n + 4095) / 4096)

/-- Whether a key slot is the partition's own and holds a loaded key (R318). -/
def State.keyValid (s : State) (part key : Nat) : Bool :=
  s.keys.contains key && (s.grantsOf 6 part).any (fun g => decide (g.first ≤ key ∧ key < g.first + g.count))

/-- A format region (R125): first byte, length in bytes, type code, tract. -/
structure Region where
  base : Nat
  size : Nat
  type : Nat
  part : Nat
  tract : Nat
  deriving DecidableEq, Repr

/-- The region that a type 7 grant sets up, if its entry is enabled with a block type (R125, R369). -/
def regionOf (g : Grant) : Option Region :=
  let type := bitsOf g.value 28 24
  if g.type == 7 && bitsOf g.value 31 31 == 1 && (type == 0x0C || type == 0x0D || type == 0x0E) then
    let pages := bitsOf g.value 23 0
    some { base := 4096 * bitsOf g.extra 47 12, size := 4096 * (if pages = 0 then 2 ^ 24 else pages), type := type, part := g.part,
           tract := g.first }
  else none

/-- The enabled format regions (R125). -/
def State.regions (s : State) : List Region := s.layout.grants.filterMap regionOf

/-- The format region that holds a physical address. -/
def State.regionAt (s : State) (pa : Nat) : Option Region :=
  s.regions.find? (fun r => decide (r.base ≤ pa ∧ pa < r.base + r.size))

/-- The bytes of a stored block of a region (R127). -/
def Region.blockSize (r : Region) : Nat := if r.type = 0x0C then 34 else if r.type = 0x0E then 26 else 18

/-- Marks these bytes as holding an uncorrected error (R90, R157, R177): their sectors, or in a format region the bytes themselves, whose stored
blocks cannot be delivered (R127, R129). -/
def State.damage (s : State) (pa n : Nat) : State :=
  match s.regionAt pa with
  | some _ => { s with badBytes := (List.range n).foldl (fun l k => insertNat (pa + k) l) s.badBytes }
  | none => s.poisonBytes pa n

/-- Whether `n` bytes of a stored block, on one page, hold an uncorrected error, or lie in a unit that was removed (R129, R381). -/
def State.bytesBad (s : State) (pa n : Nat) : Bool := (List.range n).any (fun k => s.badBytes.contains (pa + k)) || s.units.gone pa

/-- The bytes of the stored block at an address (R127). -/
def State.blockSizeAt (s : State) (pa : Nat) : Nat := match s.regionAt pa with | some r => r.blockSize | none => 1

/-- Whether the stored block at an address holds an uncorrected error. -/
def State.blockBad (s : State) (pa : Nat) : Bool := s.bytesBad pa (s.blockSizeAt pa) || s.units.gone (pa + s.blockSizeAt pa - 1)

/-! ## Page tables -/

/-- Whose translation an access uses (R313, R318, R321): partition, PTB, the key slot that tables are read under, whether the access is
made in user mode. -/
structure Ctx where
  part : Nat
  ptb : Word
  key : Nat
  user : Bool
  deriving DecidableEq, Repr

/-- The current thread's translation. -/
def Thread.ctx (t : Thread) : Ctx := { part := t.part.toNat, ptb := t.ptb, key := t.keydef.toNat, user := t.user }

/-- PTB.root as an address (R307). -/
def rootOf (ptb : Word) : Nat := 4096 * bitsOf ptb.toNat 47 12

/-- PTB.ctx (R307). -/
def ctxOf (ptb : Word) : Nat := bitsOf ptb.toNat 11 0

/-- The lowest VA bit that a level indexes with (R315). -/
def levelShift : Nat → Nat
  | 3 => 47
  | 2 => 35
  | 1 => 21
  | _ => 12

/-- The index bits of a level (R315). -/
def levelBits : Nat → Nat
  | 3 => 9
  | 2 => 12
  | 1 => 14
  | _ => 9

/-- A leaf found by a walk: its doubleword, where it lies, and log2 of the page it maps. -/
structure Leaf where
  word : Word
  at_ : Nat
  bits : Nat
  deriving DecidableEq, Repr

/-- What a walk finds: a leaf, the level of the first entry that is not valid (R315, R318), or that the tables cannot be read because
KEYDEF names no key slot of the partition's that holds a key (R335). -/
inductive Walk where
  | leaf (l : Leaf)
  | invalid (level : Nat)
  | refused
  deriving DecidableEq, Repr

/-- The frame address of a leaf, PA[47:12] from bits [51:16] (R317). -/
def leafFrame (w : Word) : Nat := 4096 * bitsOf w.toNat 51 16

/-- The key slot of a leaf (R317). -/
def leafKey (w : Word) : Nat := bitsOf w.toNat 63 52

/-- One bit of a leaf (R317). -/
def leafBit (w : Word) (n : Nat) : Bool := w.getLsbD n

/-- A doubleword of a table, decrypted under a key slot (R318): what it was written as where it was written under that slot. -/
def State.tableWord (s : State) (key e : Nat) : Word :=
  let x := leNat (s.read e 8)
  BitVec.ofNat 64 (match s.lines.find? (fun t => t.line == e / 128) with
    | some t => if t.key = key then x else Config.throughKey t.key key e x
    | none => x)

/-- One level of the walk and those below it (R315, R316, R318): `level` counts down to 0. -/
def State.walkFrom (s : State) (part key va : Nat) : Nat → Nat → Walk
  | level, table =>
    let bits := levelBits level
    let base := table / 2 ^ (bits + 3) * 2 ^ (bits + 3)
    let e := base + 8 * (va / 2 ^ levelShift level % 2 ^ bits)
    let w := s.tableWord key e
    if !s.inDram part e 8 || (s.regionAt e).isSome || !leafBit w 0 then .invalid level
    else if leafBit w 1 then
      let frame := leafFrame w
      let size := 2 ^ levelShift level
      if level = 3 ∨ frame % size ≠ 0 ∨ !s.frameGranted part frame size then .invalid level
      else .leaf { word := w, at_ := e, bits := levelShift level }
    else
      match level with
      | 0 => .invalid 0
      | l + 1 => if bitsOf w.toNat 15 2 ≠ 0 ∨ bitsOf w.toNat 63 52 ≠ 0 then .invalid (l + 1)
                 else s.walkFrom part key va l (leafFrame w)

/-- The walk of a virtual address (R315); bits [63:56] fail at the root. -/
def State.walk (s : State) (c : Ctx) (va : Nat) : Walk :=
  if 2 ^ 56 ≤ va then .invalid 3
  else if !s.keyValid c.part c.key then .refused
  else s.walkFrom c.part c.key va 3 (rootOf c.ptb)

/-- The TLB entry that matches a context and an address (R321). -/
def State.tlbHit (s : State) (c : Ctx) (va : Nat) : Option TlbEntry :=
  s.tlb.find? (fun e => e.part == c.part && (e.global || e.ctx == ctxOf c.ptb) && decide (e.va = va / 2 ^ e.bits * 2 ^ e.bits))

/-- A leaf without its A and D bits: what a cached copy may differ in without showing (R320). -/
def withoutAD (w : Word) : Word := w &&& 0xFFFFFFFFFFFFFE7F

/-- The leaf that a TLB entry holds. -/
def TlbEntry.asLeaf (e : TlbEntry) : Leaf := { word := e.leaf, at_ := e.at_, bits := e.bits }

/-- Whether a walk finds what a TLB entry holds. -/
def Walk.same (e : TlbEntry) : Walk → Bool
  | .leaf l => withoutAD l.word == withoutAD e.leaf && l.bits == e.bits && l.at_ == e.at_
  | _ => false

/-- The translation that an access uses: the TLB's, where it holds one, unless the tables now say something else, when either
may be used (R319, R321; log entry 9), but one for all accesses of an instruction to the cached page (R154, R155). -/
def State.translate (s : State) (c : Ctx) (va : Nat) : Walk :=
  match s.tlbHit c va with
  | none => s.walk c va
  | some e => if (s.walk c va).same e || Config.staleChoice s.tick (e.va / 4096) then .leaf e.asLeaf else s.walk c va

/-- The physical address of a byte under a leaf. -/
def Leaf.pa (l : Leaf) (va : Nat) : Nat := leafFrame l.word + va % 2 ^ l.bits

/-! ### Strong accesses and A and D -/

/-- The bytes of an access at which a strong access of another size has been made (R251). -/
def State.mixedBytes (s : State) (pa n : Nat) : List Nat :=
  if s.cur.amode.getLsbD 0 then []
  else (s.strong.filter (fun x => decide (pa ≤ x.1 ∧ x.1 < pa + n) && x.2 != n)).map (·.1)

/-- Records a strong access (R251): its home slice keeps the last one of the sector, and each of its bytes every size so far. A write ends only
what two accesses before it left unpredictable: with each of them a later access of another size still makes a pair (log entry 10). -/
def State.noteStrong (s : State) (pa n : Nat) : State :=
  let r : SizeRecord := { sector := pa / 32, addr := pa, size := n }
  { s with
    sizes := r :: s.sizes.filter (fun x => x.sector != r.sector)
    strong := ((List.range n).map (fun i => (pa + i, n))).filter (fun x => !s.strong.contains x) ++ s.strong }

/-- The TLB entry that holds a leaf for a context. -/
def Leaf.entry (l : Leaf) (c : Ctx) (va : Nat) : TlbEntry :=
  { part := c.part, ctx := ctxOf c.ptb, global := leafBit l.word 14, va := va / 2 ^ l.bits * 2 ^ l.bits, bits := l.bits, leaf := l.word, at_ := l.at_ }

/-- The TLB with an entry: it takes the place of one for the same page, and of no other, so that what a translation found first stays first
(R154, R155). -/
def cacheEntry (e : TlbEntry) (l : List TlbEntry) : List TlbEntry :=
  let same := fun (x : TlbEntry) => x.part == e.part && x.va == e.va && x.bits == e.bits && (x.global || x.ctx == e.ctx)
  if l.any same then l.map (fun x => if same x then e else x) else l ++ [e]

/-- A translation is cached. -/
def State.cacheLeaf (s : State) (c : Ctx) (va : Nat) (l : Leaf) : State :=
  if s.tlbHit c va = some (l.entry c va) then s else { s with tlb := cacheEntry (l.entry c va) s.tlb }

/-- Bits of a leaf's doubleword are set in its place, by one indivisible strong access of 8 bytes (R251, R320). -/
def State.setAD (s : State) (at_ : Nat) (bits : Word) : State :=
  (({ s with mem := s.mem.write at_ (leBytes 8 (s.mem.num at_ 8 ||| bits.toNat)) } : State).noteStrong at_ 8).addWildBytes (s.mixedBytes at_ 8)

/-- The bits that an access sets in its leaf (R320): A, and D for a write. -/
def bitsAD (write : Bool) : Word := if write then 0x180 else 0x80

/-- What an access that takes effect does to its translation (R320): it is cached with A set, and D for a write. In memory the bits are set that
the used leaf lacks; one that a TLB entry holds is not set again. -/
def State.touch (s : State) (c : Ctx) (va : Nat) (l : Leaf) (write : Bool) : State :=
  let missing := bitsAD write &&& ~~~l.word
  let s1 := if missing = 0 then s else s.setAD l.at_ missing
  s1.cacheLeaf c va { l with word := l.word ||| bitsAD write }

/-- An access through a translation that was made before it, by a stream or a ring engine (R163, R238): it sets what the cached entry lacks; where
the entry has been removed, what the leaf that a pin names lacks (R320). -/
def State.touchHeld (s : State) (part ctx va : Nat) (pinned : Option Nat) (write : Bool) : State :=
  let c : Ctx := { part := part, ptb := BitVec.ofNat 64 ctx, key := 0, user := true }
  match s.tlbHit c va with
  | some e => s.touch c va e.asLeaf write
  | none =>
    match pinned with
    | none => s
    | some at_ =>
      let missing := bitsAD write &&& ~~~BitVec.ofNat 64 (s.mem.num at_ 8)
      if missing = 0 then s else s.setAD at_ missing

/-! ## Page access counters -/

/-- The partition whose DRAM grant holds a frame. -/
def State.frameOwner (s : State) (frame : Nat) : Option Nat :=
  (s.layout.grants.find? (fun g => g.type == 4 && decide (g.first ≤ frame ∧ frame < g.first + g.count))).map (·.part)

/-- Raises one of a partition's counts (R382). -/
def bumpCount (part : Nat) (f : Counts → Counts) (l : List Counts) : List Counts :=
  if l.any (fun c => c.part == part) then l.map (fun c => if c.part = part then f c else c)
  else l ++ [f { part := part, corrected := 0, demotions := 0, abandoned := 0, late := 0, overflows := 0, lost := 0 }]

/-- Errors corrected in a unit (R381, R382): the firmware counts them for the unit, with the interval they fall in, and for its partitions. -/
def State.correct (s : State) (u : CountedUnit) (parts : List Nat) (n : Nat) : State :=
  { s with
    units := { s.units with errors := List.replicate n (u, s.units.interval) ++ s.units.errors }
    counts := parts.foldl (fun l p => bumpCount p (fun k => { k with corrected := k.corrected + BitVec.ofNat 64 n }) l) s.counts }

/-- The corrected errors of a unit in the last 2^30 hub cycles, which are 1,024 intervals (R381). -/
def Units.recent (u : Units) (x : CountedUnit) : Nat := (u.errors.filter (fun e => e.1 == x && decide (u.interval < e.2 + 1024))).length

/-- The counter's 32 bits (R383). -/
def PageCounter.word (c : PageCounter) : BitVec 32 :=
  BitVec.ofNat 32 (c.count.toNat + (if c.queued then 2 ^ 16 else 0) + (if c.ovf then 2 ^ 17 else 0))

/-- A counter as a write of its 32 bits leaves it (R383). -/
def PageCounter.ofWord (frame : Nat) (w : BitVec 32) : PageCounter :=
  { frame := frame, count := w.setWidth 16, queued := w.getLsbD 16, ovf := w.getLsbD 17 }

/-- The counter of a frame, all zero where none is listed (R383). -/
def State.counterOf (s : State) (frame : Nat) : PageCounter :=
  (s.pageCounters.find? (fun c => c.frame == frame)).getD { frame := frame, count := 0, queued := false, ovf := false }

/-- The counters with one replaced. -/
def setCounter (c : PageCounter) (l : List PageCounter) : List PageCounter :=
  if l.any (fun x => x.frame == c.frame) then l.map (fun x => if x.frame = c.frame then c else x) else l ++ [c]

/-- The 16 bytes of a notification (R383): frame, count, source; their places are a DESIGN CHOICE (log entry 17). -/
def notification (frame count source : Nat) : List Byte := leBytes 8 frame ++ leBytes 2 count ++ leBytes 6 source

/-- Counts one remote access to a frame and posts a notification where it falls due (R383): source 0 for cores of other tracts, 1
for the host. A ring is full when 4,096 of the partition's frames have a notification outstanding (log entry 17). -/
def State.countRemote (s : State) (frame source : Nat) : State :=
  let c := s.counterOf frame
  let n := min 0xFFFF (c.count.toNat + 1)
  let c' := { c with count := BitVec.ofNat 16 n }
  let quiet := { s with pageCounters := setCounter c' s.pageCounters }
  match s.frameOwner frame with
  | none => quiet
  | some part =>
    match s.pageQueues.find? (fun q => q.part == part) with
    | none => quiet
    | some q =>
      if n < q.threshold ∨ c.queued then quiet
      else
        let outstanding := (s.pageCounters.filter (fun x => x.queued && s.frameOwner x.frame == some part)).length
        if 4096 ≤ outstanding then
          { s with pageCounters := setCounter { c' with ovf := true } s.pageCounters
                   counts := bumpCount part (fun k => { k with overflows := k.overflows + 1 }) s.counts }
        else
          { (s.put (q.queue + 16 * (q.written % 4096)) (notification frame n source)).put q.tail (leBytes 8 (q.written + 1)) with
            pageCounters := setCounter { c' with queued := true } s.pageCounters
            pageQueues := s.pageQueues.map (fun x => if x.part = part then { x with written := x.written + 1 } else x) }

/-- An access of a core to a physical address, counted where the frame belongs to another tract (R383). -/
def State.noteAccess (s : State) (pa : Nat) : State :=
  if isDram pa && tractOf pa != s.cur.slot / 512 then s.countRemote (pa / 4096) 0 else s

/-! ## The checks of one part -/

/-- What kind of access a part needs. -/
structure Need where
  read : Bool
  write : Bool
  fetch : Bool
  deriving DecidableEq, Repr

/-- A read. -/
def Need.load : Need := { read := true, write := false, fetch := false }

/-- A write. -/
def Need.store : Need := { read := false, write := true, fetch := false }

/-- A read and a write. -/
def Need.both : Need := { read := true, write := true, fetch := false }

/-- An instruction fetch. -/
def Need.exec : Need := { read := false, write := false, fetch := true }

/-- The FMT bit and the way class of a leaf (R317). -/
def lineClass (w : Word) : Nat := (if leafBit w 13 then 1 else 0) + 2 * bitsOf w.toNat 12 11

/-- A line is accessed through a key slot, FMT bit and way class (R2, R328; log entry 4): where it was last accessed otherwise and not
flushed, or written under another key slot, its bytes are unpredictable until they are written. -/
def State.useLine (s : State) (key seen line : Nat) : State :=
  let tag : LineTag := { line := line, key := key, seen := some seen }
  match s.lines.find? (fun t => t.line == line) with
  | none => { s with lines := tag :: s.lines }
  | some t =>
    if t = tag then s
    else
      let s1 := if t.key ≠ key ∨ t.seen.any (fun x => x != seen) then s.addWild (128 * line) 128 else s
      { s1 with lines := tag :: s1.lines.filter (fun x => x.line != line) }

/-- The lines of a span of DRAM are accessed through a leaf. -/
def State.useLines (s : State) (w : Word) (pa n : Nat) : State :=
  if n = 0 ∨ !isDram pa then s
  else ((List.range ((pa + n - 1) / 128 - pa / 128 + 1)).map (fun i => pa / 128 + i)).foldl (fun s line => s.useLine (leafKey w) (lineClass w) line) s

/-- Why a leaf refuses an access: the lowest subcode that applies (R86, R155, R160, R317, R318). 0 read refused, 1 write
refused, 2 user access without U, 3 key slot invalid. -/
def State.refusal (s : State) (c : Ctx) (l : Leaf) (pa : Nat) (n : Need) : Option Nat :=
  let vaultShut := inAperture pa && !s.vaultOpen c.part pa
  if (n.read && !leafBit l.word 2) || (n.fetch && !leafBit l.word 4) || (vaultShut && (n.read || n.fetch)) then some 0
  else if (n.write && !leafBit l.word 3) || (vaultShut && n.write) then some 1
  else if c.user && !leafBit l.word 5 then some 2
  else if !s.keyValid c.part (leafKey l.word) then some 3
  else none

/-- The subcode of an uncorrected error in memory (R86): 1 vault, 2 LLC, 3 DRAM. Which of LLC and DRAM holds it is free
(log entry 10). -/
def State.errorTier (s : State) (pa : Nat) : Nat := if inAperture pa then 1 else if Config.errorInLlc s.tick then 2 else 3

/-- A failure of a scalar access or a fetch: the cause and the level for EINFO (R29, R59, R60). -/
abbrev ScalarFail := BitVec 8 × Nat

/-- The checks of a scalar access or fetch after its alignment (R29, R59): translation, the leaf, the format, the data. `n` bytes
lie on one page; an uncorrected error anywhere in the 128-byte line counts. On success the physical address and the leaf. -/
def State.scalarCheck (s : State) (c : Ctx) (va n : Nat) (need : Need) : Except ScalarFail (Nat × Leaf) × State :=
  match s.translate c va with
  | .invalid level => (.error (0x4D, level), s)
  | .refused => (.error (0x4E, 0), s)
  | .leaf l =>
    let pa := l.pa va
    if (s.refusal c l pa need).isSome then (.error (0x4E, 0), s)
    else if leafBit l.word 13 || (s.regionAt pa).isSome then (.error (0x0D, 0), s)
    else if (need.read || need.fetch) && s.poisoned (pa / 128 * 128) 128 then (.error (0x07, 0), s)
    else (.ok (pa, l), s.useLines l.word pa n)

/-- Whether a copy of the current thread concerns `n` bytes at a virtual address (R62, R178). -/
def State.copyAhead (s : State) (c : Ctx) (va n : Nat) (write : Bool) : Bool :=
  match s.translate c va with
  | .leaf l => s.copyMeets (l.pa va) n write
  | _ => false

/-- The pages' parts of a span: each part lies on one 4 KiB page. -/
def partsOf (va n : Nat) : List (Nat × Nat) :=
  if n = 0 then []
  else
    (List.range ((va + n - 1) / 4096 - va / 4096 + 1)).map (fun i =>
      let lo := max va ((va / 4096 + i) * 4096)
      let hi := min (va + n) ((va / 4096 + i + 1) * 4096)
      (lo, hi - lo))

end Sys2Proof.Machine
end

