-- ==== Sys2Proof/Machine/Operands.lean ====
section
/-!
DEFINITION. Element types, register groups, guards and lanes (R31, R34, R36, R37, R72 to R77), and what an entry may raise or
change while it runs.
-/
namespace Sys2Proof.Machine

/-! ## Types -/

/-- VT.type (R73). -/
def vtType (vt : BitVec 12) : Nat := (vt.extractLsb' 0 5).toNat

/-- VT.mtype as a type code: 0 means the register type, 0x1F means z8 (R73). -/
def vtMem (vt : BitVec 12) : Nat :=
  let m := (vt.extractLsb' 5 5).toNat
  if m = 0 then vtType vt else if m = 0x1F then 0 else m

/-- Whether VT.mtype is not 0. -/
def vtHasMem (vt : BitVec 12) : Bool := vt.extractLsb' 5 5 != 0

/-- The registers of a group: 1, 2, 4 or 8 (R73). -/
def vtGroup (vt : BitVec 12) : Nat := 2 ^ (vt.extractLsb' 10 2).toNat

/-- Width in bits of a type code in a register or, for the types that have none there, of one code (R74). -/
def typeWidth : Nat → Nat
  | 0x00 => 8
  | 0x01 => 16
  | 0x02 => 32
  | 0x03 => 64
  | 0x04 => 8
  | 0x05 => 16
  | 0x06 => 32
  | 0x07 => 64
  | 0x08 => 16
  | 0x09 => 16
  | 0x0A => 32
  | 0x0B => 64
  | 0x0C => 8
  | 0x0D => 4
  | 0x0E => 6
  | 0x0F => 8
  | 0x10 => 8
  | _ => 0

/-- z8 to s64 (R74). -/
def isInt (c : Nat) : Bool := c ≤ 0x07

/-- s8 to s64 (R74). -/
def isSigned (c : Nat) : Bool := 0x04 ≤ c && c ≤ 0x07

/-- f16, bf16, f32, f64 (R74). -/
def isFloat (c : Nat) : Bool := 0x08 ≤ c && c ≤ 0x0B

/-- b8 and b4 as register types (R74). -/
def isBlock (c : Nat) : Bool := c == 0x0C || c == 0x0D

/-- The types a register may hold (R74). -/
def isRegType (c : Nat) : Bool := c ≤ 0x0D

/-- Whether a memory type code is accepted beside a register type (R75). -/
def pairOk (type mtype : Nat) : Bool :=
  if isInt type then mtype == 0x1F || (1 ≤ mtype && mtype ≤ 0x07)
  else if isFloat type then (0x08 ≤ mtype && mtype ≤ 0x0B) || mtype == 0x0F || mtype == 0x10
  else if type = 0x0C then mtype == 0x0C || mtype == 0x0E
  else false

/-- Whether a value is accepted as a VT (R74, R75), for a VLEN. -/
def vtAccepted (vlen : Nat) (x : Word) : Bool :=
  let vt := x.extractLsb' 0 12
  let w := typeWidth (vtType vt)
  let m := (vt.extractLsb' 5 5).toNat
  x.toNat < 2 ^ 12 && isRegType (vtType vt) && (m == 0 || pairOk (vtType vt) m) && decide (vlen * vtGroup vt ≤ 2048 * w)

/-- VLMAX under an accepted VT (R74). -/
def vlmaxOf (vlen : Nat) (vt : BitVec 12) : Nat := vlen * vtGroup vt / typeWidth (vtType vt)

/-- VT without ILL. -/
def Thread.vt12 (t : Thread) : BitVec 12 := t.vt.extractLsb' 0 12

/-- Whether VT.ILL is set (R50, R73). -/
def Thread.ill (t : Thread) : Bool := t.vt.getLsbD 12

/-- VLMAX as mfs reads it (R50, R67). -/
def Thread.vlmax (t : Thread) : Nat := if t.ill then 0 else vlmaxOf t.vlen t.vt12

/-! ## Elements of register groups -/

/-- The register and bit at which element i of width w of the group at `base` begins (R76). -/
def elemAt (vlen base w i : Nat) : Nat × Nat := (base + i * w / vlen, i * w % vlen)

/-- Element i, as its bit pattern (R10, R76). -/
def Thread.elem (t : Thread) (base w i : Nat) : Nat :=
  let (r, o) := elemAt t.vlen base w i
  ((t.vread r).extractLsb' o w).toNat

/-- Whether a deferred error poisoned element i (R90, R157). -/
def Thread.elemBad (t : Thread) (base w i : Nat) : Bool :=
  let (r, o) := elemAt t.vlen base w i
  ((t.bad[r % 32]'(Nat.mod_lt _ (by decide))).extractLsb' o w) != 0

/-- Bits [o+w-1:o] of a register replaced. -/
def setField {n : Nat} (x : BitVec n) (o w v : Nat) : BitVec n :=
  (x &&& ~~~(BitVec.ofNat n ((2 ^ w - 1) <<< o))) ||| BitVec.ofNat n ((v % 2 ^ w) <<< o)

/-- Writes element i, which is then free of any deferred error (R10, R76). -/
def Thread.setElem (t : Thread) (base w i v : Nat) : Thread :=
  let (r, o) := elemAt t.vlen base w i
  let t' := t.vwrite r (setField (t.vread r) o w v)
  { t' with bad := t'.bad.set (r % 32) (setField (t'.bad[r % 32]'(Nat.mod_lt _ (by decide))) o w 0) (Nat.mod_lt _ (by decide)) }

/-- Poisons element i (R90, R261). -/
def Thread.poisonElem (t : Thread) (base w i : Nat) : Thread :=
  let (r, o) := elemAt t.vlen base w i
  { t with bad := t.bad.set (r % 32) (setField (t.bad[r % 32]'(Nat.mod_lt _ (by decide))) o w (2 ^ w - 1)) (Nat.mod_lt _ (by decide)) }

/-- The element groups (bit 8r + g) that hold elements lo..hi-1 of the group at `base` (R36). -/
def groupMask (lg base w lo hi : Nat) : BitVec 256 :=
  if hi ≤ lo ∨ lg = 0 then 0
  else
    let a := lo * w / 1024
    let b := (hi * w - 1) / 1024
    (List.range (b - a + 1)).foldl (fun m i =>
      let g := a + i
      m ||| BitVec.ofNat 256 (2 ^ (8 * ((base + g / lg) % 32) + g % lg))) 0

/-- The predicate segments (bit 64p + s) that hold bits lo..hi-1 of p (R37). -/
def segMask (p : BitVec 3) (lo hi : Nat) : BitVec 512 :=
  if hi ≤ lo ∨ p = 0 then 0
  else
    (List.range ((hi - 1) / 32 - lo / 32 + 1)).foldl (fun m i => m ||| BitVec.ofNat 512 (2 ^ (64 * p.toNat + lo / 32 + i))) 0

/-- The number of an element group in a register group of `span` registers (R36): bit 8r + g of a mask, counted through the group. -/
def groupNumber (lg span bit : Nat) : Nat := bit / 8 % max 1 span * lg + bit % 8

/-- The bits of a mask that satisfy a test. -/
def maskFilter {n : Nat} (m : BitVec n) (ok : Nat → Bool) : BitVec n :=
  (List.range n).foldl (fun x b => if m.getLsbD b && ok b then x ||| BitVec.ofNat n (2 ^ b) else x) 0

/-- The groups of a dispatched entry that are still empty (R36): those that it has not passed. -/
def Retire.empty (r : Retire) (lg : Nat) : BitVec 256 :=
  if r.reached = 0 then r.groups else maskFilter r.groups (fun b => decide (r.reached ≤ groupNumber lg r.span b))

/-- What an entry is at work on: what its dispatch left for its retirement, or what the last iteration of a frame's member did. -/
def Entry.work (e : Entry) : Option Retire :=
  match e.phase with
  | .done r => some r
  | .unstarted => e.running

/-- The groups that an entry has emptied and not yet refilled (R36): one past its dispatch, or a frame's member in its last iteration. -/
def Entry.empty (e : Entry) (lg : Nat) : BitVec 256 :=
  match e.work with
  | some r => r.empty lg
  | none => 0

/-- Whether an entry is still processing element groups (R18, R36, R45). -/
def Entry.isRunning (e : Entry) : Bool :=
  match e.work with
  | some r => decide (r.reached < r.limit)
  | none => false

/-- The groups that entries past their dispatch have emptied and not yet refilled (R36). -/
def Thread.emptyGroups (t : Thread) : BitVec 256 := t.queue.foldl (fun m e => m ||| e.empty t.lg) 0

/-- One more element group is processed (R18, R36), where one is left. -/
def Retire.fill (r : Retire) : Retire := { r with reached := if r.reached < r.limit then r.reached + 1 else r.reached }

/-- Registers of a register group of elements of width `a`, for elements of width `b` (R118): n × b ÷ a, at least one. -/
def convertedGroup (n a b : Nat) : Nat := if a = 0 then 1 else max 1 (n * b / a)

/-- The registers of the destination group of a queued word under a VT, and the element group of it that belongs to element i (R36, R78,
R118, R134 to R142). Where an instruction has no group of its own the group of the VT stands for it. -/
def destGroup (w : BitVec 32) (vt : BitVec 12) (i : Nat) : Nat × Nat :=
  let ty := vtType vt
  let width := typeWidth ty
  let span := if ty = 0x0D then 64 else 32
  let plain := fun (b : Nat) => (convertedGroup (vtGroup vt) width b, i * b / 1024)
  match majorOf w, fn4Of w with
  | 0x2E, 0x0 => plain (typeWidth (w.extractLsb' 11 5).toNat)
  | 0x2E, 0x1 => plain (typeWidth (w.extractLsb' 11 5).toNat)
  | 0x2E, 0x2 => plain (typeWidth (w.extractLsb' 11 5).toNat)
  | 0x34, 0x0 => (4, i / span)
  | 0x34, 0x1 => (1, i / 32 / 2)
  | 0x34, 0x2 => if isBlock ty then (4, i / span) else (1, i / 32 / 2)
  | 0x34, 0x3 => plain 32
  | 0x34, 0x5 => plain 32
  | 0x34, 0x6 => (1, i / span * 16 / 1024)
  | _, _ => plain width

/-- The predicate segments that an entry has emptied and not yet refilled (R37): those with a bit of an element that it has not passed. -/
def Entry.emptySegs (e : Entry) : BitVec 512 :=
  match e.work with
  | some r => if e.isRunning then maskFilter r.segs (fun b => decide (r.reached ≤ (destGroup e.word e.vt (32 * (b % 64) + 31)).2)) else 0
  | none => 0

/-- What an entry has still to read or write (R37, R40): for each element group that it has not passed, the groups and the segments. -/
def Entry.ahead (e : Entry) : List (BitVec 256 × BitVec 512) :=
  match e.work with
  | some r => r.needs.drop r.reached
  | none => []

/-- Two sets of groups and segments have one in common. -/
def sharesAny (x y : BitVec 256 × BitVec 512) : Bool := x.1 &&& y.1 != 0 || x.2 &&& y.2 != 0

/-- The groups and segments that an entry writes at the element group it has reached (R36, R37). -/
def Entry.writesNow (e : Entry) (lg : Nat) : BitVec 256 × BitVec 512 :=
  match e.work with
  | some r =>
    (maskFilter r.groups (fun b => groupNumber lg r.span b == r.reached),
     maskFilter r.segs (fun b => decide ((destGroup e.word e.vt (32 * (b % 64))).2 ≤ r.reached ∧ r.reached ≤ (destGroup e.word e.vt (32 * (b % 64) + 31)).2)))
  | none => (0, 0)

/-- The entries whose elements come before those of the entry at position `n` (R40, R45): the older ones, but of its own frame the members
that ran, or run, before its last iteration. -/
def Thread.olderThan (t : Thread) (n : Nat) : List Entry :=
  let own := ((t.queue.take n).reverse.takeWhile (fun e => e.frame)).length
  match t.queue[n]?, t.queue[n - own - 1]? with
  | some e, some f =>
    if e.frame && isFrame f.word && own < n then
      let pos := bitsOf f.opb.toNat 35 32
      let members := (t.queue.drop (n - own)).take (frameCount f.word)
      t.queue.take (n - own) ++ (if own < pos then members.drop pos ++ members.take own else (members.take own).drop pos)
    else t.queue.take n
  | _, _ => t.queue.take n

/-- Whether the entry at position `n` may process its next element group (R37, R39, R40): nothing that it reads there is still empty by an entry
that comes before it, and nothing that it writes there is still to be read or written by one. -/
def Thread.mayFill (t : Thread) (n : Nat) : Bool :=
  match t.queue[n]? with
  | none => false
  | some e =>
    (t.olderThan n).all (fun o =>
      !(e.ahead.take 1).any (sharesAny (o.empty t.lg, o.emptySegs)) && !o.ahead.any (sharesAny (e.writesNow t.lg)))

/-- The physical lane, 0..15, that holds the first bit of element i of width w (R76). -/
def State.laneOf (s : State) (w i : Nat) : Nat :=
  let t := s.cur
  let lanes := t.laneSet.flatMap (fun g => [2 * g, 2 * g + 1])
  if t.vlen = 0 ∨ lanes.isEmpty then 0 else lanes.getD (i * w % t.vlen / 64 % lanes.length) 0

/-- The guard bit of element i after gneg (R10). -/
def guardBit (t : Thread) (guard : BitVec 3) (gneg : Bool) (i : Nat) : Bool := (t.pread guard).getLsbD i != gneg

/-- The all-false guard (R34). -/
def allFalse (guard : BitVec 3) (gneg : Bool) : Bool := guard == 0 && gneg

/-! ## An entry while it runs -/

/-- A first failing element (R83 to R86): its index, cause, subcode, TRA, and the lane that TRC reports. -/
structure Fail where
  elem : Nat
  cause : BitVec 8
  sub : Nat
  addr : Nat
  lane : Nat
  deriving DecidableEq, Repr

/-- A trap that an entry's own dispatch check takes (R48, check 7): cause, EADDR, EINFO. -/
structure CheckTrap where
  cause : BitVec 8
  addr : Word
  info : Word
  deriving DecidableEq, Repr

/-- What running an entry over the elements below some length has done so far: the machine, the first failing element, a check
that traps, whether the entry must wait (and whether what it has done so far stands: a ring.hdr that skips, R241), the flags raised and for each its lowest attributed index (R103, R104), the DIRTY bits
and element groups written (R307, R334), ROWP, a queued VL writer's result, what is deferred to its retirement. `ended` is the step at
which an input ran out (R181, R192). `grain` is set where the elements are those of records and not of the VT (R174, R192): their width,
and whether they count in whole blocks. -/
structure Acc where
  s : State
  fail : Option Fail
  check : Option CheckTrap
  wait : Bool
  again : Bool
  flags : BitVec 5
  fx : Vector (Option Nat) 5
  dirty : Word
  wrote : BitVec 256
  rowp : Option Nat
  vlOut : Option Nat
  deferred : Option Deferred
  hand : HandOff
  ended : Option Nat
  grain : Option (Nat × Bool)
  deriving DecidableEq, Repr

/-- An entry about to run. -/
def Acc.start (s : State) : Acc :=
  { s := s, fail := none, check := none, wait := false, again := false, flags := 0, fx := Vector.replicate 5 none, dirty := 0, wrote := 0,
    rowp := none, vlOut := none, deferred := none, hand := .nothing, ended := none, grain := none }

/-- Whether the run goes on. -/
def Acc.ok (a : Acc) : Bool := a.fail.isNone && a.check.isNone && !a.wait

/-- Ends the run at a failing element. -/
def Acc.failAt (a : Acc) (f : Fail) : Acc := if a.ok then { a with fail := some f } else a

/-- Element i of a register operand of width w fails for a cause without an address; the lane is that of the element. -/
def Acc.failElem (a : Acc) (w i : Nat) (cause : BitVec 8) (sub : Nat) (addr : Nat := 0) : Acc :=
  a.failAt { elem := i, cause := cause, sub := sub, addr := addr, lane := a.s.laneOf w i }

/-- Takes a dispatch check's trap. -/
def Acc.trap (a : Acc) (cause : BitVec 8) (addr info : Word) : Acc :=
  if a.ok then { a with check := some { cause := cause, addr := addr, info := info } } else a

/-- Acts on the current thread. -/
def Acc.mod (a : Acc) (f : Thread → Thread) : Acc := { a with s := a.s.mod f }

/-- Runs `f` for n indices from lo, in order, while the run goes on. -/
def Acc.loop (f : Nat → Acc → Acc) : Nat → Nat → Acc → Acc
  | _, 0, a => a
  | lo, n + 1, a => if a.ok then Acc.loop f (lo + 1) n (f lo a) else a

/-- Writes an element of a vector register group (R10). -/
def Acc.setElem (a : Acc) (base w i v : Nat) : Acc :=
  let r := (elemAt a.s.cur.vlen base w i).1 % 32
  { a with s := a.s.mod (fun t => t.setElem base w i v), dirty := a.dirty ||| BitVec.ofNat 64 (2 ^ r)
           wrote := a.wrote ||| groupMask a.s.cur.lg base w i (i + 1) }

/-- Writes one bit of a predicate register (R31). -/
def Acc.setPred (a : Acc) (p : BitVec 3) (i : Nat) (b : Bool) : Acc :=
  if p = 0 then a
  else { a with s := a.s.mod (fun t => t.pwrite p (setField (t.pread p) i 1 (if b then 1 else 0)))
                dirty := a.dirty ||| BitVec.ofNat 64 (2 ^ (32 + p.toNat)) }

/-- Writes a scalar register. -/
def Acc.setG (a : Acc) (r : BitVec 5) (x : Word) : Acc := a.mod (fun t => t.gwrite r x)

end Sys2Proof.Machine
end

