-- ==== Sys2Proof/Machine/Flags.lean ====
section
/-!
DEFINITION. The floating-point flags: raising them element by element, the enabled ones failing the element, and what an entry
writes to FFLAGS and the FX registers (R68, R103, R104).
-/
namespace Sys2Proof.Machine

/-- FFLAGS bit NV (R68). -/
def flagNV : BitVec 5 := 1
/-- FFLAGS bit DZ (R68). -/
def flagDZ : BitVec 5 := 2
/-- FFLAGS bit OF (R68). -/
def flagOF : BitVec 5 := 4
/-- FFLAGS bit UF (R68). -/
def flagUF : BitVec 5 := 8
/-- FFLAGS bit NX (R68). -/
def flagNX : BitVec 5 := 16

/-- The lowest set flag bit (R85); 5 when none is set. -/
def lowestFlag (f : BitVec 5) : Nat := ((List.range 5).find? (fun i => f.getLsbD i)).getD 5

/-- The lower of an index already attributed and a new one. -/
def lowerIndex (old : Option Nat) (i : Nat) : Option Nat := match old with | none => some i | some j => some (min i j)

/-- Attributes flags to an index without regard to FEN (R103, R104). -/
def Acc.note (a : Acc) (i : Nat) (f : BitVec 5) : Acc :=
  { a with flags := a.flags ||| f, fx := a.fx.mapIdx (fun b o => if f.getLsbD b then lowerIndex o i else o) }

/-- Raises flags at element i (R103): where one of them is enabled, the element fails with cause 0x06 and its lowest enabled flag
as subcode; otherwise they are attributed to it. `w` is the width of the element whose lane TRC reports. -/
def Acc.raise (a : Acc) (w i : Nat) (f : BitVec 5) : Acc :=
  let on := f &&& a.s.cur.fen
  if on ≠ 0 then a.failElem w i 0x06 (lowestFlag on) else a.note i f

/-- The five FX registers that a flag-capable entry writes (R104): hit and the lowest attributed index, or 0. -/
def fxOf (fx : Vector (Option Nat) 5) : Vector (BitVec 17) 5 :=
  fx.map (fun o => match o with | none => 0 | some i => BitVec.ofNat 17 (65536 + i % 65536))

end Sys2Proof.Machine
end

