-- ==== Sys2Proof/Machine/Float.lean ====
section
/-!
DEFINITION. Floating-point arithmetic (R2, R10, R101, R102, R107, R109, R119): a value is decoded to an exact number, the exact
result is formed, and one rounding narrows it.
-/
namespace Sys2Proof.Machine

/-- A format: exponent bits, fraction bits, whether it keeps infinities (e4m3 does not: its top code is its only NaN). -/
structure Fmt where
  eb : Nat
  mb : Nat
  infs : Bool
  deriving DecidableEq, Repr

/-- The format of a floating-point type code (R2, R74). -/
def fmtOf : Nat → Fmt
  | 0x08 => { eb := 5, mb := 10, infs := true }
  | 0x09 => { eb := 8, mb := 7, infs := true }
  | 0x0A => { eb := 8, mb := 23, infs := true }
  | 0x0B => { eb := 11, mb := 52, infs := true }
  | 0x0F => { eb := 4, mb := 3, infs := false }
  | _ => { eb := 5, mb := 2, infs := true }

/-- Exponent bias. -/
def Fmt.bias (f : Fmt) : Nat := 2 ^ (f.eb - 1) - 1

/-- Exponent of the least normal number. -/
def Fmt.emin (f : Fmt) : Int := 1 - (f.bias : Int)

/-- Exponent of the greatest finite number. -/
def Fmt.emax (f : Fmt) : Int := if f.infs then (f.bias : Int) else (f.bias : Int) + 1

/-- The greatest finite significand, mb + 1 bits. -/
def Fmt.maxSig (f : Fmt) : Nat := if f.infs then 2 ^ (f.mb + 1) - 1 else 2 ^ (f.mb + 1) - 2

/-- The bits of the greatest finite magnitude. -/
def Fmt.maxBits (f : Fmt) : Nat := if f.infs then 2 ^ (f.eb + f.mb) - 2 ^ f.mb - 1 else 2 ^ (f.eb + f.mb) - 2

/-- The bits of infinity, or of what stands for it in e4m3 (R119). -/
def Fmt.infBits (f : Fmt) : Nat := if f.infs then 2 ^ (f.eb + f.mb) - 2 ^ f.mb else 2 ^ (f.eb + f.mb) - 1

/-- The canonical quiet NaN (R2, R119). -/
def Fmt.nan (f : Fmt) : Nat := if f.infs then 2 ^ (f.eb + f.mb) - 2 ^ f.mb + 2 ^ (f.mb - 1) else 2 ^ (f.eb + f.mb) - 1

/-- The sign bit. -/
def Fmt.signBit (f : Fmt) : Nat := 2 ^ (f.eb + f.mb)

/-- A value: a NaN (signalling or not), an infinity, or (-1)^neg times m times 2^e; a zero has m = 0. -/
inductive FVal where
  | nan (signalling : Bool)
  | inf (neg : Bool)
  | num (neg : Bool) (m : Nat) (e : Int)
  deriving DecidableEq, Repr

/-- Reads a bit pattern. -/
def decodeF (f : Fmt) (x : Nat) : FVal :=
  let neg := x / f.signBit % 2 == 1
  let ex := x / 2 ^ f.mb % 2 ^ f.eb
  let fr := x % 2 ^ f.mb
  if f.infs ∧ ex = 2 ^ f.eb - 1 then (if fr = 0 then .inf neg else .nan (fr < 2 ^ (f.mb - 1)))
  else if !f.infs ∧ x % f.signBit = f.signBit - 1 then .nan false
  else if ex = 0 then .num neg fr (f.emin - f.mb)
  else .num neg (fr + 2 ^ f.mb) ((ex : Int) - f.bias - f.mb)

/-- Whether a value is NaN. -/
def FVal.isNan : FVal → Bool
  | .nan _ => true
  | _ => false

/-- NV for a signalling NaN operand (R2). -/
def FVal.sig : FVal → BitVec 5
  | .nan true => flagNV
  | _ => 0

/-- A result and the flags it raises. -/
abbrev FRes := Nat × BitVec 5

/-- Rounding modes: 0 RNE, 1 RTZ, 2 RDN, 3 RUP, 4 RMM (R68). -/
abbrev Rm := Nat

/-- Whether rounding moves away from zero: `rem` of `2 ^ k` units dropped, `sticky` when something non-zero lies below that. -/
def roundsUp (rm : Rm) (neg odd : Bool) (rem k : Nat) (sticky : Bool) : Bool :=
  let inexact := rem ≠ 0 || sticky
  let half := 2 ^ (k - 1)
  match rm with
  | 0 => k ≠ 0 && (decide (rem > half) || (rem == half && (sticky || odd)))
  | 1 => false
  | 2 => neg && inexact
  | 3 => !neg && inexact
  | _ => k ≠ 0 && decide (rem ≥ half)

/-- A magnitude m times 2^e (plus something below one unit of it when sticky) cut to units of 2^q, q at least e. -/
def cutTo (rm : Rm) (neg : Bool) (m : Nat) (e q : Int) (sticky : Bool) : Nat × Bool :=
  let k := (q - e).toNat
  let base := m / 2 ^ k
  let rem := m % 2 ^ k
  (if roundsUp rm neg (base % 2 == 1) rem k sticky then base + 1 else base, rem ≠ 0 || sticky)

/-- The result of a finite overflow (R2, R119): infinity or the greatest finite magnitude by the mode; under `sat` always the
latter. -/
def overflowBits (f : Fmt) (rm : Rm) (neg sat : Bool) : Nat :=
  let toMax := sat || rm == 1 || (rm == 2 && !neg) || (rm == 3 && neg)
  (if neg then f.signBit else 0) + (if toMax then f.maxBits else f.infBits) -
    (if neg ∧ !toMax ∧ !f.infs then f.signBit else 0)

/-- The procedure fl (R10): rounds the exact value (-1)^neg × m × 2^e to the format under a mode, with OF, UF (tiny after rounding
and inexact) and NX. `sticky` says that the exact magnitude lies strictly between m and m + 1 units; m then has more bits than
the format keeps. -/
def roundTo (f : Fmt) (rm : Rm) (neg : Bool) (m : Nat) (e : Int) (sticky : Bool := false) (sat : Bool := false) : FRes :=
  let sign := if neg then f.signBit else 0
  if m = 0 then (sign, 0)
  else
    -- at least f.mb + 3 bits, so that nothing is cut to a coarser unit than the rounding allows
    let k := f.mb + 3
    let m := m * 2 ^ k
    let e := e - k
    let top : Int := e + (Nat.log2 m : Int)
    let q := max (top - f.mb) (f.emin - f.mb)
    -- a value far below the least subnormal is cut in units of it
    let (sig, inexact) := cutTo rm neg m e (max q e) sticky
    let (sigU, _) := cutTo rm neg m e (max (top - f.mb) e) sticky
    let tiny := decide (top < f.emin) && !(decide (top = f.emin - 1) && decide (2 ^ (f.mb + 1) ≤ sigU))
    let (sig, q) := if 2 ^ (f.mb + 1) ≤ sig then (sig / 2, q + 1) else (sig, q)
    let overflows := decide (q + f.mb > f.emax) || (decide (q + f.mb = f.emax) && decide (f.maxSig < sig))
    if overflows then (overflowBits f rm neg sat, flagOF ||| flagNX)
    else
      let flags := (if inexact then flagNX else 0) ||| (if inexact && tiny then flagUF else 0)
      let bits := if sig < 2 ^ f.mb then sig else (q + f.mb + f.bias).toNat * 2 ^ f.mb + (sig - 2 ^ f.mb)
      -- e4m3 has no negative NaN code, and keeps the sign of every finite result (R119)
      (sign + bits, flags)

/-- A zero of a sign. -/
def zeroBits (f : Fmt) (neg : Bool) : Nat := if neg then f.signBit else 0

/-- An infinity of a sign. -/
def infOf (f : Fmt) (neg : Bool) : Nat := (if neg then f.signBit else 0) + f.infBits

/-- The exact sum of two finite values as sign, magnitude, exponent; the sign of an exact zero is negative only when both are
negative zeros, or under RDN when the signs differ (IEEE 754-2019). -/
def addExact (rm : Rm) (n1 : Bool) (m1 : Nat) (e1 : Int) (n2 : Bool) (m2 : Nat) (e2 : Int) : Bool × Nat × Int :=
  let e := min e1 e2
  let a : Int := (m1 * 2 ^ (e1 - e).toNat : Nat)
  let b : Int := (m2 * 2 ^ (e2 - e).toNat : Nat)
  let r := (if n1 then -a else a) + (if n2 then -b else b)
  if r = 0 then (if n1 = n2 then n1 else rm == 2, 0, e) else (decide (r < 0), r.natAbs, e)

/-- a + b (R107). -/
def fAddV (f : Fmt) (rm : Rm) (a b : FVal) : FRes :=
  match a, b with
  | .nan x, y => (f.nan, FVal.sig (.nan x) ||| y.sig)
  | x, .nan y => (f.nan, x.sig ||| FVal.sig (.nan y))
  | .inf n, .inf m => if n = m then (infOf f n, 0) else (f.nan, flagNV)
  | .inf n, .num _ _ _ => (infOf f n, 0)
  | .num _ _ _, .inf n => (infOf f n, 0)
  | .num n1 m1 e1, .num n2 m2 e2 =>
    let (n, m, e) := addExact rm n1 m1 e1 n2 m2 e2
    roundTo f rm n m e

/-- The value with its sign inverted. -/
def FVal.negate : FVal → FVal
  | .nan s => .nan s
  | .inf n => .inf (!n)
  | .num n m e => .num (!n) m e

/-- a × b (R107). -/
def fMulV (f : Fmt) (rm : Rm) (a b : FVal) : FRes :=
  match a, b with
  | .nan x, y => (f.nan, FVal.sig (.nan x) ||| y.sig)
  | x, .nan y => (f.nan, x.sig ||| FVal.sig (.nan y))
  | .inf n, .inf m => (infOf f (n != m), 0)
  | .inf n, .num m k _ => if k = 0 then (f.nan, flagNV) else (infOf f (n != m), 0)
  | .num m k _, .inf n => if k = 0 then (f.nan, flagNV) else (infOf f (n != m), 0)
  | .num n1 m1 e1, .num n2 m2 e2 => roundTo f rm (n1 != n2) (m1 * m2) (e1 + e2)

/-- c + a × b with one rounding (R107); ∞ × 0 raises NV whatever c holds. -/
def fMacV (f : Fmt) (rm : Rm) (c a b : FVal) : FRes :=
  let sigs := c.sig ||| a.sig ||| b.sig
  let invalid := match a, b with
    | .inf _, .num _ 0 _ => true
    | .num _ 0 _, .inf _ => true
    | _, _ => false
  if invalid then (f.nan, sigs ||| flagNV)
  else if c.isNan || a.isNan || b.isNan then (f.nan, sigs)
  else
    match a, b, c with
    | .num n1 m1 e1, .num n2 m2 e2, .num n3 m3 e3 =>
      let (n, m, e) := addExact rm (n1 != n2) (m1 * m2) (e1 + e2) n3 m3 e3
      roundTo f rm n m e
    | .num _ _ _, .num _ _ _, .inf n => (infOf f n, 0)
    | x, y, z =>
      let np := (match x with | .inf n => n | .num n _ _ => n | .nan _ => false) !=
                (match y with | .inf n => n | .num n _ _ => n | .nan _ => false)
      match z with
      | .inf n => if n = np then (infOf f n, 0) else (f.nan, flagNV)
      | _ => (infOf f np, 0)

/-- a ÷ b (R107): DZ for a finite non-zero dividend over zero, NV for 0/0 and ∞/∞. -/
def fDivV (f : Fmt) (rm : Rm) (a b : FVal) : FRes :=
  match a, b with
  | .nan x, y => (f.nan, FVal.sig (.nan x) ||| y.sig)
  | x, .nan y => (f.nan, x.sig ||| FVal.sig (.nan y))
  | .inf _, .inf _ => (f.nan, flagNV)
  | .inf n, .num m _ _ => (infOf f (n != m), 0)
  | .num n _ _, .inf m => (zeroBits f (n != m), 0)
  | .num n1 m1 e1, .num n2 m2 e2 =>
    if m2 = 0 then (if m1 = 0 then (f.nan, flagNV) else (infOf f (n1 != n2), flagDZ))
    else if m1 = 0 then (zeroBits f (n1 != n2), 0)
    else
      let k := 2 * f.mb + 10
      let q := m1 * 2 ^ k / m2
      roundTo f rm (n1 != n2) q (e1 - e2 - k) (m1 * 2 ^ k % m2 ≠ 0)

/-- The bits of an integer square root, one by one from bit `k - 1` down. -/
def isqrtFrom (x : Nat) : Nat → Nat → Nat
  | 0, r => r
  | k + 1, r => let c := r + 2 ^ k; isqrtFrom x k (if c * c ≤ x then c else r)

/-- Integer square root. -/
def isqrt (x : Nat) : Nat := isqrtFrom x (Nat.log2 x / 2 + 1) 0

/-- Square root, correctly rounded (R109). -/
def fSqrtV (f : Fmt) (rm : Rm) (a : FVal) : FRes :=
  match a with
  | .nan s => (f.nan, FVal.sig (.nan s))
  | .inf true => (f.nan, flagNV)
  | .inf false => (infOf f false, 0)
  | .num n m e =>
    if m = 0 then (zeroBits f n, 0)
    else if n then (f.nan, flagNV)
    else
      let k : Nat := 2 * f.mb + 10 + ((e % 2).toNat)
      let x := m * 2 ^ k
      let r := isqrt x
      roundTo f rm false r ((e - k) / 2) (r * r ≠ x)

/-- An order of values, NaN apart, in which -0 lies below +0: -1, 0 or 1. -/
def fOrder (zeroSigns : Bool) (a b : FVal) : Int :=
  let neg := fun x => match x with | FVal.inf n => n | .num n _ _ => n | .nan _ => false
  match a, b with
  | .num n1 0 _, .num n2 0 _ => if zeroSigns ∧ n1 ≠ n2 then (if n1 then -1 else 1) else 0
  | .inf n, .inf m => if n = m then 0 else if n then -1 else 1
  | .inf n, _ => if n then -1 else 1
  | _, .inf n => if n then 1 else -1
  | .num n1 m1 e1, .num n2 m2 e2 =>
    let e := min e1 e2
    let x : Int := (m1 * 2 ^ (e1 - e).toNat : Nat)
    let y : Int := (m2 * 2 ^ (e2 - e).toNat : Nat)
    let x := if n1 then -x else x
    let y := if n2 then -y else y
    if x < y then -1 else if x = y then 0 else 1
  | x, y => if neg x = neg y then 0 else if neg x then -1 else 1

/-- minimumNumber and maximumNumber (R107) of bit patterns. -/
def fPick (f : Fmt) (takeMin : Bool) (x y : Nat) : FRes :=
  let a := decodeF f x
  let b := decodeF f y
  let flags := a.sig ||| b.sig
  if a.isNan && b.isNan then (f.nan, flags)
  else if a.isNan then (y, flags)
  else if b.isNan then (x, flags)
  else
    let o := fOrder true a b
    (if (takeMin ∧ o ≤ 0) ∨ (!takeMin ∧ 0 ≤ o) then x else y, flags)

/-- a rounded to an integral value in its own format (R109). -/
def fRintV (f : Fmt) (rm : Rm) (x : Nat) : FRes :=
  match decodeF f x with
  | .nan s => (f.nan, FVal.sig (.nan s))
  | .inf _ => (x, 0)
  | .num n m e =>
    if 0 ≤ e ∨ m = 0 then (x, 0)
    else
      let (r, inexact) := cutTo rm n m e 0 false
      if inexact then ((roundTo f rm n r 0).1, flagNX) else (x, 0)

/-- fl(a × 2^k) (R109). -/
def fScaleV (f : Fmt) (rm : Rm) (x : Nat) (k : Int) : FRes :=
  match decodeF f x with
  | .nan s => (f.nan, FVal.sig (.nan s))
  | .inf _ => (x, 0)
  | .num n m e =>
    -- beyond these scales every non-zero value overflows or vanishes alike
    let k := max (-8192) (min 8192 k)
    roundTo f rm n m (e + k)

/-! ## Powers and logarithms of two, correctly rounded -/

/-- Fraction bits of the fixed-point numbers below. A result that is no power of two is irrational, so it meets no rounding
boundary; 400 bits settle on which side of every boundary of the four formats it lies (DEDUCED, log entry 15). -/
def fxBits : Nat := 400

/-- 2 × (z + z³/3 + z⁵/5 + …) in fixed point: z is the ratio as `fxBits` fraction bits, `t` its running odd power. -/
def atanhSum (zz : Nat) : Nat → Nat → Nat → Nat → Nat
  | 0, _, _, acc => 2 * acc
  | n + 1, k, t, acc => atanhSum zz n (k + 2) (t * zz / 2 ^ fxBits) (acc + t / k)

/-- ln((1 + z)/(1 - z)) for a ratio num/den of at most 1/3, in fixed point. -/
def lnRatio (num den : Nat) : Nat :=
  let z := num * 2 ^ fxBits / den
  atanhSum (z * z / 2 ^ fxBits) 140 1 z 0

/-- ln 2 in fixed point. -/
def ln2Fixed : Nat := lnRatio 1 3

/-- 1 + x + x²/2! + … in fixed point. -/
def expSum (x : Nat) : Nat → Nat → Nat → Nat → Nat
  | 0, _, _, acc => acc
  | n + 1, k, t, acc => let t' := t * x / 2 ^ fxBits / k; expSum x n (k + 1) t' (acc + t')

/-- 2^a, correctly rounded (R109). -/
def fExp2V (f : Fmt) (rm : Rm) (x : Nat) : FRes :=
  match decodeF f x with
  | .nan s => (f.nan, FVal.sig (.nan s))
  | .inf true => (0, 0)
  | .inf false => (infOf f false, 0)
  | .num n m e =>
    if m = 0 then roundTo f rm false 1 0
    else
      -- the integer part, rounded down, and the fraction, of a
      let whole : Nat := if 0 ≤ e then m * 2 ^ (min e 4096).toNat else m / 2 ^ (-e).toNat
      let frac : Nat := if 0 ≤ e then 0 else m % 2 ^ (-e).toNat
      let fden : Nat := 2 ^ (-e).toNat
      let ip : Int := if n then -(whole : Int) - (if frac = 0 then 0 else 1) else whole
      let fr : Nat := if frac = 0 then 0 else if n then fden - frac else frac
      let ip := max (-8192) (min 8192 ip)
      if fr = 0 then roundTo f rm false 1 ip
      else if whole = 0 ∧ frac * 2 ^ 200 < fden then
        -- |a| < 2^-200: just above or just below 1
        if n then roundTo f rm false (2 ^ 256 - 1) (-256) true else roundTo f rm false (2 ^ 256) (-256) true
      else
        let arg := fr * ln2Fixed / fden
        let y := expSum arg 100 1 (2 ^ fxBits) (2 ^ fxBits)
        roundTo f rm false (y / 2 ^ 40) (ip - (fxBits - 40 : Nat)) true

/-- log2 a, correctly rounded (R109). -/
def fLog2V (f : Fmt) (rm : Rm) (x : Nat) : FRes :=
  match decodeF f x with
  | .nan s => (f.nan, FVal.sig (.nan s))
  | .inf true => (f.nan, flagNV)
  | .inf false => (infOf f false, 0)
  | .num n m e =>
    if m = 0 then (infOf f true, flagDZ)
    else if n then (f.nan, flagNV)
    else
      let l := Nat.log2 m
      let k : Int := e + l
      -- a = 2^k × (m / 2^l), the ratio in [1, 2)
      if m = 2 ^ l then
        if k = 0 then (0, 0) else roundTo f rm (decide (k < 0)) k.natAbs 0
      else
        let ln := lnRatio (m - 2 ^ l) (m + 2 ^ l)
        let frac := ln * 2 ^ fxBits / ln2Fixed
        let v : Int := k * (2 ^ fxBits : Nat) + frac
        -- the last 40 bits are not trusted; a negative value's magnitude is cut downward too
        let mag := v.natAbs / 2 ^ 40
        roundTo f rm (decide (v < 0)) mag (-(fxBits - 40 : Nat)) true

/-! ## Conversions -/

/-- An integer to a floating-point format (R119). -/
def intToF (f : Fmt) (rm : Rm) (sat : Bool) (x : Int) : FRes :=
  if x = 0 then (0, 0) else roundTo f rm (decide (x < 0)) x.natAbs 0 false sat

/-- The ends of an integer type's range. -/
def intRange (signed : Bool) (w : Nat) : Int × Int :=
  if signed then (-(2 ^ (w - 1) : Nat), (2 ^ (w - 1) : Nat) - 1) else (0, (2 ^ w : Nat) - 1)

/-- Clamps to a range. -/
def clampTo (r : Int × Int) (x : Int) : Int := max r.1 (min r.2 x)

/-- A floating-point value to an integer type, as its w-bit pattern (R119). -/
def fToInt (rm : Rm) (signed : Bool) (w : Nat) (v : FVal) : FRes :=
  let r := intRange signed w
  match v with
  | .nan _ => (0, flagNV)
  | .inf n => (wrapTo w (if n then r.1 else r.2), flagNV)
  | .num n m e =>
    -- a magnitude of 2^80 or more lies outside every range
    let (q, inexact) := if 0 ≤ e then (m * 2 ^ (min e 80).toNat, false) else cutTo rm n m e 0 false
    let i : Int := if n then -(q : Int) else q
    if i < r.1 ∨ r.2 < i then (wrapTo w (clampTo r i), flagNV) else (wrapTo w i, if inexact then flagNX else 0)

/-- A floating-point format to another, e4m3 and e5m2 included, at either end (R75, R119). -/
def fToF (src dst : Fmt) (rm : Rm) (sat : Bool) (x : Nat) : FRes :=
  match decodeF src x with
  | .nan s => (dst.nan, if src.mb ≤ 3 then 0 else FVal.sig (.nan s))
  | .inf n =>
    if dst.infs then (infOf dst n, 0)
    else if sat then ((if n then dst.signBit else 0) + dst.maxBits, 0)
    else (dst.nan, flagNV)
  | .num n m e => roundTo dst rm n m e false sat

/-- Converts a value of one type code to another under a rounding mode (R119). Types are z8 to s64, f16 to f64, e4m3, e5m2. Between an
integer type and e4m3 or e5m2, which R118 accepts and no row of R119 describes, it converts as between an integer type and f16: DESIGN
CHOICE (log entry 61). -/
def convertElem (src dst : Nat) (rm : Rm) (sat : Bool) (x : Nat) : FRes :=
  let ws := typeWidth src
  let wd := typeWidth dst
  let xi : Int := if isSigned src then signedOf ws x else ((x % 2 ^ ws : Nat) : Int)
  if isInt src then
    if isInt dst then (wrapTo wd (if sat then clampTo (intRange (isSigned dst) wd) xi else xi), 0)
    else intToF (fmtOf dst) rm sat xi
  else if isInt dst then fToInt rm (isSigned dst) wd (decodeF (fmtOf src) x)
  else fToF (fmtOf src) (fmtOf dst) rm sat x

end Sys2Proof.Machine
end

