-- ==== Sys2Proof/Machine/Engine.lean ====
section
/-!
DEFINITION. The vector queue: what each queued instruction declares (its checks, operands, pipes and effect), the push with its
checks (R17, R39 to R48), the trim rule (R83 to R93), retirement (R90, R91, R103, R104) and the repeat frame (R44, R45, R100).
-/
namespace Sys2Proof.Machine

/-- The pipe kinds of a core (R19, R42). -/
inductive Pipe where
  | m
  | l
  | s
  | p
  | x
  deriving DecidableEq, Repr

/-- How an achieved length follows from the first failing element (R84, R92). -/
inductive TrimKind where
  | element
  | block32
  | tile
  deriving DecidableEq, Repr

/-- An entry as its meaning sees it: the word with a frame's steps applied, type, start and length, captured operands. -/
structure View where
  word : BitVec 32
  pc : Word
  seq : BitVec 16
  vt : BitVec 12
  es : Nat
  vl : Nat
  trl : Nat
  opa : Word
  opb : Word
  deriving Repr

/-- A vector source that a strict bit may cover (R39): its strict bit, its number in EINFO.opnd, its first register, and the element
groups that hold its elements in ES..VL-1. -/
structure VSource where
  strict : Bool
  opnd : Nat
  base : Nat
  groups : BitVec 256
  deriving Repr

/-- A queued instruction, declared once. `typeOk` is check 5 of R48 on the full VT; `align` names each register group (register,
size, EINFO.opnd) for 0x48; `tile` asks for the TRL check; `scalars` are the captured operands in the order opa, opb; `pipes` the
pipes it needs; `steps` which of vd, va, vb a frame steps (R45); `ownLength` means that neither VL nor R79 concerns it; `kind` how
it trims; `sources` its vector sources; `dst` and `segs` what its dispatch empties; `trims` is false for an entry that is never
trimmed (it traps instead); `early` says that its trim point is its dispatch (R89); `flagged` whether it writes the FX registers; `below` is true where positions below ES are carried out all
the same (R79); `empty` what happens when there is nothing to do; `run` its checks and its effect over the elements
below a length. -/
structure Desc where
  typeOk : BitVec 13 → Bool := fun _ => true
  align : BitVec 32 → BitVec 12 → List (Nat × Nat × Nat) := fun _ _ => []
  tile : Bool := false
  scalars : List Source := []
  pipes : List Pipe := []
  steps : Bool × Bool × Bool := (false, false, false)
  ownLength : Bool := false
  kind : BitVec 12 → TrimKind := fun _ => .element
  sources : View → Thread → List VSource := fun _ _ => []
  dst : View → Thread → BitVec 256 := fun _ _ => 0
  segs : View → Thread → BitVec 512 := fun _ _ => 0
  trims : Bool := true
  early : Thread → Bool := fun _ => false
  flagged : BitVec 12 → Bool := fun _ => false
  allFalse : Bool := false
  empty : Nat → View → Acc → Acc := fun _ _ a => a
  below : Bool := false
  run : Nat → View → Acc → Acc

/-! ## The push -/

/-- How many of the pipes of a kind a mask holds (R292). -/
def pipesOwned (mask : BitVec 7) : Pipe → Nat
  | .m => (mask.extractLsb' 0 1).toNat + (mask.extractLsb' 1 1).toNat
  | .l => (mask.extractLsb' 2 1).toNat + (mask.extractLsb' 3 1).toNat
  | .s => (mask.extractLsb' 4 1).toNat
  | .p => (mask.extractLsb' 5 1).toNat
  | .x => (mask.extractLsb' 6 1).toNat

/-- The index of the first member of a convoy at which a kind's running count exceeds what is owned (R43). -/
def pipeExcess (mask : BitVec 7) : List (List Pipe) → List Pipe → Nat → Option Nat
  | [], _, _ => none
  | m :: ms, used, i =>
    let used := m ++ used
    if used.any (fun k => decide (pipesOwned mask k < used.count k)) then some i else pipeExcess mask ms used (i + 1)

/-- What a word may join while a frame captures: majors 0x28 to 0x2F and 0x34, and no convoy left open at the end (R46). -/
def frameEligible (w : BitVec 32) : Bool := (0x28 ≤ majorOf w && majorOf w ≤ 0x2F) || majorOf w == 0x34

/-- Whether this word breaks the capturing frame (R46). -/
def breaksFrame (t : Thread) (w : BitVec 32) : Bool :=
  match capturing t.queue with
  | none => false
  | some f =>
    !frameEligible w ||
      (joins w && (match f.head? with | some v => f.length == frameCount v.word | none => false))

/-- Whether this word cannot join the open convoy (R41). -/
def breaksConvoy (t : Thread) (w : BitVec 32) : Bool :=
  let c := openConvoy t.queue
  !c.isEmpty && (!convoyEligible w || c.length == 6)

/-- The entry that a push makes: VL, VT, TRL and the scalar operands are captured (R17, R143). An operand that a member of the open convoy or
frame writes is taken when that member has written it (R40; log entry 49). -/
def newEntry (t : Thread) (w : BitVec 32) (d : Desc) : Entry :=
  let ops := d.scalars.map (fun x => t.gread x.1)
  let late := fun (n : Nat) => (d.scalars[n]?.map (·.1)).filter t.openWrites
  { word := w, pc := t.pc, seq := t.seq, slot := t.nextSlot, vt := t.vt12, vl := t.vl.toNat, trl := t.trl, opa := ops.getD 0 0
    opb := ops.getD 1 0, lateA := late 0, lateB := late 1, dirty := 0, deferred := none, running := none
    level := 0, frame := (capturing t.queue).isSome, epoch := t.epoch, phase := .unstarted }

/-- The queue slots taken: one by each entry, and those of the microcode of a dispatched tcon (R191). -/
def Thread.occupied (t : Thread) : Nat :=
  t.queue.foldl (fun n e => n + 1 + (match e.phase with | .done r => r.micro | .unstarted => 0)) 0

/-- The queue after a push: the sequence counter and the slot advance, the scalar part continues (R17, R78). -/
def Thread.push (t : Thread) (e : Entry) : Thread :=
  { t with queue := t.queue ++ [e], seq := t.seq + 1, nextSlot := t.nextSlot + 1, pc := t.pc + 4 }

/-- The pipes that the convoy now closed needs, against the pipes of the partition (R43): where they exceed them the convoy is
discarded, or the frame that captures it, and EADDR holds the first member's PC. While older entries are left (R97) the discarded words
are pushed again, and trap when nothing older is left. -/
def State.pipeCheck (s : State) (descOf : BitVec 32 → Desc) (members : List Entry) : State :=
  match pipeExcess s.cur.pipes (members.map (fun e => (descOf e.word).pipes)) [] 0, members with
  | some i, m :: _ =>
    let gone := if m.frame then
        (match (s.cur.queue.reverse.dropWhile (fun e => !e.held && e.frame)).head? with
         | some f => f :: (s.cur.queue.reverse.takeWhile (fun e => !e.held && e.frame)).reverse
         | none => members)
      else members
    let rest := s.cur.discard gone
    if !rest.drained then { s with cur := rest }
    else s.mod (fun _ => rest.enterTrap 0x42 false rest.pc m.pc (BitVec.ofNat 64 (i % 16)))
  | _, _ => s

/-- What a push comes to: a trap, a wait, or the word in the queue. -/
inductive Pushed where
  | trap (s : State)
  | wait
  | done (s : State)
  deriving Repr

/-- The push of a queued word (R17), with the checks of R48 in their order: frame violation, ill-type, group alignment, TRL, convoy
conflict, premature read of a scalar source; then the waits; then the push and, at the end of a convoy, its pipes (R43). DESIGN CHOICE
(log entry 51): R43 and R48 leave open which comes first where a word both names an empty scalar source and closes a convoy that needs too
many pipes; the pipes are counted once the word is pushed, after the premature read and the waits. It leaves open too whether a vframe with a
count of 2^32 or more (0x43, check 4) that stands in an open convoy takes 0x43 or 0x42: its count is read when nothing is left to wait for, so
0x42, an empty scalar source and the waits come first (log entry 51). A scalar destination makes no push
wait: the queue works in order (R40). -/
def State.push (s : State) (descOf : BitVec 32 → Desc) (d : Desc) (w : BitVec 32) : Pushed :=
  let t := s.cur
  if breaksFrame t w then .trap s.frameViolation
  else if !d.typeOk t.vt then .trap (s.wordTrap 0x41)
  else
    match (d.align w t.vt12).find? (fun g => g.1 % g.2.1 ≠ 0) with
    | some g => .trap (s.wordTrap 0x48 g.2.2)
    | none =>
      if d.tile && (t.trl == 0 || 2048 < t.trl.toNat) then .trap (s.issueTrap 0x4A t.pc (einfoShape 0 0 0))
      else if breaksConvoy t w then .trap (s.wordTrap 0x42)
      else
        match t.premature d.scalars with
        | some opnd => .trap (s.prematureTrap opnd)
        | none =>
          if d.scalars.any (fun x => t.gempty x.1 && !t.openWrites x.1) || decide (64 ≤ t.occupied) || (isFrame w && t.queue.any (fun e => (isFrame e.word || e.frame) && !e.held)) then .wait
          else if isFrame w && 2 ^ 32 ≤ (newEntry t w d).opa.toNat then .trap (s.issueTrap 0x43 t.pc 0)
          else
            let convoy := openConvoy t.queue ++ [newEntry t w d]
            let s' := s.mod (fun t => t.push (newEntry t w d))
            .done (if joins w then s' else s'.pipeCheck descOf convoy)

/-! ## Running an entry -/

/-- The view of an entry: `es` where ES belongs to it. -/
def Entry.view (e : Entry) (es : Nat) : View :=
  { word := e.word, pc := e.pc, seq := e.seq, vt := e.vt, es := es, vl := e.vl, trl := e.trl.toNat, opa := e.opa, opb := e.opb }

/-- The achieved length for a first failing element f (R84, R92): f itself, the block's first element, or for a tile the rows
before it, where there is one. -/
def achieved (kind : TrimKind) (trl f : Nat) : Nat :=
  match kind with
  | .element => f
  | .block32 => 32 * (f / 32)
  | .tile => if trl = 0 ∨ f < trl then f else f / trl * trl

/-- TRC for a trim or a leading trap (R78, R85). -/
def trcOf (f : Fail) (elem : Nat) (seq : BitVec 16) : Word :=
  BitVec.ofNat 64 (f.cause.toNat + 256 * (f.sub % 256) + 65536 * (elem % 65536) + 2 ^ 32 * (f.lane % 65536) + 2 ^ 48 * seq.toNat)

/-- What running an entry comes to. -/
inductive Ran where
  /-- It completes over the elements below `vl`; `trim` is the failure that shortened it, if any. -/
  | done (a : Acc) (vl : Nat) (trim : Option Fail)
  /-- It takes a leading trap. -/
  | lead (f : Fail)
  /-- A dispatch check traps. -/
  | check (c : CheckTrap)
  /-- It must wait. -/
  | wait
  /-- It must wait, and what it has done so far stands. -/
  | again (s : State)
  deriving Repr

/-- The trim rule (R83, R116): runs the entry over the elements below `v`; where an element fails, again over the achieved length,
until no element fails or the achieved length does not exceed ES. Each pass lowers the length, so `fuel` = VL + 1 passes do. -/
def runTo (d : Desc) (view : View) (s : State) : Nat → Nat → Option Fail → Ran
  | 0, _, _ => .wait
  | fuel + 1, v, why =>
    let a := d.run v view (Acc.start s)
    if a.wait then (if a.again then .again a.s else .wait)
    else match a.check with
      | some c => .check c
      | none =>
        match a.fail with
        | none => .done a v why
        | some f =>
          let j := achieved (d.kind view.vt) view.trl f.elem
          if j ≤ view.es ∨ !d.trims then .lead f else runTo d view s fuel j (some f)

/-- Runs an entry (R34, R79): with the effective length at most ES, or under the all-false guard, it performs nothing but what
`empty` says of its class. -/
def runEntry (d : Desc) (view : View) (s : State) : Ran :=
  if d.ownLength then runTo d view s 2 view.vl none
  else if (view.vl ≤ view.es ∧ !(d.below && view.es != 0)) ∨ d.allFalse then
    let a := d.empty view.vl view (Acc.start s)
    if a.wait then .wait else match a.check with | some c => .check c | none => .done a view.vl none
  else runTo d view s (view.vl + 1) view.vl none

/-- Where pre-emption trims an entry whose work ends after `v` elements or steps (R94): the first boundary of `size` elements, from the
`cut`-th above ES on, that the rules of R92 leave above ES; none where the entry ends before. -/
def cutBoundary (kind : TrimKind) (view : View) (size v : Nat) : Nat → Nat → Option Nat
  | 0, _ => none
  | fuel + 1, cut =>
    let b := (view.es / size + cut) * size
    let j := achieved kind view.trl b
    if v ≤ b ∨ v ≤ j then none else if j ≤ view.es then cutBoundary kind view size v fuel (cut + 1) else some j

/-- Pre-emption after `cut` element groups or more (R94): the run ends at the first boundary from there on at which it takes no trap, which a
shorter reduction tree may raise (R116); `whole` is the run to its end. -/
def runToCut (d : Desc) (view : View) (s : State) (kind : TrimKind) (size ends : Nat) (lane : Nat → Nat) (whole : Ran) : Nat → Nat → Ran
  | 0, _ => whole
  | fuel + 1, cut =>
    match cutBoundary kind view size ends 2049 cut with
    | none => whole
    | some j =>
      match runTo d view s (j + 1) j (some { elem := j, cause := 0x08, sub := 0, addr := 0, lane := lane j }) with
      | .lead _ => runToCut d view s kind size ends lane whole fuel (cut + 1)
      | r => r

/-- Runs an entry that pre-emption reaches after `cut` element groups above ES (R94); with `cut` 0 none reaches it. An entry past its trim
point completes. An element cause at or below the boundary decides instead, and so does the end of an input (R181, R192). Where the
elements are those of records their own width counts, and TRC.lane is 0: R174 says so of a copy; of a tcon's points no rule does (log
entry 21). -/
def runCut (d : Desc) (view : View) (s : State) (cut : Nat) : Ran :=
  match runEntry d view s with
  | .done a v trim =>
    if cut = 0 ∨ d.ownLength ∨ !d.trims ∨ d.early s.cur ∨ d.allFalse then .done a v trim
    else
      let kind := match a.grain with | some (_, true) => .block32 | _ => d.kind view.vt
      let width := match a.grain with | some (w, _) => w | none => typeWidth (vtType view.vt)
      runToCut d view s kind (max 1 (1024 / max 1 width)) (min v (a.ended.getD v)) (fun j => if a.grain.isSome then 0 else s.laneOf width j)
        (.done a v trim) 2049 cut
  | r => r

/-- The first strict source with an empty group, and the number in its register group of the first such group (R39). Groups that an earlier
member of the same convoy empties are exempt. DESIGN CHOICE (log entry 19): where both strict sources have an empty group, EINFO names the
first in the order va, vb. -/
def prematureRead (lg : Nat) (srcs : List VSource) (empty : BitVec 256) : Option (Nat × Nat) :=
  match srcs.find? (fun x => x.strict && (x.groups &&& empty) != 0) with
  | none => none
  | some x =>
    let at_ := fun (k : Nat) => 8 * ((x.base + k / max 1 lg) % 32) + k % max 1 lg
    some (x.opnd, ((List.range 256).find? (fun k => (x.groups &&& empty).getLsbD (at_ k))).getD 0)

/-- VL after an entry that wrote it (R72, R87): every younger entry of the same epoch is capped, and the register too where no
scalar write of VL has come since. -/
def capYounger (t : Thread) (n epoch v : Nat) : Thread :=
  { t with
    queue := t.queue.mapIdx (fun i e => if n < i ∧ e.epoch = epoch then { e with vl := min e.vl v } else e)
    vl := if t.epoch = epoch then BitVec.ofNat 16 v else t.vl }

/-- Whether element i of a word's result needs element i of its vector sources alone (R101, R112, R119, R120, R145). -/
def elementwise (w : BitVec 32) : Bool :=
  match majorOf w, fn4Of w with
  | 0x2C, n => n == 0 || n == 6
  | 0x2B, n => decide (n < 6)
  | 0x2E, n => n != 4 && n != 5
  | m, _ => (0x28 ≤ m && m ≤ 0x2A) || m == 0x2F || (0x30 ≤ m && m ≤ 0x33)

/-- The predicates that a queued word reads (R31, R37, R111, R113, R120, R183): its guard, and those among its sources. -/
def predicatesRead (w : BitVec 32) : List (BitVec 3) :=
  let guard := if 0x28 ≤ majorOf w && majorOf w ≤ 0x37 then [w.extractLsb' 6 3] else []
  let named : List (BitVec 3) := match majorOf w, fn4Of w with
    | 0x2B, _ => [w.extractLsb' 20 3, w.extractLsb' 17 3]
    | 0x2E, n => if 4 ≤ n && n ≤ 6 then [w.extractLsb' 16 3] else []
    | 0x35, n => if 3 ≤ n && n ≤ 5 then [w.extractLsb' 11 3] else []
    | _, _ => []
  guard ++ named

/-- What must be full before an entry has processed element group k of its destination (R37, R39, R40): the groups of its vector sources and of
its destination, and the segments of its predicates. DESIGN CHOICE (log entry 7): an instruction whose elements depend on others waits for
all of its sources at each of its groups. -/
def needsAt (d : Desc) (view : View) (t : Thread) (k : Nat) : BitVec 256 × BitVec 512 :=
  let mine := ((List.range (view.vl - view.es)).map (fun i => view.es + i)).filter (fun i => (destGroup view.word view.vt i).2 == k)
  let part := if elementwise view.word then { view with es := mine.head?.getD view.es, vl := mine.head?.getD view.es + mine.length } else view
  ((d.sources part t).foldl (fun m x => m ||| x.groups) (d.dst part t),
   (predicatesRead view.word).foldl (fun m p => m ||| segMask p part.es part.vl) (d.segs part t))

/-- What an entry that completed leaves for its retirement. -/
def retireOf (d : Desc) (view : View) (t : Thread) (a : Acc) : Retire :=
  let limit := max ((destGroup view.word view.vt view.es).2 + 1) ((destGroup view.word view.vt (view.vl - 1)).2 + 1)
  { groups := d.dst view t, span := (destGroup view.word view.vt 0).1, reached := (destGroup view.word view.vt view.es).2
    limit := limit, needs := (List.range limit).map (needsAt d view t), micro := 0
    segs := d.segs view t, flags := a.flags
    fx := if d.flagged view.vt && !d.allFalse && decide (view.es < view.vl) then some (fxOf a.fx) else none
    rowp := a.rowp.map (fun r => BitVec.ofNat 16 r), dirty := a.dirty, deferred := a.deferred, hand := a.hand }

/-- The entry at position `n` takes `micro` queue slots for its microcode, directly behind it (R78, R191). -/
def Thread.expand (t : Thread) (n micro : Nat) : Thread :=
  { t with
    queue := t.queue.mapIdx (fun i x => if n < i then { x with slot := x.slot + BitVec.ofNat 6 micro } else x)
    nextSlot := t.nextSlot + BitVec.ofNat 6 micro }

/-- How many microcode entries a word expands into (R191): a free number for a tcon, within the queue's 64; none for any other word. -/
def State.microOf (s : State) (w : BitVec 32) : Nat :=
  if majorOf w = 0x36 then Config.microEntries s.tick % (65 - s.cur.occupied) else 0

/-- An entry that completed at length `v` (R83, R85, R87): its effects, TRC and TRA where it was trimmed, VL and the caps, the FX
registers at length v; it now waits to retire. `n` is its position. -/
def State.finish (s : State) (n : Nat) (e : Entry) (d : Desc) (view : View) (a : Acc) (v : Nat) (trim : Option Fail) : State :=
  let micro := a.s.microOf e.word
  let s1 := a.s.tock
  let view' := { view with vl := v }
  let r := { retireOf d view' s.cur a with groups := d.dst view s.cur, segs := d.segs view s.cur, micro := micro }
  s1.mod (fun t =>
    let t := t.expand n micro
    let t := match trim with
      | some f => capYounger { t with trc := trcOf f v e.seq, tra := BitVec.ofNat 64 f.addr } n e.epoch v
      | none => t
    let t := match a.vlOut with
      | some x => capYounger t n e.epoch x
      | none => t
    { t with
      progress := t.progress || (!d.ownLength && !d.allFalse && decide (view.es < v))
      queue := t.queue.mapIdx (fun i x => if i = n then { x with phase := .done r } else x)
      dlen := t.dlen.mapIdx (fun r old =>
        max old (((List.range 8).filter (fun g => a.wrote.getLsbD (8 * r + g))).foldl (fun m g => max m (g + 1)) 0)) })

/-! ## Retirement -/

/-- Expected counts of landing barriers rise when a copy or a sealed operation is handed over (R176, R214, R265). -/
def addExpected (bs : List Barrier) (team crew : Nat) (bar : BitVec 6) (n : Nat) : List Barrier :=
  bs.map (fun b => if b.team == team && b.crew == crew && b.num == bar then { b with expected := b.expected + n } else b)

/-- Whether a queue still holds an entry that rebinds a stream register when it retires. -/
def rebinds (q : BitVec 3) (l : List Entry) : Bool :=
  l.any (fun e => match e.phase with | .done r => r.hand == .stream q | .unstarted => false)

/-- A stream register is live: its engine may fetch (R162). -/
def Thread.streamLive (t : Thread) (q : BitVec 3) : Thread :=
  if rebinds q t.queue then t else { t with q := t.q.set q.toNat { t.q[q.toNat]'q.isLt with live := true } q.isLt }

/-- Hands an entry's work to its engine. -/
def State.handOver (s : State) : HandOff → State
  | .stream q => s.mod (fun t => t.streamLive q)
  | .nothing => s
  | .copy c => { s with copies := s.copies ++ [{ c with num := s.nextOp }], nextOp := s.nextOp + 1,
                        barriers := addExpected s.barriers c.team c.crew c.bar c.moves.length }
  | .sealed o => { s with seals := s.seals ++ [{ o with num := s.nextOp }], nextOp := s.nextOp + 1, barriers := addExpected s.barriers o.team o.crew o.bar 1 }

/-- An operand that waited for a scalar register, now that it is there. -/
def lateValue (t : Thread) (r : Option (BitVec 5)) (x : Word) : Word := match r with | some r => t.gread r | none => x

/-- An entry whose late operands are taken from the registers as they are (R40; log entry 49). -/
def Entry.taken (e : Entry) (t : Thread) : Entry :=
  { e with opa := lateValue t e.lateA e.opa, opb := lateValue t e.lateB e.opb, lateA := none, lateB := none }

/-- The operands of a member take the value of a register that an entry wrote and that no entry before the member will write again. -/
def takeLate (t : Thread) (r : BitVec 5) : List Entry → List Entry
  | [] => []
  | e :: es =>
    let e' := { e with
      opa := if e.lateA = some r then t.gread r else e.opa, lateA := if e.lateA = some r then none else e.lateA
      opb := if e.lateB = some r then t.gread r else e.opb, lateB := if e.lateB = some r then none else e.lateB }
    e' :: (if scalarDst e.word = some r then es else takeLate t r es)

/-- The younger entries when an entry with this word retires. -/
def afterWriter (t : Thread) (w : BitVec 32) (es : List Entry) : List Entry :=
  match scalarDst w with
  | some r => takeLate t r es
  | none => es

/-- Retirement of the entry at position `n` (R36, R91, R103, R104, R307): it leaves the queue, its groups are full, its flags and
FX registers, ROWP and DIRTY bits are written, ES returns to 0 if it was its own, and a deferred trap is taken (R90, R251), which holds the
younger entries: the first of them starts at 0 (R91, R309). -/
def State.retireAt (s : State) (n : Nat) (r : Retire) : State :=
  let s1 := s.mod (fun t =>
    let owns := t.released ≠ 0 ∨ topLevel t.queue = 0
    { t with
      queue := t.queue.take n ++ afterWriter t ((t.queue[n]?.map (·.word)).getD 0) (t.queue.drop (n + 1))
      fflags := t.fflags ||| r.flags
      fx := match r.fx with | some f => f | none => t.fx
      rowp := match r.rowp with | some x => x | none => t.rowp
      dirty := t.dirty ||| r.dirty
      es := if owns then 0 else t.es
      released := t.released - 1 })
  let s2 := s1.handOver r.hand
  match r.deferred with
  | none => s2
  | some d => s2.mod (fun t =>
      let level := topLevel t.queue + 1
      if t.busy ∨ (16 ≤ level ∧ !t.pending.isEmpty) then { t with status := .stopped }
      else
        ({ t with queue := holdFrom (BitVec.ofNat 4 level) n t.queue, es := if t.pending.isEmpty then t.es else 0, released := 0 } : Thread).enterTrap
          d.cause true t.pc d.addr d.info)

/-- The position of the oldest entry that is not held. -/
def firstPending (q : List Entry) : Option Nat := q.findIdx? (fun e => !e.held)

/-- Retires the oldest entry that is not held, when it has been dispatched. -/
def State.retireOne (s : State) : Option State :=
  match firstPending s.cur.queue with
  | none => none
  | some n =>
    match s.cur.queue[n]? with
    | some e => (match e.phase with | .done r => some (s.retireAt n r) | .unstarted => none)
    | none => none

/-- Retires every dispatched entry that heads the queue. -/
def State.retireAll : Nat → State → State
  | 0, s => s
  | fuel + 1, s => match s.retireOne with | none => s | some s' => s'.retireAll fuel

/-! ## Dispatch -/

/-- ES of the entry at position n: the register's value where ES belongs to it (R91), else 0. -/
def Thread.esOf (t : Thread) (n : Nat) : Nat :=
  if firstPending t.queue = some n ∧ (t.released ≠ 0 ∨ topLevel t.queue = 0) then t.es.toNat else 0

/-- A trap of the entry at position `n`: first every older dispatched entry retires, and if one of them takes a deferred trap, that
trap is taken instead (R96, R97). `lead` writes TRC and TRA (R85). -/
def State.trapAt (s : State) (n : Nat) (es : Nat) (cause : BitVec 8) (addr info : Word) (lead : Option (Word × Word)) : State :=
  let older := s.cur.queue.take n |>.filter (fun e => !e.held) |>.length
  let s1 := s.retireAll older
  if s1.cur.queue.length + older ≠ s.cur.queue.length ∨ s1.cur.busy ≠ s.cur.busy ∨ s1.cur.status ≠ s.cur.status then s1
  else
    s1.mod (fun t =>
      let t := match lead with | some (trc, tra) => { t with trc := trc, tra := tra } | none => t
      t.holdTrap (n - older) (BitVec.ofNat 16 es) cause addr info)

/-- The rows of X0 that a matrix instruction was to compute wrongly have been computed (R133). -/
def State.rowsDone (s : State) (w : BitVec 32) : State := if majorOf w = 0x34 then s.mod (fun t => { t with residue := [] }) else s

/-- The earlier members, youngest first, of the convoy that the entry at position `n` belongs to, among those still queued (R41). -/
def convoyBefore (q : List Entry) (n : Nat) : List Entry := (q.take n).reverse.takeWhile (fun e => !e.held && joins e.word)

/-- The index of the entry at position `n` in its convoy (R49), counted over the members still queued. -/
def convoyIndex (q : List Entry) (n : Nat) : Nat := (convoyBefore q n).length

/-- The groups that the entry at position `n` finds empty where its source is strict (R39): those that earlier members of its convoy emptied are
exempt. -/
def Thread.strictEmpty (t : Thread) (n : Nat) : BitVec 256 :=
  t.emptyGroups &&& ~~~(convoyBefore t.queue n).foldl (fun m x => m ||| x.empty t.lg) 0

/-- Dispatches the entry at position `n` (R36, R48, R83, R96): checks 7 and 8 and its elements. An instruction that does not depend
on VL meets its causes at element 0. `cut` is where pre-emption trims (R94). -/
def State.dispatchAt (s : State) (descOf : BitVec 32 → Desc) (cut n : Nat) : Option State :=
  match s.cur.queue[n]? with
  | none => none
  | some e0 =>
    let e := e0.taken s.cur
    let d := descOf e.word
    let es := s.cur.esOf n
    let view := e.view es
    let pos := convoyIndex s.cur.queue n
    let at0 := if d.ownLength then 0 else es
    match prematureRead s.cur.lg (d.sources view s.cur) (s.cur.strictEmpty n) with
    | some (opnd, g) => some (s.trapAt n es 0x44 e.pc (einfoPos pos opnd g 0) none)
    | none =>
      match runCut d view s cut with
      | .wait => none
      | .again s' => some s'.tock
      | .check c => some (s.tock.trapAt n es c.cause c.addr (if c.cause = 0x41 then c.info ||| einfoPos pos 0 0 0 else c.info) none)
      | .lead f =>
        let rec' := trcOf f at0 e.seq
        some ((s.tock.rowsDone e.word).trapAt n at0 f.cause (BitVec.ofNat 64 f.addr) rec' (some (rec', BitVec.ofNat 64 f.addr)))
      | .done a v trim => some ((s.finish n e d view a v trim).rowsDone e.word)

/-- The bits [h:l] of a word replaced by a number added modulo 32 (R45). -/
def stepField (w : BitVec 32) (on : Bool) (lo by_ : Nat) : BitVec 32 :=
  if on then setField w lo 5 ((w.extractLsb' lo 5).toNat + by_) else w

/-- A captured word in iteration t (R45): only fields that name vector registers step; a compare's va and vb lie elsewhere. -/
def stepWord (f w : BitVec 32) (steps : Bool × Bool × Bool) (t : Nat) : BitVec 32 :=
  let ds := (f.extractLsb' 12 4).toNat * t
  let as := (f.extractLsb' 8 4).toNat * t
  let bs := (f.extractLsb' 4 4).toNat * t
  if majorOf w = 0x2A then stepField (stepField w true 15 as) true 10 bs
  else stepField (stepField (stepField w steps.1 21 ds) steps.2.1 16 as) steps.2.2 11 bs

/-- The vframe entry's operand that holds its iteration in [31:0] and its position in [35:32] (R333). -/
def framePoint (iter pos : Nat) : Word := BitVec.ofNat 64 (iter % 2 ^ 32 + 2 ^ 32 * (pos % 16))

/-- Nothing is left for a retirement. -/
def Retire.nothing : Retire :=
  { groups := 0, span := 1, reached := 0, limit := 0, needs := [], micro := 0, segs := 0, flags := 0, fx := none, rowp := none, dirty := 0
    deferred := none, hand := .nothing }

/-- What a frame's own entry leaves for its retirement (R36, R90, R307): what its last iteration still has to process, with the DIRTY bits and
the deferred error of all; its flags are in FFLAGS already. -/
def Retire.ofMember (e : Entry) : Retire :=
  { (e.running.getD Retire.nothing) with flags := 0, fx := none, dirty := e.dirty, deferred := e.deferred }

/-- An iteration of a member whose element groups are all full again (R36). -/
def Retire.full (r : Retire) : Retire := { r with groups := 0, segs := 0, reached := r.limit }

/-- One member of one iteration of the frame whose vframe entry stands at position `n` (R45, R100). A member's elements, flags and FX
registers take effect at once, and where entries work by events (log entry 7) the groups that it emptied fill one by one; its DIRTY bits
and a deferred error come with its retirement; a trim caps the rest of the frame; a trap
holds the frame there. When the count is reached the whole frame has been dispatched. -/
def State.frameStep (s : State) (descOf : BitVec 32 → Desc) (cut n : Nat) (f : Entry) : Option State :=
  let count := f.opa.toNat
  let iter := bitsOf f.opb.toNat 31 0
  let pos := bitsOf f.opb.toNat 35 32
  let members := frameCount f.word
  if count ≤ iter then
    some (s.mod (fun t => { t with queue := t.queue.mapIdx (fun i e =>
      if n ≤ i ∧ i ≤ n + members then { e with phase := .done (Retire.ofMember e), running := none } else e) }))
  else
    match s.cur.queue[n + 1 + pos]? with
    | none => none
    | some e0 =>
      let e := e0.taken s.cur
      let d0 := descOf e.word
      let w := stepWord f.word e.word d0.steps iter
      let d := descOf w
      let es := s.cur.esOf n
      let view := { e.view es with word := w }
      let at_ : Word := einfoPos pos 0 0 iter
      match (d.align w e.vt).find? (fun g => g.1 % g.2.1 ≠ 0) with
      | some g => some (s.trapAt n es 0x48 e.pc (einfoPos pos g.2.2 0 iter) none)
      | none =>
        match prematureRead s.cur.lg (d.sources view s.cur) (s.cur.strictEmpty (n + 1 + pos)) with
        | some (opnd, g) => some (s.trapAt n es 0x44 e.pc (einfoPos pos opnd g iter) none)
        | none =>
          match runCut d view s cut with
          | .wait => none
          | .again s' => some s'.tock
          | .check c => some (s.tock.trapAt n es c.cause c.addr (c.info ||| at_) none)
          | .lead x =>
            let rec' := trcOf x es e.seq
            some ((s.tock.rowsDone e.word).trapAt n es x.cause (BitVec.ofNat 64 x.addr) at_ (some (rec', BitVec.ofNat 64 x.addr)))
          | .done a v trim =>
            let r := { retireOf d { view with vl := v } s.cur a with groups := d.dst view s.cur }
            let next := if pos + 1 = members then framePoint (iter + 1) 0 else framePoint iter (pos + 1)
            some ((a.s.tock.rowsDone e.word).mod (fun t =>
              let t := match trim with
                | some x => capYounger { t with trc := trcOf x v e.seq, tra := BitVec.ofNat 64 x.addr } n e.epoch v
                | none => t
              { t with
                progress := t.progress || (!d.ownLength && !d.allFalse && decide (es < v))
                queue := t.queue.mapIdx (fun i y =>
                  if i = n then { y with opb := next }
                  else if i = n + 1 + pos then
                    { y.taken s.cur with dirty := y.dirty ||| r.dirty, deferred := y.deferred.orElse (fun _ => r.deferred),
                                          running := some (if s.pace = .decoupled then r else r.full) }
                  else y)
                fflags := t.fflags ||| r.flags
                fx := match r.fx with | some z => z | none => t.fx
                es := if t.released ≠ 0 ∨ topLevel t.queue = 0 then 0 else t.es
                dlen := t.dlen.mapIdx (fun k old =>
                  max old (((List.range 8).filter (fun g => a.wrote.getLsbD (8 * k + g))).foldl (fun m g => max m (g + 1)) 0)) }))

/-- Whether a dispatched entry defers a trap to its retirement: nothing younger dispatches before it (R90, R96). -/
def Entry.defers (e : Entry) : Bool := match e.phase with | .done r => r.deferred.isSome | .unstarted => false

/-- The position of the oldest entry that is neither held nor dispatched, where nothing older defers a trap. -/
def nextToDispatch (q : List Entry) : Option Nat :=
  if q.any (fun e => !e.held && e.defers) then none else q.findIdx? (fun e => !e.held && !e.isDone)

/-- Whether the scalar part is still capturing or joining what starts at position `n`. -/
def stillOpen (t : Thread) (n : Nat) : Bool :=
  let k := t.openEntries.length
  k != 0 && decide (t.queue.length - k ≤ n)

/-- Dispatches the members of a convoy from position `n` on (R41, R43). A member that traps or waits ends the dispatch. -/
def State.dispatchConvoy (descOf : BitVec 32 → Desc) (cut : Nat) : Nat → Nat → State → Option State
  | 0, _, _ => none
  | fuel + 1, n, s =>
    match s.dispatchAt descOf cut n with
    | none => none
    | some s' =>
      match s.cur.queue[n]?, s'.cur.queue[n]? with
      | some e, some e' =>
        if e'.seq = e.seq ∧ e'.isDone ∧ !e'.defers ∧ joins e.word then
          match State.dispatchConvoy descOf cut fuel (n + 1) s' with
          | none => some s'
          | some s'' => some s''
        else some s'
      | _, _ => some s'

/-- Dispatches what heads the queue: a frame's next member, a convoy, or a lone entry; none when nothing can dispatch (R17, R295). -/
def State.dispatchOne (s : State) (descOf : BitVec 32 → Desc) (cut : Nat) : Option State :=
  match nextToDispatch s.cur.queue with
  | none => none
  | some n =>
    if stillOpen s.cur n then none
    else
      match s.cur.queue[n]? with
      | none => none
      | some e => if isFrame e.word then s.frameStep descOf cut n e else State.dispatchConvoy descOf cut 6 n s

/-- Works the queue: retires what has been dispatched, else dispatches, until nothing more can be done. -/
def State.settle (descOf : BitVec 32 → Desc) : Nat → State → State
  | 0, s => s
  | fuel + 1, s =>
    if s.cur.status ≠ .running then s
    else match s.retireOne with
      | some s' => State.settle descOf fuel s'
      | none =>
        match s.dispatchOne descOf 0 with
        | some s' => State.settle descOf fuel s'
        | none => s

end Sys2Proof.Machine
end

