-- ==== Sys2Proof/Machine/ScalarMemory.lean ====
section
/-!
DEFINITION. Scalar loads and stores (R58 to R62).
-/
namespace Sys2Proof.Machine

/-- log2 of a size in bytes, as EINFO.size has it (R60). -/
def sizeCode : Nat → Nat
  | 1 => 0
  | 2 => 1
  | 4 => 2
  | _ => 3

/-- The trap of a scalar access (R59): EPC the PC of the access, EADDR the effective address, EINFO as R60 lays out. -/
def State.accessTrap (s : State) (f : ScalarFail) (ea : Word) (size : Nat) (store : Bool) : State :=
  s.issueTrap f.1 ea (einfoScalar (sizeCode size) store false s.cur.user f.2) false

/-- A scalar access (R59, R61, R62): it waits for older entries that may touch memory; then its checks
in order; then `body` at the physical address, with A and D kept (R320) and remote accesses counted (R383). An access on an NS
page also waits for every older entry; one that a copy of the thread concerns waits for it, before an error that the copy may heal counts
(R178). `extra` is a check that comes after those of R59; `writes` says whether the access will write,
and so set D. -/
def State.scalarAccessIf (s : State) (ea : Word) (size : Nat) (need : Need) (store : Bool)
    (extra : State → Nat → Option ScalarFail) (writes : State → Nat → Bool) (body : State → Nat → State) : State :=
  if !s.cur.memoryClear then s
  else if ea.toNat % size ≠ 0 then s.accessTrap (0x47, 0) ea size store
  else
    match s.scalarCheck s.cur.ctx ea.toNat size need with
    | (.error f, s') => if f.1 = 0x07 ∧ s.copyAhead s.cur.ctx ea.toNat size need.write then s else s'.accessTrap f ea size store
    | (.ok (pa, l), s') =>
      if (leafBit l.word 6 && !s.cur.drained) || s.copyMeets pa size need.write then s
      else
        match extra s' pa with
        | some f => s'.accessTrap f ea size store
        | none => body ((s'.touch s.cur.ctx ea.toNat l (writes s' pa)).noteAccess pa) pa

/-- A scalar access that writes exactly when it needs W. -/
def State.scalarAccess (s : State) (ea : Word) (size : Nat) (need : Need) (store : Bool)
    (extra : State → Nat → Option ScalarFail) (body : State → Nat → State) : State :=
  s.scalarAccessIf ea size need store extra (fun _ _ => need.write) body

/-- No further check. -/
def noExtra : State → Nat → Option ScalarFail := fun _ _ => none

/-- The effective address of a scalar load or store: g(ga) + sext(imm15), modulo 2^64 (R58). -/
def effAddr (f : FmtSI) (t : Thread) : Word := t.gread f.ga + f.imm.signExtend 64

/-- A scalar load of `size` bytes, extended as `ext` says (R58). -/
def scalarLoad (f : FmtSI) (size : Nat) (ext : Nat → Word) (s : State) : Out :=
  s.scalar false [(f.ga, f.sa, 0)] [f.gd] (fun s =>
    s.scalarAccess (effAddr f s.cur) size Need.load false noExtra (fun s pa =>
      s.mod (fun t => (t.gwrite f.gd (ext (leNat (s.read pa size)))).next)))

/-- A scalar store of the low `size` bytes of g(gd) (R58); it waits for an empty data register. -/
def scalarStore (f : FmtSI) (size : Nat) (s : State) : Out :=
  s.scalar false [(f.ga, f.sa, 0)] [f.gd] (fun s =>
    s.scalarAccess (effAddr f s.cur) size Need.store true noExtra (fun s pa =>
      (s.write pa (leBytes size (s.cur.gread f.gd).toNat)).mod Thread.next))

/-- Sign-extends the low `w` bits to 64. -/
def sextFrom (w x : Nat) : Word := BitVec.ofInt 64 (signedOf w x)

/-- `ld.d` (R58): the doubleword. -/
def execLdD (f : FmtSI) (s : State) : Out := scalarLoad f 8 (BitVec.ofNat 64) s

/-- `ld.w` (R58): a word, sign-extended. -/
def execLdW (f : FmtSI) (s : State) : Out := scalarLoad f 4 (sextFrom 32) s

/-- `ld.wz` (R58): a word, zero-extended. -/
def execLdWz (f : FmtSI) (s : State) : Out := scalarLoad f 4 (BitVec.ofNat 64) s

/-- `ld.h` (R58): a halfword, sign-extended. -/
def execLdH (f : FmtSI) (s : State) : Out := scalarLoad f 2 (sextFrom 16) s

/-- `ld.hz` (R58): a halfword, zero-extended. -/
def execLdHz (f : FmtSI) (s : State) : Out := scalarLoad f 2 (BitVec.ofNat 64) s

/-- `ld.b` (R58): a byte, sign-extended. -/
def execLdB (f : FmtSI) (s : State) : Out := scalarLoad f 1 (sextFrom 8) s

/-- `ld.bz` (R58): a byte, zero-extended. -/
def execLdBz (f : FmtSI) (s : State) : Out := scalarLoad f 1 (BitVec.ofNat 64) s

/-- `st.d` (R58): g(gd)[63:0]. -/
def execStD (f : FmtSI) (s : State) : Out := scalarStore f 8 s

/-- `st.w` (R58): g(gd)[31:0]. -/
def execStW (f : FmtSI) (s : State) : Out := scalarStore f 4 s

/-- `st.h` (R58): g(gd)[15:0]. -/
def execStH (f : FmtSI) (s : State) : Out := scalarStore f 2 s

/-- `st.b` (R58): g(gd)[7:0]. -/
def execStB (f : FmtSI) (s : State) : Out := scalarStore f 1 s

end Sys2Proof.Machine
end

