-- ==== Sys2Proof/Machine/Teams.lean ====
section
/-!
DEFINITION. Teams, coordinates and scope instances (R16, R249, R281, R282).
-/
namespace Sys2Proof.Machine

/-- A team by number. -/
def State.team (s : State) (n : Nat) : Option Team := s.teams.find? (fun t => t.num == n)

/-- A record of one thread, for a thread that no launch placed. -/
def LaunchRecord.single : LaunchRecord :=
  { entry := 0, param := 0, save := 0, tpc := 1, cps := 1, spc := 1, cpt := 1, tr := 1, prio := 0, deps := [], done := 0, bars := 0 }

/-- The launch record of the current thread's team. -/
def State.record (s : State) : LaunchRecord := match s.team s.cur.team with | some t => t.record | none => LaunchRecord.single

/-- T, the threads of a team (R281). -/
def LaunchRecord.threads (r : LaunchRecord) : Nat := r.tpc * r.cps * r.spc * r.cpt * r.tr

/-- The threads of one instance of a scope (R249). -/
def LaunchRecord.span (r : LaunchRecord) : Nat → Nat
  | 0 => r.tpc
  | 1 => r.tpc * r.cps
  | 2 => r.tpc * r.cps * r.spc
  | 3 => r.tpc * r.cps * r.spc * r.cpt
  | _ => r.threads

/-- The number of the scope instance that a logical thread belongs to (R249). -/
def LaunchRecord.instanceOf (r : LaunchRecord) (scope n : Nat) : Nat := n / max 1 (r.span scope)

/-- A logical thread's crew. -/
def LaunchRecord.crew (r : LaunchRecord) (n : Nat) : Nat := r.instanceOf 0 n

/-- The crews of the team in the scope instance of a crew (R264). -/
def LaunchRecord.crewsWith (r : LaunchRecord) (scope crew : Nat) : List Nat :=
  (List.range (r.threads / max 1 r.tpc)).filter (fun c => r.instanceOf scope (c * r.tpc) == r.instanceOf scope (crew * r.tpc))

/-- The logical coordinates (t, c, s, k, x) of a logical thread (R281). -/
def LaunchRecord.coords (r : LaunchRecord) (n : Nat) : List Nat :=
  [n % max 1 r.tpc, n / max 1 r.tpc % max 1 r.cps, n / max 1 (r.tpc * r.cps) % max 1 r.spc,
   n / max 1 (r.tpc * r.cps * r.spc) % max 1 r.cpt, n / max 1 (r.tpc * r.cps * r.spc * r.cpt)]

/-- The current thread's crew. -/
def State.crew (s : State) : Nat := s.record.crew s.cur.lthread

/-- Whether a scope's instance of one thread contains another (R249): codes 4 and 5 contain every thread of the package. -/
def State.scopeHas (s : State) (scope : Nat) (a b : Thread) : Bool :=
  if 4 ≤ scope then true
  else
    let r := match s.team a.team with | some t => t.record | none => LaunchRecord.single
    a.team == b.team && r.instanceOf scope a.lthread == r.instanceOf scope b.lthread

/-- Mutually scoped (R250): each scope's instance contains the other thread. -/
def State.mutuallyScoped (s : State) (sa : Nat) (a : Thread) (sb : Nat) (b : Thread) : Bool :=
  s.scopeHas sa a b && s.scopeHas sb b a

/-- The physical core of a slot (R15). -/
def coreOf (slot : Nat) : Nat := slot / 4

/-- The stand of a slot, over the whole package: cores in eights (R15). -/
def standOf (slot : Nat) : Nat := slot / 32

end Sys2Proof.Machine
end

