-- ==== Sys2Proof/Machine/Atomics.lean ====
section
/-!
DEFINITION. Strong accesses, scalar atomics, acquire loads, release stores, the fence, await and wake (R249 to R259).
-/
namespace Sys2Proof.Machine

/-- Whether two byte ranges overlap. -/
def overlaps (a n b m : Nat) : Bool := decide (a < b + m ∧ b < a + n)

/-- The 0x4C check (R251): size-strict mode with debug set, the last strong access recorded for the sector overlaps this one and had
another size. The record may have been lost with its line (log entry 10). -/
def State.sizeTrap (s : State) (pa n : Nat) : Bool :=
  !s.cur.amode.getLsbD 0 && s.cur.amode.getLsbD 1 &&
    (match s.sizes.find? (fun r => r.sector == pa / 32) with
     | some r => r.size != n && overlaps r.addr r.size pa n && Config.sizeRecordKept s.tick
     | none => false)

/-- The 0x4C check as a scalar access makes it, after those of R59. -/
def strongExtra (n : Nat) : State → Nat → Option ScalarFail := fun s pa => if s.sizeTrap pa n then some (0x4C, 0) else none

/-- A strong read (R250, R251): bytes whose last strong access had another size are unpredictable from now on. -/
def State.strongRead (s : State) (pa n : Nat) : List Byte × State :=
  let s1 := (s.addWildBytes (s.mixedBytes pa n)).noteStrong pa n
  (s1.read pa n, s1)

/-- A strong write (R250, R251): bytes whose last strong access had another size are unpredictable after it; any other byte is what it
wrote. -/
def State.strongWrite (s : State) (pa : Nat) (bs : List Byte) : State :=
  let mixed := s.mixedBytes pa bs.length
  ((s.write pa bs).noteStrong pa bs.length).addWildBytes mixed

/-- One indivisible read-modify-write (R250, R253): the old value, and the machine after; `op` answers none where nothing is
written. -/
def State.strongUpdate (s : State) (pa n : Nat) (op : Nat → Option Nat) : Nat × State :=
  let mixed := s.mixedBytes pa n
  let (bs, s1) := s.strongRead pa n
  let old := leNat bs
  (old, match op old with
    | some x => (s1.strongWrite pa (leBytes n x)).addWildBytes mixed
    | none => s1)

/-- Whether an order releases: rel or ar (R254). -/
def releases (order : BitVec 2) : Bool := order.getLsbD 1

/-- A scalar atomic of `n` bytes (R252, R253). A release waits until every older entry has retired (R258). The old value is
sign-extended into gd. -/
def scalarAtomic (f : FmtAtomic) (n : Nat) (op : Nat → Nat → Nat → Option Nat) (s : State) : Out :=
  s.scalar false [(f.ga, f.sa, 0), (f.gb, f.sb, 1)] [f.gd] (fun s =>
    if releases f.order && !s.cur.drained then s
    else
      let b := (s.cur.gread f.gb).toNat % 2 ^ (8 * n)
      let d := (s.cur.gread f.gd).toNat % 2 ^ (8 * n)
      s.scalarAccessIf (s.cur.gread f.ga) n Need.both true (strongExtra n) (fun s pa => (op (leNat (s.strongRead pa n).1) b d).isSome) (fun s pa =>
        let (old, s') := s.strongUpdate pa n (fun m => op m b d)
        s'.mod (fun t => (t.gwrite f.gd (sextFrom (8 * n) old)).next)))

/-- Signed order of `w`-bit values. -/
def sLess (w a b : Nat) : Bool := decide (signedOf w a < signedOf w b)

/-- `aswp.w` (R252, R253): b. -/
def execAswpW (f : FmtAtomic) (s : State) : Out := scalarAtomic f 4 (fun _ b _ => some b) s

/-- `aadd.w` (R252, R253): m + b modulo 2^w. -/
def execAaddW (f : FmtAtomic) (s : State) : Out := scalarAtomic f 4 (fun m b _ => some ((m + b) % 2 ^ 32)) s

/-- `aand.w` (R252, R253): m & b. -/
def execAandW (f : FmtAtomic) (s : State) : Out := scalarAtomic f 4 (fun m b _ => some (m &&& b)) s

/-- `aor.w` (R252, R253): m | b. -/
def execAorW (f : FmtAtomic) (s : State) : Out := scalarAtomic f 4 (fun m b _ => some (m ||| b)) s

/-- `axor.w` (R252, R253): m ^ b. -/
def execAxorW (f : FmtAtomic) (s : State) : Out := scalarAtomic f 4 (fun m b _ => some (m ^^^ b)) s

/-- `amin.w` (R252, R253): the smaller, signed. -/
def execAminW (f : FmtAtomic) (s : State) : Out := scalarAtomic f 4 (fun m b _ => some (if sLess 32 m b then m else b)) s

/-- `amax.w` (R252, R253): the larger, signed. -/
def execAmaxW (f : FmtAtomic) (s : State) : Out := scalarAtomic f 4 (fun m b _ => some (if sLess 32 m b then b else m)) s

/-- `aminz.w` (R252, R253): the smaller, unsigned. -/
def execAminzW (f : FmtAtomic) (s : State) : Out := scalarAtomic f 4 (fun m b _ => some (min m b)) s

/-- `amaxz.w` (R252, R253): the larger, unsigned. -/
def execAmaxzW (f : FmtAtomic) (s : State) : Out := scalarAtomic f 4 (fun m b _ => some (max m b)) s

/-- `acas.w` (R252, R253): b if m = g(gd), otherwise no write. -/
def execAcasW (f : FmtAtomic) (s : State) : Out := scalarAtomic f 4 (fun m b d => if m = d then some b else none) s

/-- `aswp.d` (R252, R253): b. -/
def execAswpD (f : FmtAtomic) (s : State) : Out := scalarAtomic f 8 (fun _ b _ => some b) s

/-- `aadd.d` (R252, R253): m + b modulo 2^w. -/
def execAaddD (f : FmtAtomic) (s : State) : Out := scalarAtomic f 8 (fun m b _ => some ((m + b) % 2 ^ 64)) s

/-- `aand.d` (R252, R253): m & b. -/
def execAandD (f : FmtAtomic) (s : State) : Out := scalarAtomic f 8 (fun m b _ => some (m &&& b)) s

/-- `aor.d` (R252, R253): m | b. -/
def execAorD (f : FmtAtomic) (s : State) : Out := scalarAtomic f 8 (fun m b _ => some (m ||| b)) s

/-- `axor.d` (R252, R253): m ^ b. -/
def execAxorD (f : FmtAtomic) (s : State) : Out := scalarAtomic f 8 (fun m b _ => some (m ^^^ b)) s

/-- `amin.d` (R252, R253): the smaller, signed. -/
def execAminD (f : FmtAtomic) (s : State) : Out := scalarAtomic f 8 (fun m b _ => some (if sLess 64 m b then m else b)) s

/-- `amax.d` (R252, R253): the larger, signed. -/
def execAmaxD (f : FmtAtomic) (s : State) : Out := scalarAtomic f 8 (fun m b _ => some (if sLess 64 m b then b else m)) s

/-- `aminz.d` (R252, R253): the smaller, unsigned. -/
def execAminzD (f : FmtAtomic) (s : State) : Out := scalarAtomic f 8 (fun m b _ => some (min m b)) s

/-- `amaxz.d` (R252, R253): the larger, unsigned. -/
def execAmaxzD (f : FmtAtomic) (s : State) : Out := scalarAtomic f 8 (fun m b _ => some (max m b)) s

/-- `acas.d` (R252, R253): b if m = g(gd), otherwise no write. -/
def execAcasD (f : FmtAtomic) (s : State) : Out := scalarAtomic f 8 (fun m b d => if m = d then some b else none) s

/-- An acquire load of `n` bytes at g(ga) (R256). -/
def loadAcquire (f : FmtMem) (n : Nat) (ext : Nat → Word) (s : State) : Out :=
  s.scalar false [(f.ga, f.sa, 0)] [f.gd] (fun s =>
    s.scalarAccess (s.cur.gread f.ga) n Need.load false (strongExtra n) (fun s pa =>
      let (bs, s') := s.strongRead pa n
      s'.mod (fun t => (t.gwrite f.gd (ext (leNat bs))).next)))

/-- A release store of the low `n` bytes of g(gd) at g(ga) (R256); it waits until every older entry has retired (R258). -/
def storeRelease (f : FmtMem) (n : Nat) (s : State) : Out :=
  s.scalar false [(f.ga, f.sa, 0)] [f.gd] (fun s =>
    if !s.cur.drained then s
    else
      s.scalarAccess (s.cur.gread f.ga) n Need.store true (strongExtra n) (fun s pa =>
        (s.strongWrite pa (leBytes n (s.cur.gread f.gd).toNat)).mod Thread.next))

/-- `ld.acq.w` (R256): a word, sign-extended. -/
def execLdAcqW (f : FmtMem) (s : State) : Out := loadAcquire f 4 (sextFrom 32) s

/-- `ld.acq.d` (R256): a doubleword. -/
def execLdAcqD (f : FmtMem) (s : State) : Out := loadAcquire f 8 (BitVec.ofNat 64) s

/-- `st.rel.w` (R256): the low word. -/
def execStRelW (f : FmtMem) (s : State) : Out := storeRelease f 4 s

/-- `st.rel.d` (R256): the doubleword. -/
def execStRelD (f : FmtMem) (s : State) : Out := storeRelease f 8 s

/-- `fence.sc` (R257): it completes once every earlier access of the thread is visible, that is, once every older entry has
retired; memory here is sequentially consistent already (log entry 1). -/
def execFenceSc (_f : FmtMem) (s : State) : Out :=
  s.scalar false [] [] (fun s => if !s.cur.drained then s else s.mod Thread.next)

/-- What an await sleeps on: the sector and its scope. -/
def awaitKey (pa : Nat) (scope : BitVec 3) : Nat := pa / 32 * 8 + scope.toNat

/-- `await` (R259): an acquire load of the doubleword; where it differs from g(gb), or the thread was woken, g(gd) receives it;
otherwise the thread sleeps on the sector and the instruction issues again. -/
def execAwait (f : FmtMem) (s : State) : Out :=
  s.scalar false [(f.ga, f.sa, 0), (f.gb, f.sb, 1)] [f.gd] (fun s =>
    s.scalarAccess (s.cur.gread f.ga) 8 Need.load false (strongExtra 8) (fun s pa =>
      let (bs, s') := s.strongRead pa 8
      let x := BitVec.ofNat 64 (leNat bs)
      if x ≠ s.cur.gread f.gb ∨ s.cur.woken then
        s'.mod (fun t => ({ t with asleep := none, woken := false } : Thread).gwrite f.gd x |>.next)
      else s'.mod (fun t => { t with asleep := some (awaitKey pa f.scope), woken := false })))

/-- Wakes a thread that sleeps on this sector and is mutually scoped with the waker (R259). -/
def State.wakeOne (s : State) (pa : Nat) (scope : BitVec 3) (t : Thread) : Thread :=
  match t.asleep with
  | some k => if k / 8 = pa / 32 ∧ s.mutuallyScoped scope.toNat s.cur (k % 8) t then { t with woken := true } else t
  | none => t

/-- `wake` (R259): checked as a store of one byte; it writes nothing and wakes every thread awaiting the sector within the scope. -/
def execWake (f : FmtMem) (s : State) : Out :=
  s.scalar false [(f.ga, f.sa, 0)] [] (fun s =>
    let ea := s.cur.gread f.ga
    match s.scalarCheck s.cur.ctx ea.toNat 1 Need.store with
    | (.error x, _) => s.accessTrap x ea 1 true
    | (.ok (pa, _), _) => { s with others := s.others.map (s.wakeOne pa f.scope), cur := s.cur.next })

/-- AWAIT_WAKEUP (R259): the core wakes a sleeping await at a time of its choosing; it reads its location again. -/
def execAwaitWakeup (slot : Nat) (s : State) : Out :=
  let up := fun (t : Thread) => if t.slot = slot ∧ t.asleep.isSome then { t with woken := true } else t
  .next { s with cur := up s.cur, others := s.others.map up }

end Sys2Proof.Machine
end

