-- ==== Sys2Proof/Machine/System.lean ====
section
/-!
DEFINITION. The system major (R322 to R328) and the scalar forms of major 0x1D: exit, yield and self (R300 to R302).
-/
namespace Sys2Proof.Machine

/-- The number of a `trap` (R323): bits [20:11] of the word. -/
def trapNumber (f : FmtSR) : BitVec 10 := f.ga ++ f.gb

/-- `trap n` (R323): cause 0x46 once every older entry has retired; EPC the next word, EADDR the trap's PC, EINFO n. -/
def execTrap (f : FmtSR) (s : State) : Out :=
  s.scalar false [] [] (fun s =>
    if !s.cur.drained then s
    else s.mod (fun t => t.enterTrap 0x46 false (t.pc + 4) t.pc ((trapNumber f).zeroExtend 64)))

/-- `eret` (R324): privileged; waits until every entry that is not held has retired, then leaves the handler. -/
def execEret (_f : FmtSR) (s : State) : Out :=
  s.scalar true [] [] (fun s => if !s.cur.drained then s else s.mod Thread.leaveTrap)

/-- `ifence` (R325): what the thread has fetched ahead is discarded. It waits for the thread's earlier stores, so that what it fetches next is
what a read placed here may return (R275). -/
def execIfence (_f : FmtSR) (s : State) : Out :=
  s.scalar false [] [] (fun s => if !s.memoryClear then s else s.mod (fun t => { t with fetched := [] } |>.next))

/-- Whether the pages of two powers of two overlap. -/
def pageMeets (va bits a : Nat) : Bool := va / 2 ^ bits == a / 2 ^ bits

/-- The elements that a stream has landed through one of these translations are gone: they are fetched again (R326). -/
def Stream.dropThrough (gone : List TlbEntry) (q : Stream) : Stream :=
  { q with ahead := q.ahead.filter (fun x => !gone.any (fun e =>
      (e.global || e.ctx == x.ctx) && pageMeets e.va e.bits (q.base.toNat + typeWidth (vtMem q.vt) / 8 * x.elem))) }

/-- What a thread's streams have landed through translations that were removed (R326), in whichever context the thread is now. -/
def Thread.dropThrough (part : Nat) (gone : List TlbEntry) (t : Thread) : Thread :=
  if t.part.toNat = part then { t with q := t.q.map (Stream.dropThrough gone) } else t

/-- Every pin (R175, R238): of the copies past their dispatch, and of the ring engines. -/
def State.pins (s : State) : List Pin := s.pinning.flatMap (·.pins) ++ (s.rings.toList.filter (·.pinned)).flatMap (·.pins)

/-- A tlbinv (R326): once every earlier access of the thread has taken effect it removes the partition's entries that `hits` names
(context, global, page, log2 of its size) with what the streams have landed through them, and it waits while a pin covers a removed
translation (R175, R238). -/
def State.tlbInvalidate (s : State) (hits : Nat → Bool → Nat → Nat → Bool) : State :=
  if !s.memoryClear then s
  else
    let part := s.cur.part.toNat
    let named := fun (e : TlbEntry) => e.part == part && hits e.ctx e.global e.va e.bits
    let gone := s.tlb.filter named
    let s1 := { s with tlb := s.tlb.filter (fun e => !named e), cur := s.cur.dropThrough part gone, others := s.others.map (Thread.dropThrough part gone) }
    if s.pins.any (fun p => p.part == part && hits p.ctx p.global p.va p.bits) then s1 else s1.mod Thread.next

/-- `tlbinv.all` (R326): every entry of the partition. -/
def execTlbinvAll (_f : FmtSR) (s : State) : Out :=
  s.scalar true [] [] (fun s => s.tlbInvalidate (fun _ _ _ _ => true))

/-- `tlbinv.ctx` (R326): the entries with G = 0 of context g(ga)[11:0]. -/
def execTlbinvCtx (f : FmtSR) (s : State) : Out :=
  s.scalar true [(f.ga, f.sa, 0)] [] (fun s =>
    s.tlbInvalidate (fun ctx global _ _ => !global && ctx == (s.cur.gread f.ga).toNat % 2 ^ 12))

/-- `tlbinv.va` (R326): the entries that map g(ga), of context g(gb)[11:0] or with G = 1. -/
def execTlbinvVa (f : FmtSR) (s : State) : Out :=
  s.scalar true [(f.ga, f.sa, 0), (f.gb, f.sb, 1)] [] (fun s =>
    s.tlbInvalidate (fun ctx global va bits =>
      (global || ctx == (s.cur.gread f.gb).toNat % 2 ^ 12) && pageMeets va bits (s.cur.gread f.ga).toNat))

/-- A line leaves every cache: its frame may now change key slot, FMT bit or way class (R328). -/
def State.flushLine (s : State) (line : Nat) : State :=
  { s with lines := s.lines.map (fun t => if t.line = line then { t with seen := none } else t) }

/-- cflush and cclean (R328): the checks of a one-byte scalar load without its alignment; no value changes. An error in the data
does not stop them: a poisoned sector is written back poisoned. Neither is an access: the line keeps what it was accessed as. -/
def lineOperation (flush : Bool) (f : FmtSR) (s : State) : Out :=
  s.scalar false [(f.ga, f.sa, 0)] [] (fun s =>
    let ea := s.cur.gread f.ga
    let act := fun (s : State) => match s.translate s.cur.ctx ea.toNat with
      | .leaf l => if flush then s.flushLine (l.pa ea.toNat / 128) else s
      | _ => s
    match (s.scalarCheck s.cur.ctx ea.toNat 1 Need.load).1 with
    | .error (cause, level) => if cause = 0x07 then (act s).mod Thread.next else s.accessTrap (cause, level) ea 1 false
    | .ok _ => (act s).mod Thread.next)

/-- `cflush` (R328): the line leaves every cache. -/
def execCflush (f : FmtSR) (s : State) : Out := lineOperation true f s

/-- `cclean` (R328): the line is written back and stays cached. -/
def execCclean (f : FmtSR) (s : State) : Out := lineOperation false f s

/-- `cfetch` (R328): a hint that never traps. -/
def execCfetch (f : FmtSR) (s : State) : Out := s.scalar false [(f.ga, f.sa, 0)] [] (fun s => s.mod Thread.next)

/-- What tlbprobe answers (R327): the leaf, or the level of the first entry that is not valid in bits [9:8]. DESIGN CHOICE (log entry 4):
tables that KEYDEF does not let be read have no valid root entry. -/
def probeResult : Walk → Word
  | .leaf l => l.word
  | .invalid level => BitVec.ofNat 64 (256 * level)
  | .refused => BitVec.ofNat 64 (256 * 3)

/-- `tlbprobe` (R327): walks g(ga) under PTB without TLB, A or D; the walk sees the thread's earlier stores (R319). -/
def execTlbprobe (f : FmtSR) (s : State) : Out :=
  s.scalar true [(f.ga, f.sa, 0)] [f.gd] (fun s =>
    if !s.memoryClear then s
    else s.mod (fun t => (t.gwrite f.gd (probeResult (s.walk t.ctx (t.gread f.ga).toNat))).next))

/-- Whether copies or sealed-record operations of a thread are in flight (R179). -/
def State.engineBusy (s : State) (team lthread : Nat) : Bool :=
  s.copies.any (fun c => c.team == team && c.lthread == lthread) || s.seals.any (fun o => o.team == team && o.lthread == lthread)

/-- A list with its n-th element replaced. -/
def setNth {α : Type} (n : Nat) (x : α) (l : List α) : List α := l.mapIdx (fun i y => if i = n then x else y)

/-- An engine whose consumer is gone (R240): it is free for another binding, and a broken one releases its pins (R245). -/
def Ring.unbound (r : Ring) : Ring := { r with user := none, pinned := r.pinned && r.state != .broken }

/-- The ring bindings that a stream register ends with (R240). -/
def State.unbindRing (s : State) (team lthread q : Nat) : State :=
  { s with rings := s.rings.map (fun r =>
      if r.user = some (team, lthread, q) then r.unbound else r) }

/-- Every stream register of the current thread freed (R165, R240). -/
def State.freeStreams (s : State) : State :=
  let s1 := (List.range 8).foldl (fun s q => s.unbindRing s.cur.team s.cur.lthread q) s
  s1.mod (fun t => { t with q := Vector.replicate 8 Stream.unboundReset })

/-- `exit` (R300): once every entry has retired and every copy and sealed operation has landed, the thread's streams are freed, its
bind record says exited and the slot stops. -/
def execExit (_f : FmtSR) (s : State) : Out :=
  s.scalar false [] [] (fun s =>
    if !s.cur.drained || s.engineBusy s.cur.team s.cur.lthread then s
    else
      let t := s.cur
      { s.freeStreams.mod (fun t => { t with status := .exited }) with
        binds := s.binds.map (fun b => if b.slot = t.slot ∧ b.valid then { b with exited := true } else b)
        teams := s.teams.map (fun x => if x.num = t.team then { x with exited := setNth t.lthread true x.exited } else x) })

/-- `yield` (R301): a hint without an effect. -/
def execYield (_f : FmtSR) (s : State) : Out := s.scalar false [] [] (fun s => s.mod Thread.next)

/-- The seven fields of a `self` result (R302), in its columns: five bytes, a 16-bit field, a byte. -/
def selfWord (a b c d e : Nat) (h : Nat) : Word :=
  BitVec.ofNat 64 (a % 256 + 2 ^ 8 * (b % 256) + 2 ^ 16 * (c % 256) + 2 ^ 24 * (d % 256) + 2 ^ 32 * (e % 256) + 2 ^ 40 * (h % 65536))

/-- The launch number of the current thread's team (R286). -/
def State.launchNumber (s : State) : Nat := match s.team s.cur.team with | some t => t.launch | none => 0

/-- What `self` answers for a selector (R302). -/
def State.selfValue (s : State) (sel : Nat) : Option Word :=
  let t := s.cur
  let r := s.record
  match sel with
  | 0 =>
    let c := r.coords t.lthread
    some (selfWord (c.getD 0 0) (c.getD 1 0) (c.getD 2 0) (c.getD 3 0) (c.getD 4 0) t.lthread)
  | 1 => some (selfWord r.tpc r.cps r.spc r.cpt r.tr r.threads)
  | 2 => some (selfWord (t.slot % 4) (t.slot / 4 % 8) (t.slot / 32 % 4) (t.slot / 128 % 4) (t.slot / 512) t.slot)
  | 3 => some (selfWord t.pipes.toNat (pipesOwned t.pipes .m) (pipesOwned t.pipes .l) (pipesOwned t.pipes .s) (pipesOwned t.pipes .p)
                (pipesOwned t.pipes .x))
  | 4 => some (selfWord r.prio t.part.toNat 0 0 0 s.launchNumber)
  | 5 => some (selfWord t.lg 0 0 0 0 t.vlen)
  | _ => none

/-- `self` (R302): coordinates, shape, place, pipes, launch or vector length; a selector of 6 or more is illegal. -/
def execSelf (f : FmtSR) (s : State) : Out :=
  match s.selfValue f.gb.toNat with
  | none => .next (s.wordTrap 0x40)
  | some x => s.scalar false [] [f.gd] (fun s => s.mod (fun t => (t.gwrite f.gd x).next))

end Sys2Proof.Machine
end

