-- ==== Sys2Proof/Machine/Vector.lean ====
section
/-!
DEFINITION. What the vector instructions of majors 0x28 to 0x2F share: type classes, element loops, sources, destinations and
register-file errors (R90, R101, R103, R106).
-/
namespace Sys2Proof.Machine

/-- A type check of an instruction that depends on VT (R50, R101): VT.ILL clear and the type in a class. -/
def typeIn (ok : Nat → Bool) (vt : BitVec 13) : Bool := !vt.getLsbD 12 && ok (vtType (vt.extractLsb' 0 12))

/-- Classes I and F (R101). -/
def isNumeric (c : Nat) : Bool := isInt c || isFloat c

/-- Every register type (R111). -/
def anyType (_c : Nat) : Bool := true

/-- The all-false guard of a V word (R34). -/
def noneActive (f : FmtV) : Bool := allFalse f.guard f.gneg

/-- The width of the type of a view. -/
def View.width (v : View) : Nat := typeWidth (vtType v.vt)

/-- VLMAX under the type of a view. -/
def View.vlmax (v : View) (t : Thread) : Nat := vlmaxOf t.vlen v.vt

/-- Runs `body` for each active element of ES..v-1 in order (R10, R34). -/
def forActive (guard : BitVec 3) (gneg : Bool) (v : Nat) (view : View) (body : Nat → Acc → Acc) (a : Acc) : Acc :=
  Acc.loop (fun i a => if guardBit a.s.cur guard gneg i then body i a else a) view.es (v - view.es) a

/-- The active indices of ES..v-1, in order. -/
def activeList (t : Thread) (guard : BitVec 3) (gneg : Bool) (es v : Nat) : List Nat :=
  ((List.range (v - es)).map (fun k => es + k)).filter (guardBit t guard gneg)

/-- Register groups named by fields, for 0x48 (R48, R76): register, size and EINFO.opnd. -/
def groupsOf (fields : List (BitVec 5 × Nat)) : BitVec 32 → BitVec 12 → List (Nat × Nat × Nat) :=
  fun _ vt => fields.map (fun x => (x.1.toNat, vtGroup vt, x.2))

/-- A vector source of width w (R39): the groups that hold its elements in ES..VL-1. -/
def sourceOf (strict : Bool) (opnd : Nat) (reg : BitVec 5) (w : Nat) (view : View) (t : Thread) : VSource :=
  { strict := strict, opnd := opnd, base := reg.toNat, groups := groupMask t.lg reg.toNat w view.es view.vl }

/-- The groups of the destination register group that hold elements in ES..VL-1 (R36). -/
def destOf (reg : BitVec 5) (w : Nat) (view : View) (t : Thread) : BitVec 256 := groupMask t.lg reg.toNat w view.es view.vl

/-- A data error in element i of a source found after the trim point (R90): the lowest such element is recorded for the trap at
retirement. -/
def Acc.defer (a : Acc) (view : View) (w i : Nat) (sub : Nat := 0) : Acc :=
  match a.deferred with
  | some _ => a
  | none =>
    let record := trcOf { elem := i, cause := 0x07, sub := sub, addr := 0, lane := a.s.laneOf w i } i view.seq
    { a with deferred := some { cause := 0x07, addr := 0, info := record } }

/-- Poisons a destination element (R90). -/
def Acc.poisonElem (a : Acc) (base w i : Nat) : Acc := a.mod (fun t => t.poisonElem base w i)

/-- Whether the trim point of an arithmetic entry is its dispatch (R89): every FEN bit clear. -/
def Thread.trimsAtDispatch (t : Thread) : Bool := t.fen == 0

/-- One element of an element-wise instruction (R9, R103, R106): its sources are read when its turn comes in the loop of R106, its flags
raised, its result written. A register-file error in a source fails it, or after the trim point poisons its result (R90). `w` is the
width whose lane is reported; `dst` the destination register and width. -/
def elementStep (view : View) (w : Nat) (srcs : List (Nat × Nat)) (dst : Nat × Nat) (op : Thread → Nat → FRes) (i : Nat)
    (a : Acc) : Acc :=
  let t := a.s.cur
  let bad := srcs.any (fun x => t.elemBad x.1 x.2 i)
  if bad && !t.trimsAtDispatch then a.failElem w i 0x07 0
  else
    let (r, fl) := op t i
    let a1 := a.raise w i fl
    if !a1.ok then a1
    else
      let a2 := a1.setElem dst.1 dst.2 i r
      if bad then (a2.poisonElem dst.1 dst.2 i).defer view w i else a2

/-- The rounding mode in FRM. -/
def Thread.rm (t : Thread) : Rm := t.frm.toNat

/-- An element-wise instruction of a V word on the type in VT (R106). `binary` says whether vb is a vector source, `reads` whether
vd is a source too; `op` has the type code, the rounding mode and the elements of vd, va and vb. -/
def elementWise (f : FmtV) (ok : Nat → Bool) (binary reads : Bool) (op : Nat → Rm → Nat → Nat → Nat → FRes) : Desc :=
  { typeOk := typeIn ok
    align := groupsOf ([(f.va, 0)] ++ (if binary then [(f.vb, 1)] else []) ++ [(f.vd, 2)])
    pipes := [.m]
    steps := (true, true, binary)
    sources := fun view t => sourceOf f.sa 0 f.va view.width view t :: (if binary then [sourceOf f.sb 1 f.vb view.width view t] else [])
    dst := fun view t => destOf f.vd view.width view t
    early := Thread.trimsAtDispatch
    flagged := fun vt => isFloat (vtType vt)
    allFalse := noneActive f
    run := fun v view a =>
      let w := view.width
      let ty := vtType view.vt
      let srcs := (f.va.toNat, w) :: ((if binary then [(f.vb.toNat, w)] else []) ++ (if reads then [(f.vd.toNat, w)] else []))
      forActive f.guard f.gneg v view (elementStep view w srcs (f.vd.toNat, w) (fun t i =>
        op ty t.rm (if reads then t.elem f.vd.toNat w i else 0) (t.elem f.va.toNat w i)
          (if binary then t.elem f.vb.toNat w i else 0))) a }

/-- The vector-scalar form of an element-wise instruction (R108): the low bits of the captured g(vb) stand for every element of vb. -/
def elementScalar (f : FmtV) (ok : Nat → Bool) (reads : Bool) (op : Nat → Rm → Nat → Nat → Nat → FRes) : Desc :=
  { elementWise f ok false reads op with
    scalars := [(f.vb, f.sb, 1)]
    run := fun v view a =>
      let w := view.width
      let ty := vtType view.vt
      let srcs := (f.va.toNat, w) :: (if reads then [(f.vd.toNat, w)] else [])
      let b := view.opa.toNat % 2 ^ w
      forActive f.guard f.gneg v view (elementStep view w srcs (f.vd.toNat, w) (fun t i =>
        op ty t.rm (if reads then t.elem f.vd.toNat w i else 0) (t.elem f.va.toNat w i) b)) a }

/-! ## Exponent side-files -/

/-- Elements of a register block (R123): 32 of b8, 64 of b4. -/
def blockSpan (ty : Nat) : Nat := if ty = 0x0D then 64 else 32

/-- Register blocks of one register (R123): 256 bits of codes each. -/
def Thread.blocksPerReg (t : Thread) : Nat := t.vlen / 256

/-- Side-file entry of block k, counting through the group at `base` (R123). -/
def Thread.sideEntry (t : Thread) (base k : Nat) : Nat :=
  let n := max 1 t.blocksPerReg
  ((t.sideRead (base + k / n)).extractLsb' (16 * (k % n)) 16).toNat

/-- The error bits of a register's side-file entries (R133). -/
def Thread.sideErrors (t : Thread) (r : Nat) : BitVec 32 := t.sideBad[r % 32]'(Nat.mod_lt _ (by decide))

/-- Whether the side-file entry of block k of the group at `base` holds an uncorrected error (R133). -/
def Thread.sideIsBad (t : Thread) (base k : Nat) : Bool :=
  let n := max 1 t.blocksPerReg
  (t.sideErrors (base + k / n)).getLsbD (k % n)

/-- Sets or clears the error of one side-file entry of register r. -/
def Thread.sideMark (t : Thread) (r k : Nat) (bad : Bool) : Thread :=
  { t with sideBad := t.sideBad.set (r % 32) (setField (t.sideErrors r) k 1 (if bad then 1 else 0)) (Nat.mod_lt _ (by decide)) }

/-- Writes the side-file entry of block k of the group at `base`, which is then free of any error. -/
def Acc.setSide (a : Acc) (base k x : Nat) : Acc :=
  let n := max 1 a.s.cur.blocksPerReg
  let r := (base + k / n) % 32
  { a with
    s := a.s.mod (fun t => (t.sideWrite r (setField (t.sideRead r) (16 * (k % n)) 16 x)).sideMark r (k % n) false)
    dirty := a.dirty ||| BitVec.ofNat 64 (2 ^ r)
    wrote := a.wrote ||| groupMask a.s.cur.lg base 256 k (k + 1) }

/-- Marks the side-file entry of block k of the group at `base` as holding an uncorrected error (R90, R133). -/
def Acc.poisonSide (a : Acc) (base k : Nat) : Acc :=
  let n := max 1 a.s.cur.blocksPerReg
  a.mod (fun t => t.sideMark (base + k / n) (k % n) true)

/-- The register blocks that hold an element of a list, each once, in order. -/
def blocksOf (span : Nat) (l : List Nat) : List Nat := (l.map (fun i => i / span)).eraseDups

end Sys2Proof.Machine
end

