-- ==== Sys2Proof/Machine/Access.lean ====
section
/-!
DEFINITION. The checks and accesses of one element or block of a vector memory instruction (R85, R86, R126 to R131, R146, R155
to R157), and the writes of a whole store (R148, R157).
-/
namespace Sys2Proof.Machine

/-- A cause that an element meets: cause, subcode, TRA. -/
structure Cand where
  cause : BitVec 8
  sub : Nat
  addr : Nat
  deriving DecidableEq, Repr

/-- The order of causes at one element (R85). -/
def causeRank (c : BitVec 8) : Nat :=
  (([0x04, 0x01, 0x02, 0x03, 0x0D, 0x0B, 0x0E, 0x07, 0x0A, 0x09, 0x0C, 0x05, 0x06] : List (BitVec 8)).findIdx? (fun x => x == c)).getD 13

/-- The cause that R85 records, the first listed among equals. -/
def firstCand : List Cand → Option Cand
  | [] => none
  | x :: xs => match firstCand xs with
    | some y => if causeRank y.cause < causeRank x.cause then some y else some x
    | none => some x

/-- Whether a block type reaches a page part (R126): none, or the subcode of 0x0D. -/
def formatSub (fmt : Bool) (region : Option Region) (block : Option Nat) : Option Nat :=
  match fmt, region, block with
  | true, some r, some ty => if r.type = ty then none else some 0
  | true, some _, none => some 2
  | true, none, _ => some 1
  | false, some _, _ => some 2
  | false, none, some _ => some 0
  | false, none, none => none

/-- What the checks of one span of bytes find: the causes, and where it lies. -/
structure Reach where
  cands : List Cand
  va : Nat
  pa : Nat
  leaf : Leaf
  ns : Bool
  size : Nat
  write : Bool
  deriving DecidableEq, Repr

/-- A leaf that stands for none. -/
def noLeaf : Leaf := { word := 0, at_ := 0, bits := 12 }

/-- Whether no leaf gave a part a physical address: beyond the virtual space, not present, or tables that cannot be read (R335). -/
def Reach.unmapped (r : Reach) : Bool := r.leaf == noLeaf

/-- The page that a reached part lies on, as a pin holds it (R175, R238): all of the leaf's page. -/
def Reach.pin (c : Ctx) (r : Reach) : Pin :=
  { part := c.part, ctx := ctxOf c.ptb, global := leafBit r.leaf.word 14, va := r.va / 2 ^ r.leaf.bits * 2 ^ r.leaf.bits
    pa := leafFrame r.leaf.word, bits := r.leaf.bits, at_ := r.leaf.at_ }

/-- An address as TRA holds it. -/
def addrOf (va : Int) : Nat := (BitVec.ofInt 64 va).toNat

/-- The checks of one page part: `n` bytes at `va`, inside one page (R155). `oob` is what an address beyond the virtual space
gives. The data of a block is checked as a whole (R127). -/
def State.reachPart (s : State) (c : Ctx) (va : Int) (n : Nat) (need : Need) (block : Option Nat) (oob : Cand) : Reach × State :=
  if va < 0 ∨ (2 ^ 56 : Nat) ≤ va then ({ cands := [oob], va := addrOf va, pa := 0, leaf := noLeaf, ns := false, size := n, write := need.write }, s)
  else
    let v := va.toNat
    let stopped := fun (x : Cand) => ({ cands := [x], va := v, pa := 0, leaf := noLeaf, ns := false, size := n, write := need.write } : Reach)
    match s.translate c v with
    | .invalid level => (stopped { cause := 0x01, sub := level, addr := v }, s)
    | .refused => (stopped { cause := 0x02, sub := 3, addr := v }, s)
    | .leaf l =>
      let pa := l.pa v
      let refused := match s.refusal c l pa need with | some k => [{ cause := 0x02, sub := k, addr := v }] | none => []
      let format := match formatSub (leafBit l.word 13) (s.regionAt pa) block with | some k => [{ cause := 0x0D, sub := k, addr := v }] | none => []
      let data := if need.read && block.isNone && s.poisoned pa n then [{ cause := 0x07, sub := s.errorTier pa, addr := v }] else []
      let cands := refused ++ format ++ data
      ({ cands := cands, va := v, pa := pa, leaf := l, ns := leafBit l.word 6, size := n,
         write := need.write }, if cands.isEmpty then s.useLines l.word pa n else s)

/-- The checks of one element of `n` bytes that must lie at a multiple of `n` (R146, R155). -/
def State.reachElem (s : State) (c : Ctx) (oob : Int → Cand) (va : Int) (n : Nat) (need : Need) : Reach × State :=
  let (r, s') := s.reachPart c va n need none (oob va)
  if va % n ≠ 0 then ({ r with cands := { cause := 0x04, sub := 0, addr := addrOf va } :: r.cands }, s') else (r, s')

/-- An address beyond the virtual space under a plain form (R146). -/
def oobPlain (va : Int) : Cand := { cause := 0x01, sub := 3, addr := addrOf va }

/-- An address beyond the virtual space under a gather or scatter (R153). -/
def oobIndexed (_va : Int) : Cand := { cause := 0x0A, sub := 1, addr := 0 }

/-- Several elements one after another. -/
def State.reachElems (s : State) (c : Ctx) (oob : Int → Cand) (n : Nat) (need : Need) : List Int → List Reach × State
  | [] => ([], s)
  | va :: vas =>
    let (r, s1) := s.reachElem c oob va n need
    let (rs, s2) := s1.reachElems c oob n need vas
    (r :: rs, s2)

/-- Whether a data error among what was reached may yet be healed by a copy of the thread that comes before (R62, R157, R178): the access
waits for the copy. -/
def State.copyHeals (s : State) (c : Cand) (rs : List Reach) : Bool := c.cause == 0x07 && rs.any (fun r => s.copyMeets r.pa r.size r.write)

/-- Whether the entry of a view is the one at the commit point (R156): the oldest that is not held. DESIGN CHOICE (log entry 66): R309 lets
VCP name the first held entry while a handler runs, and R156 asks for the entry that VCP names; a handler's own entry still comes to the
commit point once every older entry that is not held has retired. -/
def atCommit (t : Thread) (view : View) : Bool := match t.pending.head? with | some e => e.seq == view.seq | none => false

/-- Admits element i to what was reached (R85, R156): it fails for the first cause; on an NS page it must be leading, and then waits
until the entry is at the commit point. It also waits for the thread's own copies that it meets (R178). `extra` are causes met elsewhere in the element. -/
def Acc.accept (a : Acc) (view : View) (i : Nat) (rs : List Reach) (extra : List Cand) : Acc :=
  let ns := rs.filter (fun r => r.ns)
  let late := if i = view.es then [] else ns.map (fun r => { cause := 0x03, sub := 0, addr := r.va })
  match firstCand (rs.flatMap (·.cands) ++ late ++ extra) with
  | some c => if a.s.copyHeals c rs then { a with wait := true } else a.failElem view.width i c.cause c.sub c.addr
  | none =>
    if (ns.isEmpty || atCommit a.s.cur view) && !rs.any (fun r => a.s.copyMeets r.pa r.size r.write) then a else { a with wait := true }

/-- The access takes effect: A and D, the TLB, the page's counter (R320, R383). -/
def Acc.effective (a : Acc) (c : Ctx) (write : Bool) (rs : List Reach) : Acc :=
  { a with s := rs.foldl (fun s r => (s.touch c r.va r.leaf write).noteAccess r.pa) a.s }

/-- The enabled flags that converted fields raised: the first such field decides (R85, R150). -/
def Acc.flagFail (a : Acc) (w i : Nat) (fls : List (BitVec 5)) : Acc :=
  match fls.find? (fun x => x &&& a.s.cur.fen != 0) with
  | some x => a.failElem w i 0x06 (lowestFlag (x &&& a.s.cur.fen))
  | none => fls.foldl (fun a x => a.note i x) a

/-- A memory element of type `mt` as a register element of type `ty` (R75). -/
def fromMemory (ty mt : Nat) (rm : Rm) (x : Nat) : FRes := if ty = mt then (x, 0) else convertElem mt ty rm false x

/-- A register element as a memory element (R75). -/
def toMemory (ty mt : Nat) (rm : Rm) (x : Nat) : FRes := if ty = mt then (x, 0) else convertElem ty mt rm false x

/-- Whether a load or store under a VT converts between F types (R104, R145). -/
def convertsFloat (vt : BitVec 12) : Bool := isFloat (vtType vt) && vtMem vt != vtType vt

/-- Reads bytes of the machine under way. -/
def Acc.read (a : Acc) (pa n : Nat) : List Byte := a.s.read pa n

/-- Loads element i (R145, R150): `fields` gives the address and the first destination register of each field, `known` what this
instruction has read before, by physical address. The second component is what it has read now. A is set before the access (R320). -/
def Acc.loadWith (a : Acc) (view : View) (oob : Int → Cand) (i : Nat) (fields : List (Int × Nat)) (extra : List Cand)
    (known : List (Nat × Nat)) : Acc × List (Nat × Nat) :=
  let c := a.s.cur.ctx
  let ty := vtType view.vt
  let mt := vtMem view.vt
  let n := typeWidth mt / 8
  let (rs, s1) := a.s.reachElems c oob n Need.load (fields.map (·.1))
  let a1 := ({ a with s := s1 } : Acc).accept view i rs extra
  if !a1.ok then (a1, known)
  else
    let a2 := a1.effective c false rs
    let raws := rs.map (fun r => (r.pa, ((known.find? (fun x => x.1 == r.pa)).map (·.2)).getD (leNat (a2.read r.pa n))))
    let vals := raws.map (fun x => fromMemory ty mt a2.s.cur.rm x.2)
    let a3 := a2.flagFail view.width i (vals.map (·.2))
    if !a3.ok then (a3, known)
    else ((fields.zip vals).foldl (fun a x => a.setElem x.1.2 view.width i x.2.1) a3, raws ++ known)

/-- Loads element i on its own (R158). -/
def Acc.loadElem (a : Acc) (view : View) (oob : Int → Cand) (i : Nat) (fields : List (Int × Nat)) (extra : List Cand) : Acc :=
  (a.loadWith view oob i fields extra []).1

/-- A write that a store has decided on: physical address and bytes. -/
abbrev Pending := Nat × List Byte

/-- Stores element i (R145, R150): the writes are decided here and made together. `fields` gives the address and the first data
register of each field. -/
def Acc.storeElem (a : Acc) (view : View) (oob : Int → Cand) (i : Nat) (fields : List (Int × Nat)) (extra : List Cand)
    (done : List Pending) : Acc × List Pending :=
  let t := a.s.cur
  let ty := vtType view.vt
  let mt := vtMem view.vt
  let n := typeWidth mt / 8
  let (rs, s1) := a.s.reachElems t.ctx oob n Need.store (fields.map (·.1))
  let bad := if fields.any (fun x => t.elemBad x.2 view.width i) then [{ cause := 0x07, sub := 0, addr := 0 }] else []
  let a1 := ({ a with s := s1 } : Acc).accept view i rs (extra ++ bad)
  if !a1.ok then (a1, done)
  else
    let vals := fields.map (fun x => toMemory ty mt t.rm (t.elem x.2 view.width i))
    let a2 := a1.flagFail view.width i (vals.map (·.2))
    if !a2.ok then (a2, done)
    else (a2.effective t.ctx true rs, done ++ (rs.zip vals).map (fun x => (x.1.pa, leBytes n x.2.1)))

/-- Makes the writes of a store, the highest index last (R148, R154); a sector that they cover in full is no longer poisoned (R157). -/
def State.writeAll (s : State) (ws : List Pending) : State :=
  let s1 := ws.foldl (fun s w => s.write w.1 w.2) s
  { s1 with poison := s1.poison.filter (fun x =>
      !(List.range 32).all (fun k => ws.any (fun w => decide (w.1 ≤ 32 * x + k ∧ 32 * x + k < w.1 + w.2.length)))) }

/-- Runs `f` for each listed index in order while the run goes on, carrying a value. -/
def Acc.walk {β : Type} (f : Nat → Acc → β → Acc × β) : List Nat → Acc → β → Acc × β
  | [], a, x => (a, x)
  | i :: is, a, x => if a.ok then let (a', x') := f i a x; Acc.walk f is a' x' else (a, x)

/-- The stored blocks at these addresses have been written in full: their sectors hold no error any more (R127, R157). -/
def State.healBlocks (s : State) (pas : List Nat) : State :=
  { s with badBytes := s.badBytes.filter (fun x => !pas.any (fun pa => decide (pa ≤ x ∧ x < pa + s.blockSizeAt pa))) }

/-! ## Blocks -/

/-- Bytes of a stored block (R124). -/
def blockBytes (ty : Nat) : Nat := if ty = 0x0C then 34 else if ty = 0x0E then 26 else 18

/-- Bits of a stored code (R122). -/
def codeBits (ty : Nat) : Nat := if ty = 0x0C then 8 else if ty = 0x0E then 6 else 4

/-- The causes of a page part of a stored block, with an uncorrected error of its own bytes (R129): TRA is that part. -/
def State.withData (s : State) (need : Need) (n : Nat) (r : Reach) : Reach :=
  if need.read && !r.unmapped && s.bytesBad r.pa n then { r with cands := r.cands ++ [{ cause := 0x07, sub := s.errorTier r.pa, addr := r.va }] } else r

/-- The checks of one stored block at `va` (R126, R127, R129, R146): each page part; the start on a block boundary of its region; the
second part at the end of the first; the errors of each part. -/
def State.reachBlock (s : State) (c : Ctx) (va : Int) (ty : Nat) (need : Need) : List Reach × State :=
  if va < 0 ∨ (2 ^ 56 : Nat) ≤ va then
    ([{ cands := [oobPlain va], va := addrOf va, pa := 0, leaf := noLeaf, ns := false, size := blockBytes ty, write := need.write }], s)
  else
    let n := blockBytes ty
    let v := va.toNat
    let n1 := min n (4096 - v % 4096)
    let (r1, s1) := s.reachPart c va n1 need (some ty) (oobPlain va)
    let start := match s1.regionAt r1.pa with
      | some r => r1.unmapped || (r1.pa - r.base) % blockBytes r.type == 0
      | none => true
    let r1' := s1.withData need n1 { r1 with cands := (if start then [] else [{ cause := 0x04, sub := 0, addr := v }]) ++ r1.cands }
    if n1 = n then ([r1'], s1)
    else
      let (r2, s2) := s1.reachPart c (v + n1 : Nat) (n - n1) need (some ty) (oobPlain (v + n1 : Nat))
      let joined := r1.unmapped || r2.unmapped || r2.pa == r1.pa + n1
      let r2' := s2.withData need (n - n1) (if joined then r2 else { r2 with cands := { cause := 0x04, sub := 0, addr := v + n1 } :: r2.cands })
      ([r1', r2'], s2)

/-- The bytes of a stored block: its parts are consecutive (R126). -/
def Acc.readBlock (a : Acc) (ty : Nat) (rs : List Reach) : List Byte := a.read ((rs.head?.map (·.pa)).getD 0) (blockBytes ty)

/-- Code k of a stored block's bytes (R124). -/
def storedCode (ty : Nat) (bs : List Byte) (k : Nat) : Nat := leNat (bs.drop 2) / 2 ^ (codeBits ty * k) % 2 ^ codeBits ty

/-- A stored b6 code as a b8 code (R127, R128): m8 = 4 × m6; a reserved code stays reserved. -/
def widenB6 (c : Nat) : Nat := 128 * (c / 32 % 2) + 64 * (c / 16 % 2) + 4 * (c % 16)

/-- A b8 code as a stored b6 code (R128): m6 = min(15, RNE(m8 ÷ 4)), sign 0 when m6 = 0; a reserved code stays reserved. -/
def narrowB6 (c : Nat) : Nat :=
  let sel := c / 128 % 2
  let neg := c / 64 % 2
  let m := c % 64
  if neg = 1 ∧ m = 0 then 32 * sel + 16
  else
    let m6 := min 15 (cutTo 0 false m 0 2 false).1
    32 * sel + (if m6 = 0 then 0 else 16 * neg) + m6

/-- The bytes of a stored block with E0, E1 and some codes replaced (R124, R130): a list of (k, code). -/
def patchBlock (ty side : Nat) (codes : List (Nat × Nat)) (bs : List Byte) : List Byte :=
  let old := leNat (bs.drop 2)
  let w := codeBits ty
  let new := codes.foldl (fun x c => x - x / 2 ^ (w * c.1) % 2 ^ w * 2 ^ (w * c.1) + c.2 * 2 ^ (w * c.1)) old
  leBytes 2 side ++ leBytes (blockBytes ty - 2) new

/-- The byte writes of a block store (R130): a block stored in full is one write; else the bytes it changes, each alone. -/
def blockWrites (pa : Nat) (ty : Nat) (codes : List (Nat × Nat)) (bs : List Byte) : List Pending :=
  if codes.length = 32 then [(pa, bs)]
  else
    let touched := fun b => b < 2 || codes.any (fun c => decide (codeBits ty * c.1 / 8 ≤ b - 2 ∧ b - 2 ≤ (codeBits ty * (c.1 + 1) - 1) / 8))
    ((List.range (blockBytes ty)).zip bs).filterMap (fun x => if touched x.1 then some (pa + x.1, [x.2]) else none)

end Sys2Proof.Machine
end

