-- ==== Sys2Proof/Machine/VectorMemory.lean ====
section
/-!
DEFINITION. Vector loads and stores, majors 0x30 and 0x31, and gathers and scatters, major 0x32 (R143 to R158).
-/
namespace Sys2Proof.Machine

/-- Size in bytes of a memory element (R143). -/
def View.memBytes (v : View) : Nat := typeWidth (vtMem v.vt) / 8

/-- The fields of element i of a form: address and register of each. -/
abbrev Placement := View → Thread → Nat → List (Int × Nat)

/-- Causes that element i's index or data meets apart from its addresses. -/
abbrev Extra := View → Thread → Nat → List Cand

/-- No further cause. -/
def noCands : Extra := fun _ _ _ => []

/-- Runs a load over its active elements in order. -/
def loadRun (f : FmtV) (oob : Int → Cand) (place : Placement) (extra : Extra) (v : Nat) (view : View) (a : Acc) : Acc :=
  let t := a.s.cur
  forActive f.guard f.gneg v view (fun i a => a.loadElem view oob i (place view t i) (extra view t i)) a

/-- Runs a gather over its active elements in order: coinciding ones receive the value of one single read (R154). -/
def gatherRun (f : FmtV) (oob : Int → Cand) (place : Placement) (extra : Extra) (v : Nat) (view : View) (a : Acc) : Acc :=
  let t := a.s.cur
  (Acc.walk (fun i a known => a.loadWith view oob i (place view t i) (extra view t i) known) (activeList t f.guard f.gneg view.es v) a []).1

/-- Runs a store over its active elements in order, then makes its writes. -/
def storeRun (f : FmtV) (oob : Int → Cand) (place : Placement) (extra : Extra) (v : Nat) (view : View) (a : Acc) : Acc :=
  let t := a.s.cur
  let (a1, ws) := Acc.walk (fun i a (ws : List Pending) => a.storeElem view oob i (place view t i) (extra view t i) ws)
    (activeList t f.guard f.gneg view.es v) a []
  if a1.ok then { a1 with s := a1.s.writeAll ws } else a1

/-- The parts that loads share. -/
def loadBase (f : FmtV) (ok : Nat → Bool) (scalars : List Source) (run : Nat → View → Acc → Acc) : Desc :=
  { typeOk := typeIn ok
    align := groupsOf [(f.vd, 2)]
    scalars := scalars
    pipes := [.l]
    dst := fun view t => destOf f.vd view.width view t
    flagged := convertsFloat
    allFalse := noneActive f
    run := run }

/-- The parts that stores share. -/
def storeBase (f : FmtV) (ok : Nat → Bool) (scalars : List Source) (run : Nat → View → Acc → Acc) : Desc :=
  { typeOk := typeIn ok
    align := groupsOf [(f.vd, 3)]
    scalars := scalars
    pipes := [.s]
    flagged := convertsFloat
    allFalse := noneActive f
    run := run }

/-! ## Unit stride, and block data -/

/-- Unit stride (R144): base + mw × i. -/
def unitPlace (f : FmtV) : Placement := fun view _ i => [((view.opa.toNat + view.memBytes * i : Nat), f.vd.toNat)]

/-- The address of stored block b (R151). -/
def blockAddr (view : View) (b : Nat) : Int := (view.opa.toNat + blockBytes (vtMem view.vt) * b : Nat)

/-- Loads stored block b (R128, R129, R151): `last` is the block read before with its exponents. -/
def blockLoad (f : FmtV) (view : View) (active : List Nat) (b : Nat) (a : Acc) (last : Option (Nat × Nat)) : Acc × Option (Nat × Nat) :=
  let c := a.s.cur.ctx
  let ty := vtType view.vt
  let mt := vtMem view.vt
  let (rs, s1) := a.s.reachBlock c (blockAddr view b) mt Need.load
  let first := 32 * b
  let a1 := ({ a with s := s1 } : Acc).accept { view with es := if view.es / 32 = b then first else view.es } first rs []
  if !a1.ok then (a1, last)
  else
    let a3 := a1.effective c false rs
    let bs := a3.readBlock mt rs
    let side := leNat (bs.take 2)
    -- the partner of a b4 half-block, when it was read (R128)
    let partner := if ty = 0x0D ∧ b % 2 = 1 then last.filter (fun x => x.1 + 1 == b) else none
    if partner.any (fun x => x.2 != side) then (a1.failElem view.width first 0x05 3 (addrOf (blockAddr view b)), last)
    else
      let k := if ty = 0x0D then b / 2 else b
      let a4 := if partner.isSome then a3 else a3.setSide f.vd.toNat k side
      ((active.filter (fun i => i / 32 == b)).foldl (fun a i =>
        let code := storedCode mt bs (i % 32)
        a.setElem f.vd.toNat view.width i (if mt = 0x0E then widenB6 code else code)) a4, some (b, side))

/-- Runs a block load, block by block. -/
def blockLoadRun (f : FmtV) (v : Nat) (view : View) (a : Acc) : Acc :=
  let active := activeList a.s.cur f.guard f.gneg view.es v
  (Acc.walk (blockLoad f view active) (blocksOf 32 active) a none).1

/-- What a block store has decided on: its writes, and the blocks that it writes in full. -/
structure BlockWrites where
  writes : List Pending
  full : List Nat
  deriving DecidableEq, Repr

/-- Stores stored block b (R128 to R130, R151). An error in the side-file entry, like one in a code, fails the block. -/
def blockStore (f : FmtV) (view : View) (active : List Nat) (b : Nat) (a : Acc) (ws : BlockWrites) : Acc × BlockWrites :=
  let t := a.s.cur
  let ty := vtType view.vt
  let mt := vtMem view.vt
  let (rs, s1) := a.s.reachBlock t.ctx (blockAddr view b) mt Need.store
  let mine := active.filter (fun i => i / 32 == b)
  let first := 32 * b
  let k := first / blockSpan ty
  let bad := if mine.any (fun i => t.elemBad f.vd.toNat view.width i) || t.sideIsBad f.vd.toNat k then
    [{ cause := 0x07, sub := 0, addr := 0 }] else []
  let a1 := ({ a with s := s1 } : Acc).accept { view with es := if view.es / 32 = b then first else view.es } first rs bad
  if !a1.ok then (a1, ws)
  else
    let old := a1.readBlock mt rs
    let codes := mine.map (fun i =>
      let c := t.elem f.vd.toNat view.width i
      (i % 32, if mt = 0x0E then narrowB6 c else c))
    let bs := patchBlock mt (t.sideEntry f.vd.toNat k) codes old
    let at_ := (rs.head?.map (·.pa)).getD 0
    (a1.effective t.ctx true rs, { writes := ws.writes ++ blockWrites at_ mt codes bs, full := if codes.length = 32 then at_ :: ws.full else ws.full })

/-- Runs a block store, then makes its writes; a block stored in full holds no error any more (R127, R157). -/
def blockStoreRun (f : FmtV) (v : Nat) (view : View) (a : Acc) : Acc :=
  let active := activeList a.s.cur f.guard f.gneg view.es v
  let (a1, ws) := Acc.walk (blockStore f view active) (blocksOf 32 active) a { writes := [], full := [] }
  if a1.ok then { a1 with s := (a1.s.writeAll ws.writes).healBlocks ws.full } else a1

/-- How the unit-stride forms trim (R84): at blocks under a block memory type. -/
def blockKind (vt : BitVec 12) : TrimKind := if isBlock (vtType vt) then .block32 else .element

/-- `vld vd, [ga]` (R144, R145, R151). -/
def vldDesc (f : FmtV) : Desc :=
  { loadBase f anyType [(f.va, f.sa, 0)] (fun v view a =>
      if isBlock (vtType view.vt) then blockLoadRun f v view a else loadRun f oobPlain (unitPlace f) noCands v view a) with
    kind := blockKind }

/-- `vst vd, [ga]` (R144, R145, R151). -/
def vstDesc (f : FmtV) : Desc :=
  { storeBase f anyType [(f.va, f.sa, 0)] (fun v view a =>
      if isBlock (vtType view.vt) then blockStoreRun f v view a else storeRun f oobPlain (unitPlace f) noCands v view a) with
    kind := blockKind }

/-! ## Strided and tile forms -/

/-- Strided (R144): base + s × i. -/
def stridePlace (f : FmtV) : Placement := fun view _ i => [(view.opa.toNat + view.opb.toInt * i, f.vd.toNat)]

/-- The captured base and stride. -/
def baseStride (f : FmtV) : List Source := [(f.va, f.sa, 0), (f.vb, f.sb, 1)]

/-- `vlds vd, [ga, gb]` (R144). -/
def vldsDesc (f : FmtV) : Desc := loadBase f isNumeric (baseStride f) (loadRun f oobPlain (stridePlace f) noCands)

/-- `vsts vd, [ga, gb]` (R144). -/
def vstsDesc (f : FmtV) : Desc := storeBase f isNumeric (baseStride f) (storeRun f oobPlain (stridePlace f) noCands)

/-- A tile (R144, R149): base + s × (i div T) + mw × (i mod T), T the captured TRL. -/
def tilePlace (f : FmtV) : Placement := fun view _ i =>
  let w := max 1 view.trl
  [(view.opa.toNat + view.opb.toInt * (i / w : Nat) + (view.memBytes * (i % w) : Nat), f.vd.toNat)]

/-- ROWP of a tile form that completed at length v (R92, R149). -/
def withRows (run : Nat → View → Acc → Acc) (v : Nat) (view : View) (a : Acc) : Acc :=
  let a1 := run v view a
  { a1 with rowp := some (v / max 1 view.trl) }

/-- `vldt vd, [ga, gb]` (R149). -/
def vldtDesc (f : FmtV) : Desc :=
  { loadBase f isNumeric (baseStride f) (withRows (loadRun f oobPlain (tilePlace f) noCands)) with
    tile := true, kind := fun _ => .tile }

/-- `vstt vd, [ga, gb]` (R149). -/
def vsttDesc (f : FmtV) : Desc :=
  { storeBase f isNumeric (baseStride f) (withRows (storeRun f oobPlain (tilePlace f) noCands)) with
    tile := true, kind := fun _ => .tile }

/-! ## Segments -/

/-- The fields of record i of n (R150). -/
def segmentPlace (f : FmtV) (n : Nat) : Placement := fun view _ i =>
  (List.range n).map (fun k => ((view.opa.toNat + view.memBytes * (n * i + k) : Nat), f.vd.toNat + k * vtGroup view.vt))

/-- The alignment checks of a segment form (R147): the group, and no field past v31. -/
def segmentAlign (f : FmtV) (n opnd : Nat) : BitVec 32 → BitVec 12 → List (Nat × Nat × Nat) := fun _ vt =>
  [(f.vd.toNat, vtGroup vt, opnd), (if f.vd.toNat + n * vtGroup vt ≤ 32 then 0 else 1, 2, opnd)]

/-- A segment load of n fields (R150). -/
def segmentLoad (f : FmtV) (n : Nat) : Desc :=
  { loadBase f isNumeric [(f.va, f.sa, 0)] (loadRun f oobPlain (segmentPlace f n) noCands) with
    align := segmentAlign f n 2
    dst := fun view t => (List.range n).foldl (fun m k =>
      m ||| groupMask t.lg (f.vd.toNat + k * vtGroup view.vt) view.width view.es view.vl) 0 }

/-- A segment store of n fields (R150). -/
def segmentStore (f : FmtV) (n : Nat) : Desc :=
  { storeBase f isNumeric [(f.va, f.sa, 0)] (storeRun f oobPlain (segmentPlace f n) noCands) with align := segmentAlign f n 3 }

/-- `vldseg2 vd, [ga]` (R150). -/
def vldseg2Desc (f : FmtV) : Desc := segmentLoad f 2

/-- `vldseg3 vd, [ga]` (R150). -/
def vldseg3Desc (f : FmtV) : Desc := segmentLoad f 3

/-- `vldseg4 vd, [ga]` (R150). -/
def vldseg4Desc (f : FmtV) : Desc := segmentLoad f 4

/-- `vldseg5 vd, [ga]` (R150). -/
def vldseg5Desc (f : FmtV) : Desc := segmentLoad f 5

/-- `vldseg6 vd, [ga]` (R150). -/
def vldseg6Desc (f : FmtV) : Desc := segmentLoad f 6

/-- `vldseg7 vd, [ga]` (R150). -/
def vldseg7Desc (f : FmtV) : Desc := segmentLoad f 7

/-- `vldseg8 vd, [ga]` (R150). -/
def vldseg8Desc (f : FmtV) : Desc := segmentLoad f 8

/-- `vstseg2 vd, [ga]` (R150). -/
def vstseg2Desc (f : FmtV) : Desc := segmentStore f 2

/-- `vstseg3 vd, [ga]` (R150). -/
def vstseg3Desc (f : FmtV) : Desc := segmentStore f 3

/-- `vstseg4 vd, [ga]` (R150). -/
def vstseg4Desc (f : FmtV) : Desc := segmentStore f 4

/-- `vstseg5 vd, [ga]` (R150). -/
def vstseg5Desc (f : FmtV) : Desc := segmentStore f 5

/-- `vstseg6 vd, [ga]` (R150). -/
def vstseg6Desc (f : FmtV) : Desc := segmentStore f 6

/-- `vstseg7 vd, [ga]` (R150). -/
def vstseg7Desc (f : FmtV) : Desc := segmentStore f 7

/-- `vstseg8 vd, [ga]` (R150). -/
def vstseg8Desc (f : FmtV) : Desc := segmentStore f 8

/-! ## Gathers and scatters -/

/-- Registers of the index group (R152). -/
def indexGroup (vt : BitVec 12) (wi : Nat) : Nat := max 1 (vtGroup vt * wi / max 1 (typeWidth (vtType vt)))

/-- Index element i (R152): z32 unsigned, s64 signed. -/
def indexOf (t : Thread) (base wi i : Nat) : Int := if wi = 64 then signedOf 64 (t.elem base 64 i) else (t.elem base 32 i : Nat)

/-- An indexed address (R152, R153): base + x, or base + mw × x. -/
def indexPlace (f : FmtV) (wi : Nat) (scaled : Bool) : Placement := fun view t i =>
  let x := indexOf t f.vb.toNat wi i
  [(view.opa.toNat + (if scaled then view.memBytes * x else x), f.vd.toNat)]

/-- A register-file error in an index element (R86). -/
def indexExtra (f : FmtV) (wi : Nat) : Extra := fun _ t i =>
  if t.elemBad f.vb.toNat wi i then [{ cause := 0x07, sub := 0, addr := 0 }] else []

/-- The type check of an indexed form (R152): I or F, and an index group of at most 8. -/
def indexTypes (wi : Nat) (vt : BitVec 13) : Bool := typeIn isNumeric vt && decide (indexGroup (vt.extractLsb' 0 12) wi ≤ 8)

/-- A gather (R153). -/
def gatherDesc (f : FmtV) (wi : Nat) (scaled : Bool) : Desc :=
  { loadBase f isNumeric [(f.va, f.sa, 0)] (gatherRun f oobIndexed (indexPlace f wi scaled) (indexExtra f wi)) with
    typeOk := indexTypes wi
    align := fun _ vt => [(f.vb.toNat, indexGroup vt wi, 1), (f.vd.toNat, vtGroup vt, 2)]
    sources := fun view t => [sourceOf f.sb 1 f.vb wi view t] }

/-- A scatter (R153). -/
def scatterDesc (f : FmtV) (wi : Nat) (scaled : Bool) : Desc :=
  { storeBase f isNumeric [(f.va, f.sa, 0)] (storeRun f oobIndexed (indexPlace f wi scaled) (indexExtra f wi)) with
    typeOk := indexTypes wi
    align := fun _ vt => [(f.vb.toNat, indexGroup vt wi, 1), (f.vd.toNat, vtGroup vt, 3)]
    sources := fun view t => [sourceOf f.sb 1 f.vb wi view t] }

/-- `vgather.32 vd, [ga, vb]` (R152). -/
def vgather32Desc (f : FmtV) : Desc := gatherDesc f 32 false

/-- `vgather.64 vd, [ga, vb]` (R152). -/
def vgather64Desc (f : FmtV) : Desc := gatherDesc f 64 false

/-- `vgather.x32 vd, [ga, vb]` (R152). -/
def vgatherX32Desc (f : FmtV) : Desc := gatherDesc f 32 true

/-- `vgather.x64 vd, [ga, vb]` (R152). -/
def vgatherX64Desc (f : FmtV) : Desc := gatherDesc f 64 true

/-- `vscatter.32 vd, [ga, vb]` (R152). -/
def vscatter32Desc (f : FmtV) : Desc := scatterDesc f 32 false

/-- `vscatter.64 vd, [ga, vb]` (R152). -/
def vscatter64Desc (f : FmtV) : Desc := scatterDesc f 64 false

/-- `vscatter.x32 vd, [ga, vb]` (R152). -/
def vscatterX32Desc (f : FmtV) : Desc := scatterDesc f 32 true

/-- `vscatter.x64 vd, [ga, vb]` (R152). -/
def vscatterX64Desc (f : FmtV) : Desc := scatterDesc f 64 true

end Sys2Proof.Machine
end

