-- ==== Sys2Proof/Machine/Streams.lean ====
section
/-!
DEFINITION. Streams (R162 to R167, R240) and shape records (R168 to R171): qbind, qfree, vpop, hld and hst, and the stream engine.
-/
namespace Sys2Proof.Machine

/-- A stream register by number, modulo 8. -/
def Thread.qread (t : Thread) (q : Nat) : Stream := t.q[q % 8]'(Nat.mod_lt _ (by decide))

/-- Writes a stream register. -/
def Thread.qwrite (t : Thread) (q : Nat) (x : Stream) : Thread := { t with q := t.q.set (q % 8) x (Nat.mod_lt _ (by decide)) }

/-- The size of a stream's memory elements (R162). -/
def Stream.size (q : Stream) : Nat := typeWidth (vtMem q.vt) / 8

/-- The address of element e of a memory stream (R162). -/
def Stream.addr (q : Stream) (e : Nat) : Int := (q.base.toNat + q.size * e : Nat)

/-- A ring engine by number, modulo 4. -/
def State.ring (s : State) (r : Nat) : Ring := s.rings[r % 4]'(Nat.mod_lt _ (by decide))

/-- Sets a ring engine. -/
def State.setRing (s : State) (r : Nat) (x : Ring) : State := { s with rings := s.rings.set (r % 4) x (Nat.mod_lt _ (by decide)) }

/-- The page of a byte among those that ring.cfg translated (R238), where the engine has kept it. -/
def Ring.pinAt (r : Ring) (va : Nat) : Option Pin := r.pins.find? (fun p => decide (p.va ≤ va ∧ va < p.va + 2 ^ p.bits))

/-- The physical address of a byte on the pages that ring.cfg translated (R238). -/
def Ring.paOf (r : Ring) (va : Nat) : Nat :=
  match r.pinAt va with
  | some p => p.pa + (va - p.va)
  | none => 0

/-- An access to a byte on a page that ring.cfg translated sets A there, and D for a write (R320). -/
def State.ringTouch (s : State) (r : Ring) (va : Nat) (write : Bool) : State :=
  match r.pinAt va with
  | some p => s.touchHeld p.part p.ctx va (some p.at_) write
  | none => s

/-- The current block's head, if there is one (R241). -/
def Ring.block (r : Ring) : Option RingHead := if r.current then r.heads.find? (fun h => h.arrival == r.next) else none

/-- The address of the slot of an arrival (R231, R234). -/
def Ring.slotOf (r : Ring) (arrival : Nat) : Nat := r.slots.toNat + arrival % max 1 r.s * r.ssize

/-- The elements that a stream holds: the count of a memory stream, or those of a ring's current block (R162, R183, R240). -/
def State.streamCount (s : State) (q : Stream) : Nat :=
  match q.kind with
  | .memory => q.count
  | .ring => (match (s.ring q.engine.toNat).block with | some h => h.bytes / max 1 q.size | none => 0)
  | .unbound => 0

/-- QLAND of a stream register (R163, R240): what a memory stream has landed; for a ring's stream the elements of the current block, which
are pos and what is left. -/
def State.qland (s : State) (q : Stream) : Nat := if q.kind = .ring then s.streamCount q else q.landed

/-- The dispatch checks of an instruction that consumes streams (R48, R164, R183): unbound, 0x49; another VT, 0x41. DESIGN CHOICE (log entry 19):
where neither stream of a vxsect is bound, EINFO names qa. -/
def streamChecks (qs : List Nat) (view : View) (a : Acc) : Acc :=
  match qs.find? (fun q => (a.s.cur.qread q).kind == .unbound) with
  | some q => a.trap 0x49 view.pc (BitVec.ofNat 64 q)
  | none => if qs.any (fun q => (a.s.cur.qread q).vt != view.vt) then a.trap 0x41 view.pc 0 else a

/-- An element of a ring's current block, whose pages ring.cfg translated (R240): the data has landed. -/
def Acc.ringElem (a : Acc) (view : View) (q : Stream) (qn i e : Nat) : Option Nat × Acc :=
  let r := a.s.ring q.engine.toNat
  match r.block with
  | none =>
    (none, if r.state = .broken then a.failElem view.width i 0x0C q.engine.toNat else a.failElem view.width i 0x09 qn)
  | some h =>
    let n := q.size
    let va := r.slotOf h.arrival + 64 + n * e
    if h.bytes / max 1 n ≤ e then (none, a.failElem view.width i 0x09 qn)
    else if va % max 1 n ≠ 0 then (none, a.failElem view.width i 0x04 0 va)
    else
      let pa := r.paOf va
      if a.s.poisoned pa n then (none, a.failElem view.width i 0x07 (a.s.errorTier pa) va)
      else (some (leNat (a.read pa n)), { a with s := a.s.ringTouch r va false })

/-- A landed element is recorded: QLAND counts it and the engine goes on after it (R163, R164). DESIGN CHOICE (log entry 69): elements that a
handler supplied and that were consumed without landing are counted once a later element lands. -/
def Stream.land (q : Stream) (e ctx pa x : Nat) : Stream :=
  { q with landed := max q.landed (e + 1), ahead := q.ahead ++ [{ elem := e, ctx := ctx, pa := pa, value := x }]
           stop := q.stop.filter (fun k => k.elem != e) }

/-- Element e of stream register qn at step i, in its memory type (R164, R183): what has landed, whose translation then gets A (R320); else, past
ES, the cause at which the engine stopped; else the element as the instruction reads it now. An end of stream, a cause or a wait leaves no
value. -/
def Acc.streamElem (a : Acc) (view : View) (qn i e : Nat) : Option Nat × Acc :=
  let q := a.s.cur.qread qn
  match q.kind with
  | .unbound => (none, a)
  | .ring => a.ringElem view q qn i e
  | .memory =>
    if q.count ≤ e then (none, a.failElem view.width i 0x09 qn)
    else
      match q.ahead.find? (fun x => x.elem == e) with
      | some x => (some x.value, { a with s := a.s.touchHeld a.s.cur.part.toNat x.ctx (addrOf (q.addr e)) none false })
      | none =>
        match q.stop.filter (fun k => k.elem == e && i != view.es) with
        | some k => (none, a.failElem view.width i k.cause k.sub k.addr)
        | none =>
          let (r, s1) := a.s.reachElem a.s.cur.ctx oobPlain (q.addr e) q.size Need.load
          let a1 := ({ a with s := s1 } : Acc).accept view i [r] []
          if !a1.ok then (none, a1)
          else
            let a2 := a1.effective a1.s.cur.ctx false [r]
            let x := leNat (a2.read r.pa q.size)
            (some x, a2.mod (fun t => t.qwrite qn ((t.qread qn).land e (ctxOf t.ptb) r.pa x)))

/-- A stream that has consumed n more elements (R164): a stop at one of them, which the instruction dealt with, is over (R163). -/
def Stream.advance (q : Stream) (n : Nat) : Stream :=
  { q with pos := q.pos + n, ahead := q.ahead.filter (fun x => q.pos + n ≤ x.elem), stop := q.stop.filter (fun k => q.pos + n ≤ k.elem) }

/-- Advances a stream register of the current thread. -/
def Acc.advance (a : Acc) (qn n : Nat) : Acc := a.mod (fun t => t.qwrite qn ((t.qread qn).advance n))

/-- `qbind q, [ga], gb` (R162): a new binding; a count of 2^48 or more is refused. The engine fetches from the retirement on. -/
def qbindDesc (f : FmtV) : Desc :=
  { typeOk := typeIn isNumeric
    scalars := [(f.va, f.sa, 0), (f.vb, f.sb, 1)]
    ownLength := true
    run := fun _ view a =>
      if 2 ^ 48 ≤ view.opb.toNat then a.trap 0x4A view.pc 0
      else
        let t := a.s.cur
        let s1 := a.s.unbindRing t.team t.lthread f.vd.toNat
        { a with
          s := s1.mod (fun t => t.qwrite f.vd.toNat
            { kind := .memory, live := false, base := view.opa, count := view.opb.toNat, pos := 0, vt := view.vt, landed := 0, ahead := [],
              stop := none, engine := 0 })
          hand := .stream (f.vd.extractLsb' 0 3) } }

/-- `qfree q` (R165): unbinds; an unbound register traps. -/
def qfreeDesc (f : FmtV) : Desc :=
  { ownLength := true
    run := fun _ view a =>
      let t := a.s.cur
      if (t.qread f.vd.toNat).kind = .unbound then a.trap 0x49 view.pc (BitVec.ofNat 64 f.vd.toNat)
      else { a with s := (a.s.unbindRing t.team t.lthread f.vd.toNat).mod (fun t => t.qwrite f.vd.toNat Stream.unboundReset) } }

/-- One element of a vpop (R164): read, converted, its flags raised, written. -/
def popElem (f : FmtV) (view : View) (pos i : Nat) (a : Acc) : Acc :=
  match a.streamElem view f.va.toNat i (pos + i) with
  | (none, a1) => a1
  | (some x, a1) =>
    let (y, fl) := fromMemory (vtType view.vt) (vtMem view.vt) a1.s.cur.rm x
    let a2 := a1.flagFail view.width i [fl]
    if a2.ok then a2.setElem f.vd.toNat view.width i y else a2

/-- `vpop vd, q` (R164): the next VL elements; positions below ES are consumed unwritten. -/
def vpopDesc (f : FmtV) : Desc :=
  { typeOk := typeIn isNumeric
    align := groupsOf [(f.vd, 2)]
    pipes := [.l]
    dst := fun view t => destOf f.vd view.width view t
    flagged := fun vt => isFloat (vtType vt)
    below := true
    empty := fun _ view a => streamChecks [f.va.toNat] view a
    run := fun v view a =>
      let a0 := streamChecks [f.va.toNat] view a
      let a1 := Acc.loop (popElem f view (a0.s.cur.qread f.va.toNat).pos) view.es (v - view.es) a0
      if a1.ok then a1.advance f.va.toNat v else a1 }

/-- STREAM_ENGINE_FETCH (R163): the engine of a stream register of the current thread lands the next element that has not landed, or
stops before it. It fetches only for a thread in user mode, whose translation it uses (log entry 20). A is set when a vpop or a vxsect consumes
the element (R320). -/
def execStreamEngineFetch (q : BitVec 3) (s : State) : Out :=
  let st := s.cur.qread q.toNat
  let next := ((List.range (st.ahead.length + 1)).map (fun k => st.pos + k)).find? (fun e => !st.ahead.any (fun x => x.elem == e))
  match next with
  | none => .next s
  | some e =>
    if st.kind ≠ .memory ∨ !st.live ∨ st.stop.isSome ∨ st.count ≤ e ∨ s.cur.priv ∨ s.cur.status ≠ .running then .next s
    else
      let (r, s1) := s.reachElem s.cur.ctx oobPlain (st.addr e) st.size Need.load
      match firstCand (r.cands ++ (if r.ns then [{ cause := 0x03, sub := 0, addr := r.va }] else [])) with
      | some c =>
        if s1.copyHeals c [r] then .next s
        else .next (s1.mod (fun t => t.qwrite q.toNat { st with stop := some { elem := e, cause := c.cause, sub := c.sub, addr := c.addr } }))
      | none =>
        if s1.copyMeets r.pa st.size false then .next s
        else
          let s2 := (s1.cacheLeaf s.cur.ctx r.va r.leaf).noteAccess r.pa
          .next (s2.tock.mod (fun t => t.qwrite q.toNat (st.land e (ctxOf t.ptb) r.pa (leNat (s2.read r.pa st.size)))))

/-! ## Shape records -/

/-- A shape record (R168). -/
structure Shape where
  base : Nat
  ndim : Nat
  type : Nat
  size : List Nat
  stride : List Int
  deriving DecidableEq, Repr

/-- The record that a shape register holds (R168). -/
def shapeOf (h : BitVec 1024) : Shape :=
  let x := h.toNat
  { base := bitsOf x 63 0, ndim := bitsOf x 71 64, type := bitsOf x 79 72
    size := (List.range 6).map (fun d => x / 2 ^ (128 + 32 * d) % 2 ^ 32)
    stride := (List.range 6).map (fun d => signedOf 64 (x / 2 ^ (320 + 64 * d) % 2 ^ 64)) }

/-- N, the elements of a record (R168); none for a record without dimensions. -/
def Shape.count (h : Shape) : Nat := if h.ndim = 0 then 0 else (h.size.take h.ndim).foldl (· * ·) 1

/-- The ill-formed bit of a record (R170). -/
def illFormed (x : BitVec 1024) : Bool :=
  let h := shapeOf x
  h.ndim = 0 || 6 < h.ndim || (h.size.take h.ndim).any (fun n => n == 0) || 0x10 < h.type || 2 ^ 56 ≤ h.base ||
    bitsOf x.toNat 127 80 != 0 || bitsOf x.toNat 1023 704 != 0 || (h.size.drop h.ndim).any (fun n => n != 0) ||
    (h.stride.drop h.ndim).any (fun n => n != 0) || 2 ^ 48 < h.count

/-- A shape register by number, modulo 8. -/
def Thread.hread (t : Thread) (h : Nat) : BitVec 1024 := t.h[h % 8]'(Nat.mod_lt _ (by decide))

/-- Element 0 of a one-element instruction fails; TRC.lane is 0 (R237; for hld and hst log entry 21). -/
def Acc.failFirst (a : Acc) (view : View) (c : Cand) : Acc :=
  a.failAt { elem := view.es, cause := c.cause, sub := c.sub, addr := c.addr, lane := 0 }

/-- Reads a record of n bytes, a multiple of 8, that must lie at a multiple of `align` (R48, R184, R189, R224, R238): a cause is a leading
trap. The record is read as doublewords of the leading element, so that on an NS page it waits for the commit point where
`ns` allows it (R156), and fails elsewhere. -/
def Acc.readRecord (a : Acc) (view : View) (lane : Nat) (ns : Bool) (va n align : Nat) (need : Need := Need.load) : List Byte × Acc :=
  let failed := fun (a : Acc) (c : Cand) =>
    a.failAt { elem := view.es, cause := c.cause, sub := c.sub, addr := c.addr, lane := lane }
  if va % align ≠ 0 then ([], failed a { cause := 0x04, sub := 0, addr := va })
  else
    let (rs, s1) := a.s.reachElems a.s.cur.ctx oobPlain 8 need ((List.range (n / 8)).map (fun k => ((va + 8 * k : Nat) : Int)))
    let a1 := { a with s := s1 }
    match rs.findSome? (fun r => firstCand (r.cands ++ (if r.ns && !ns then [{ cause := 0x03, sub := 0, addr := r.va }] else []))) with
    | some c => ([], if a1.s.copyHeals c rs then { a1 with wait := true } else failed a1 c)
    | none =>
      if (rs.any (·.ns) && !atCommit a1.s.cur view) || rs.any (fun r => a1.s.copyMeets r.pa r.size r.write) then ([], { a1 with wait := true })
      else let a2 := a1.effective a1.s.cur.ctx false rs; (rs.flatMap (fun r => a2.read r.pa 8), a2)

/-- The checks of a shape register's 128 bytes, as 16 doublewords (R170): elements past the first fail on an NS page. -/
def Acc.reachShape (a : Acc) (view : View) (need : Need) : List Reach × Acc :=
  let va := view.opa.toNat
  if va % 128 ≠ 0 then ([], a.failFirst view { cause := 0x04, sub := 0, addr := va })
  else
    let (rs, s1) := a.s.reachElems a.s.cur.ctx oobPlain 8 need ((List.range 16).map (fun k => ((va + 8 * k : Nat) : Int)))
    let a1 := { a with s := s1 }
    let causes := rs.zipIdx.findSome? (fun x =>
      firstCand (x.1.cands ++ (if x.1.ns && x.2 != 0 then [{ cause := 0x03, sub := 0, addr := x.1.va }] else [])))
    match causes with
    | some c => (rs, if a1.s.copyHeals c rs then { a1 with wait := true } else a1.failFirst view c)
    | none => (rs, if rs.any (fun r => a1.s.copyMeets r.pa r.size r.write) then { a1 with wait := true } else a1)

/-- `hld h, [ga]` (R170). -/
def hldDesc (f : FmtV) : Desc :=
  { scalars := [(f.va, f.sa, 0)]
    pipes := [.l]
    ownLength := true
    trims := false
    run := fun _ view a =>
      let (rs, a1) := a.reachShape view Need.load
      if !a1.ok then a1
      else
        let a2 := a1.effective a1.s.cur.ctx false rs
        let x := BitVec.ofNat 1024 (leNat (rs.flatMap (fun r => a2.read r.pa 8)))
        let n := f.vd.toNat % 8
        { a2 with
          s := a2.s.mod (fun t => { t with h := t.h.set n x (Nat.mod_lt _ (by decide))
                                           hill := setField t.hill n 1 (if illFormed x then 1 else 0) })
          dirty := a2.dirty ||| BitVec.ofNat 64 (2 ^ (44 + n)) } }

/-- `hst h, [ga]` (R171). -/
def hstDesc (f : FmtV) : Desc :=
  { scalars := [(f.va, f.sa, 0)]
    pipes := [.s]
    ownLength := true
    trims := false
    run := fun _ view a =>
      let (rs, a1) := a.reachShape view Need.store
      if !a1.ok then a1
      else
        let a2 := a1.effective a1.s.cur.ctx true rs
        { a2 with s := a2.s.write ((rs.head?.map (·.pa)).getD 0) (leBytes 128 (a.s.cur.hread f.vd.toNat).toNat) } }

end Sys2Proof.Machine
end

