-- ==== Sys2Proof/Machine/Rings.lean ====
section
/-!
DEFINITION. The rotation collective, major 0x22 (R230 to R248, R386), and the ring engines' own events.
-/
namespace Sys2Proof.Machine

/-- The Thrumez ports that a partition's grant of an engine allows (R369, type 8); none where the engine is not its own. -/
def State.ringPorts (s : State) (part r : Nat) : Option Nat := ((s.grantsOf 8 part).find? (fun g => g.first == r)).map (fun g => g.value % 256)

/-- A ring-use error (R237, R269). -/
def Acc.ringTrap (a : Acc) (view : View) (check : Nat) : Acc := a.trap 0x4A view.pc (einfoShape 3 check 0)

/-- A one-element ring instruction (R237): resumed with ES > 0 it does nothing. -/
def ringDesc (scalars : List Source) (run : View → Acc → Acc) : Desc :=
  { scalars := scalars
    ownLength := true
    trims := false
    run := fun _ view a => if view.es ≠ 0 then a else run view a }

/-! ## Engines -/

/-- Arrivals of a revolution (R234). -/
def Ring.total (r : Ring) : Nat := r.n * r.b

/-- Arrivals that are forwarded: all but those of the downstream member's origin (R235). -/
def Ring.toForward (r : Ring) : Nat := (r.n - 1) * r.b

/-- The origin of arrival a (R234). -/
def Ring.origin (r : Ring) (a : Nat) : Nat := (r.m + r.n - a / max 1 r.b % max 1 r.n) % max 1 r.n

/-- The index of arrival a (R234). -/
def Ring.indexOf (r : Ring) (a : Nat) : Nat := a % max 1 r.b

/-- The bit of arrival a in the bitmap (R231). -/
def Ring.bit (r : Ring) (a : Nat) : Nat := r.origin a * r.b + r.indexOf a

/-- Whether the engine takes part in a revolution. -/
def Ring.active (r : Ring) : Bool := r.state == .waiting || r.state == .running

/-- What follows from what an engine has consumed and forwarded (R235, R243): releases go upstream, and a revolution whose arrivals are
all consumed and forwarded is complete, which releases the pins (R238). -/
def Ring.follow (r : Ring) : Ring :=
  if r.state ≠ .running then r
  else
    let freed := min r.next (if r.toForward ≤ r.forwarded then r.total else r.forwarded)
    if r.next = r.total ∧ r.toForward ≤ r.forwarded then { r with freed := freed, state := .complete, pinned := false }
    else { r with freed := freed }

/-- A revolution breaks here (R245): every arrival that is not current is dropped; the pins stay for the current block. -/
def Ring.break (r : Ring) (byBrk : Bool) : Ring :=
  if r.active then
    { r with
      state := .broken
      local_ := byBrk
      link := !byBrk
      heads := r.heads.filter (fun h => r.current && h.arrival == r.next)
      pinned := r.pinned && r.current }
  else r

/-- The 64 bytes of a block's header (R233). -/
def Ring.header (r : Ring) (h : RingHead) : List Byte :=
  leBytes 8 r.tag.toNat ++ leBytes 4 r.rev ++ leBytes 2 h.origin ++ leBytes 2 h.index ++ leBytes 4 h.bytes ++ leBytes 4 h.toff ++
    leBytes 2 h.tcnt ++ leBytes 38 0

/-- Writes bytes on the pages that ring.cfg translated, page by page (R320: A and D are set). -/
def State.ringPut (s : State) (r : Ring) (va : Nat) (bs : List Byte) : State :=
  (partsOf va bs.length).foldl (fun s p =>
    if (r.pinAt p.1).isSome then (s.ringTouch r p.1 true).put (r.paOf p.1) ((bs.drop (p.1 - va)).take p.2) else s) s

/-- Arrival a lands in its slot (R233, R234): the payload, then the header. -/
def State.landArrival (s : State) (n : Nat) (h : RingHead) (payload : List Byte) : State :=
  let r := s.ring n
  let va := r.slotOf h.arrival
  let s1 := (s.ringPut r (va + 64) payload).ringPut r va (r.header h)
  -- after a software write to a slot the payloads stay undefined (R233)
  let s2 := if r.spoiled then (r.spans (va + 64) payload.length).foldl (fun s w => s.addWild w.1 w.2) s1 else s1
  s2.setRing n ({ r with landed := r.landed + 1, heads := r.heads ++ [h] } : Ring).follow

/-! ## ring.cfg -/

/-- The ring record as an engine takes it (R231). -/
def ringOf (part : Nat) (bs : List Byte) : Ring :=
  { Ring.off with
    state := .waiting, part := part, tag := BitVec.ofNat 64 (fieldAt bs 0 8), n := fieldAt bs 8 1, m := fieldAt bs 9 1, up := fieldAt bs 10 1
    down := fieldAt bs 11 1, b := fieldAt bs 12 1, s := fieldAt bs 13 1, ssize := fieldAt bs 16 4, rev := fieldAt bs 20 4
    slots := BitVec.ofNat 64 (fieldAt bs 24 8), own := BitVec.ofNat 64 (fieldAt bs 32 8), done := BitVec.ofNat 64 (fieldAt bs 40 8) }

/-- Whether a record breaks R231 apart from its addresses' pages, or names a port outside `ports` (R238, order 3). -/
def Ring.bad (r : Ring) (bs : List Byte) (ports : Nat) : Bool :=
  fieldAt bs 14 2 != 0 || fieldAt bs 48 80 != 0 || r.n < 2 || 64 < r.n || r.n ≤ r.m || 7 < r.up || 7 < r.down || r.b < 1 || 63 < r.b ||
    r.s < 4 || 64 < r.s || r.s ≤ r.b || r.ssize % 4096 != 0 || r.ssize < 4096 || 2 ^ 20 < r.ssize || 2 ^ 56 ≤ r.slots.toNat ||
    2 ^ 56 ≤ r.own.toNat || 2 ^ 56 ≤ r.done.toNat || r.own.toNat % 32 != 0 || r.done.toNat % 8 != 0 || ports / 2 ^ r.up % 2 == 0 ||
    ports / 2 ^ r.down % 2 == 0 || (r.up == r.down && 2 < r.n)

/-- Translates and checks the pages of an area from `va` up to `hi` (R238): what was reached, or the first cause, whose TRA is the page.
Each step covers at most 2 MiB, since a vault window is decided for less than a 32 GiB page; the pin is the whole page (`Reach.pin`). -/
def reachArea (c : Ctx) (need : Need) (s : State) : Nat → Nat → Nat → Except Cand (List Reach)
  | 0, _, _ => .ok []
  | fuel + 1, va, hi =>
    if hi ≤ va then .ok []
    else
      let page := va / 4096 * 4096
      let r := (s.reachPart c page 1 need none (oobPlain page)).1
      match firstCand ((r.cands.filter (fun x => x.cause != 0x07)) ++ (if r.ns then [{ cause := 0x03, sub := 0, addr := page }] else [])) with
      | some x => .error x
      | none =>
        let step := min (2 ^ r.leaf.bits) (2 ^ 21)
        match reachArea c need s fuel ((va / step + 1) * step) hi with
        | .error x => .error x
        | .ok rs => .ok (r :: rs)

/-- Bits of a byte list that are set, by number (R5). -/
def setBits (bs : List Byte) (n : Nat) : List Nat := (List.range n).filter (fun k => (bs.getD (k / 8) 0).getLsbD (k % 8))

/-- Bytes on the pages that ring.cfg translated. -/
def State.ringRead (s : State) (r : Ring) (va n : Nat) : List Byte := (partsOf va n).flatMap (fun p => s.read (r.paOf p.1) p.2)

/-- ring.cfg (R238): the record, its checks, its pages, and the engine that waits. The bitmap is read in program order, after the thread's own
copies into it (R62, R178), which sets A there; every page is cached, and the accesses that follow set A and D (R320). DESIGN CHOICE (log entry
30): order 4 takes R155's checks with R160's among them, so that a slot page on a vault window that is closed to the partition is 0x02, and
order 5 is left with pages that map no vault window. -/
def ringConfigure (n : Nat) (view : View) (a : Acc) : Acc :=
  let t := a.s.cur
  let (bs, a1) := a.readRecord view 0 true view.opa.toNat 128 128
  if !a1.ok then a1
  else
    let r := ringOf t.part.toNat bs
    match a1.s.ringPorts t.part.toNat n with
    | none => a1.ringTrap view 3
    | some ports =>
      if (a1.s.ring n).active || r.bad bs ports then a1.ringTrap view 3
      else
        let area := fun (need : Need) (va size : Nat) => reachArea t.ctx need a1.s (size / 4096 + 2) va (va + size)
        let size := (r.total + 7) / 8
        let fails := fun (c : Cand) => a1.failAt { elem := 0, cause := c.cause, sub := c.sub, addr := c.addr / 4096 * 4096, lane := 0 }
        match area Need.both r.slots.toNat (r.s * r.ssize), area Need.load r.own.toNat (32 * r.b), area Need.both r.done.toNat size with
        | .error c, _, _ => fails c
        | .ok _, .error c, _ => fails c
        | .ok _, .ok _, .error c => fails c
        | .ok ps, .ok qs, .ok us =>
          let r1 := { r with pins := ((ps ++ qs ++ us).map (Reach.pin t.ctx)).eraseDups, pinned := true }
          if (partsOf r.done.toNat size).any (fun p => a1.s.copyMeets (r1.paOf p.1) p.2 false) then { a1 with wait := true }
          else
            match (partsOf r.done.toNat size).find? (fun p => a1.s.poisoned (r1.paOf p.1) p.2) with
            | some p => fails { cause := 0x07, sub := a1.s.errorTier (r1.paOf p.1), addr := p.1 }
            | none =>
              if ps.any (fun p => !inAperture p.pa) then a1.ringTrap view 5
              else
                let s1 := (ps ++ qs).foldl (fun s x => s.cacheLeaf t.ctx x.va x.leaf) a1.s
                let s2 := us.foldl (fun s x => s.touch t.ctx x.va x.leaf false) s1
                { a1 with s := s2.setRing n
                            { r1 with marked := setBits (s2.ringRead r1 r.done.toNat size) r.total, user := (s2.ring n).user } }

/-- `ring.cfg r, [ga]` (R238). -/
def ringCfgDesc (f : FmtV) : Desc := ringDesc [(f.va, f.sa, 0)] (ringConfigure f.vd.toNat)

/-! ## ring.post -/

/-- The payload bytes of an own block (R239): read page by page as the thread's own accesses; a data error's TRA is its first byte. -/
def readPayload (view : View) : List (Nat × Nat) → Acc → List Byte × Acc
  | [], a => ([], a)
  | (va, n) :: rest, a =>
    let (r, s1) := a.s.reachPart a.s.cur.ctx (va : Nat) n Need.load none (oobPlain va)
    let a1 := { a with s := s1 }
    match firstCand r.cands with
    | some c =>
      let at_ := if c.cause = 0x07 then va + ((List.range n).find? (fun k => s1.poisoned (r.pa + k) 1)).getD 0 else c.addr
      ([], if a1.s.copyHeals c [r] then { a1 with wait := true } else a1.failFirst view { c with addr := at_ })
    | none =>
      if (r.ns && !atCommit a1.s.cur view) || a1.s.copyMeets r.pa n false then ([], { a1 with wait := true })
      else
        let a2 := a1.effective a1.s.cur.ctx false [r]
        let (more, a3) := readPayload view rest a2
        (a2.read r.pa n ++ more, a3)

/-- ring.post (R239): the next own block lands as the next arrival. -/
def ringPostRun (n : Nat) (view : View) (a : Acc) : Acc :=
  let r := a.s.ring n
  if (a.s.ringPorts a.s.cur.part.toNat n).isNone || !r.active || r.b ≤ r.landed then a.ringTrap view 0
  else
    let (e, a1) := a.readRecord view 0 false (r.own.toNat + 32 * r.landed) 32 32
    if !a1.ok then a1
    else
      let bytes := fieldAt e 8 4
      let toff := fieldAt e 12 4
      let tcnt := fieldAt e 16 2
      if r.ssize - 64 < bytes ∨ 2 ^ 32 < toff + tcnt ∨ fieldAt e 18 14 ≠ 0 then a1.ringTrap view 0
      else
        let (payload, a2) := readPayload view (partsOf (fieldAt e 0 8) bytes) a1
        if !a2.ok then a2
        else { a2 with s := (a2.s.landArrival n
                 { arrival := r.landed, origin := r.m, index := r.landed, bytes := bytes, toff := toff, tcnt := tcnt } payload) }

/-- `ring.post r` (R239). -/
def ringPostDesc (f : FmtV) : Desc := ringDesc [] (ringPostRun f.vd.toNat)

/-! ## The consumer side -/


/-- `qbind.ring q, r` (R240). -/
def qbindRingDesc (f : FmtV) : Desc :=
  { ringDesc [] (fun view a =>
      let t := a.s.cur
      let n := f.va.toNat
      let r := a.s.ring n
      let me := (t.team, t.lthread, f.vd.toNat)
      if (a.s.ringPorts t.part.toNat n).isNone || r.state == .unconfigured || (r.user.isSome && r.user != some me) then a.ringTrap view 0
      else
        let s1 := if r.user = some me then a.s else a.s.unbindRing t.team t.lthread f.vd.toNat
        let q : Stream := { kind := .ring, live := false, base := 0, count := 0, pos := 0, vt := view.vt, landed := 0, ahead := [], stop := none
                            engine := BitVec.ofNat 2 n }
        { a with s := (s1.setRing n { s1.ring n with user := some me }).mod (fun t => t.qwrite f.vd.toNat q) }) with
    typeOk := typeIn isNumeric }

/-- The word that ring.hdr returns for a block (R241). -/
def RingHead.pack (h : RingHead) : Word := BitVec.ofNat 64 (h.origin * 2 ^ 58 + h.index * 2 ^ 48 + h.tcnt * 2 ^ 32 + h.toff)

/-- What ring.hdr finds from its next arrival on (R241), with the engine as it leaves it. -/
inductive Found where
  | block (h : RingHead)
  | sentinel (x : Word)
  | wait
  deriving Repr

/-- The loop of ring.hdr (R241): arrivals whose bit is set are skipped. -/
def Ring.seek : Nat → Ring → Found × Ring
  | 0, r => (.wait, r)
  | fuel + 1, r =>
    if r.next = r.total then (.sentinel (BitVec.allOnes 64), r)
    else
      match r.heads.find? (fun h => h.arrival == r.next) with
      | none => if r.state = .broken then (.sentinel 0xFFFFFFFFFFFFFFFE, r) else (.wait, r)
      | some h =>
        if r.marked.contains (r.bit r.next) then
          Ring.seek fuel ({ r with next := r.next + 1, heads := r.heads.filter (fun x => x.arrival != r.next) } : Ring).follow
        else (.block h, { r with current := true })

/-- `ring.hdr gd, q` (R241): what it skips before it must wait stays skipped. -/
def ringHdrDesc (f : FmtV) : Desc :=
  ringDesc [] (fun view a =>
    let q := a.s.cur.qread f.va.toNat
    let n := q.engine.toNat
    let r := a.s.ring n
    if q.kind ≠ .ring then a.trap 0x49 view.pc (BitVec.ofNat 64 f.va.toNat)
    else
      match r.block with
      | some h => a.setG f.vd h.pack
      | none =>
        match Ring.seek (r.total + 1) r with
        | (.wait, r') => { a with s := a.s.setRing n r', wait := true, again := r'.next != r.next }
        | (.sentinel x, r') => ({ a with s := a.s.setRing n r' } : Acc).setG f.vd x
        | (.block h, r') =>
          ({ a with s := (a.s.setRing n r').mod (fun t => t.qwrite f.va.toNat { q with pos := 0 }) } : Acc).setG f.vd h.pack)

/-- Whether an entry reads stream register q: vpop, vxsect and ring.hdr (R242). -/
def readsStream (q : Nat) (w : BitVec 32) : Bool :=
  let va := (w.extractLsb' 16 5).toNat
  let vb := (w.extractLsb' 11 5).toNat
  (majorOf w == 0x20 && fn4Of w == 2 && va == q) || (majorOf w == 0x35 && fn4Of w == 1 && (va == q || vb == q)) ||
    (majorOf w == 0x22 && fn4Of w == 3 && va == q)

/-- One indivisible update of a byte at sys scope for the current thread (R242): the bits that `x` holds are set; landed stream data over the
byte is dropped (R166, R275). DESIGN CHOICE (log entry 30): it counts as a strong access of size 1 for R251, though R250 does not list it. -/
def State.setBitsAt (s : State) (pa x : Nat) : State :=
  ((s.put pa (leBytes 1 (leNat (s.read pa 1) ||| x))).dropLanded pa 1).noteStrong pa 1

/-- `ring.done q` (R242): once every older entry that reads q has retired, and the thread's own copies over the byte have landed (R62, R178), it
sets the block's bit, where the engine still has the bitmap's page (R4), and ends the current block. A stream that is not a ring's has none. -/
def ringDoneDesc (f : FmtV) : Desc :=
  ringDesc [] (fun view a =>
    let t := a.s.cur
    let q := t.qread f.va.toNat
    let n := q.engine.toNat
    let r := a.s.ring n
    if q.kind = .unbound then a.trap 0x49 view.pc (BitVec.ofNat 64 f.va.toNat)
    else if q.kind = .memory then a.ringTrap view 0
    else if (t.pending.takeWhile (fun e => e.seq != view.seq)).any (fun e => readsStream f.va.toNat e.word) then { a with wait := true }
    else
      match r.block with
      | none => a.ringTrap view 0
      | some h =>
        let bit := r.bit h.arrival
        let pa := r.paOf (r.done.toNat + bit / 8)
        if a.s.copyMeets pa 1 true then { a with wait := true }
        else
          let at_ := r.done.toNat + bit / 8
          let s1 := if (r.pinAt at_).isSome then (a.s.ringTouch r at_ true).setBitsAt pa (2 ^ (bit % 8)) else a.s
          let r1 := ({ r with current := false, next := r.next + 1, heads := r.heads.filter (fun x => x.arrival != h.arrival)
                              pinned := r.pinned && r.state != .broken } : Ring).follow
          { a with s := (s1.setRing n r1).mod (fun t => t.qwrite f.va.toNat { q with pos := 0 }) })

/-- The number of an engine's state (R243). -/
def RingState.code : RingState → Nat
  | .unconfigured => 0
  | .waiting => 1
  | .running => 2
  | .complete => 3
  | .broken => 4

/-- An engine as ring.stat packs it (R243). -/
def Ring.stat (r : Ring) : Word :=
  BitVec.ofNat 64 (r.state.code + (if r.local_ then 8 else 0) + (if r.link then 16 else 0) + 2 ^ 8 * (r.next % 2 ^ 12) + 2 ^ 32 * (r.rev % 2 ^ 32))

/-- `ring.stat gd, r` (R243). -/
def ringStatDesc (f : FmtV) : Desc :=
  ringDesc [] (fun view a =>
    if (a.s.ringPorts a.s.cur.part.toNat f.va.toNat).isNone then a.ringTrap view 0
    else a.setG f.vd (a.s.ring f.va.toNat).stat)

/-- `ring.brk r` (R386). -/
def ringBrkDesc (f : FmtV) : Desc :=
  ringDesc [] (fun view a =>
    let n := f.vd.toNat
    if (a.s.ringPorts a.s.cur.part.toNat n).isNone then a.ringTrap view 0
    else { a with s := a.s.setRing n ((a.s.ring n).break true) })

/-! ## Events of the engines -/

/-- Whether a Thrumez port's link is up (R373). -/
def State.portUp (s : State) (port : Nat) : Bool := s.linkUp.getLsbD port

/-- RING_HANDSHAKE (R238): over links that are up, a waiting engine whose neighbours agree on tag, N and rev and stand beside it runs. -/
def execRingHandshake (r : BitVec 2) (up down : RingPeer) (s : State) : Out :=
  let e := s.ring r.toNat
  let agrees := fun (p : RingPeer) (pos : Nat) => p.tag == e.tag && p.n == e.n && p.rev == e.rev && p.pos == pos
  .next (if e.state = .waiting ∧ s.portUp e.up ∧ s.portUp e.down ∧ agrees up ((e.m + e.n - 1) % max 1 e.n) ∧
        agrees down ((e.m + 1) % max 1 e.n) then
      s.setRing r.toNat ({ e with state := .running, peerSlots := down.slots } : Ring).follow
    else s)

/-- Whether the engine accepts this block as its next arrival (R234, R235), running or still waiting for its other neighbour. A block that
it does not accept stays on the link. -/
def Ring.accepts (r : Ring) (x : RingBlock) : Bool :=
  let a := r.landed
  r.active && r.b ≤ a && a < r.total && x.tag == r.tag && x.rev == r.rev && x.origin == r.origin a && x.index == r.indexOf a &&
    decide (x.payload.length ≤ r.ssize - 64) && (a < r.s || a - r.s < r.freed)

/-- RING_ARRIVAL (R233, R234): the next block from upstream lands in its slot. -/
def execRingArrival (r : BitVec 2) (b : RingBlock) (s : State) : Out :=
  let e := s.ring r.toNat
  .next (if s.portUp e.up && e.accepts b then
      s.landArrival r.toNat { arrival := e.landed, origin := b.origin, index := b.index, bytes := b.payload.length, toff := b.toff, tcnt := b.tcnt }
        b.payload
    else s)

/-- Whether the next arrival to forward may go downstream (R235): it has landed, needs forwarding, and the receiver has released the slot
of its arrival a + B. -/
def Ring.mayForward (r : Ring) : Bool :=
  let f := r.forwarded
  r.state == .running && f < r.landed && f < r.toForward && (f + r.b < r.peerSlots || f + r.b - r.peerSlots < r.credits)

/-- RING_FORWARD (R235, R244): the next arrival is forwarded once the receiver has released its slot. -/
def execRingForward (r : BitVec 2) (s : State) : Out :=
  let e := s.ring r.toNat
  .next (if s.portUp e.down && e.mayForward then s.setRing r.toNat ({ e with forwarded := e.forwarded + 1 } : Ring).follow else s)

/-- RING_SLOT_RELEASE (R235): a release flit arrives from downstream, also where the engine still waits for its other neighbour. -/
def execRingSlotRelease (r : BitVec 2) (s : State) : Out :=
  let e := s.ring r.toNat
  .next (if s.portUp e.down && e.active then s.setRing r.toNat { e with credits := e.credits + 1 } else s)

/-- RING_BREAK_FLIT (R245): the engine breaks and passes the flit on. -/
def execRingBreakFlit (r : BitVec 2) (s : State) : Out := .next (s.setRing r.toNat ((s.ring r.toNat).break false))

/-- THRUMEZ_LINK_LOSS (R245, R373): every ring on the port breaks. -/
def execThrumezLinkLoss (port : BitVec 3) (s : State) : Out :=
  .next { s with
    linkUp := s.linkUp &&& ~~~(BitVec.ofNat 8 (2 ^ port.toNat))
    rings := s.rings.map (fun r => if r.up = port.toNat ∨ r.down = port.toNat then r.break false else r) }

/-- THRUMEZ_LINK_RETRAIN (R373): the link is up again; only a new ring.cfg uses it. -/
def execThrumezLinkRetrain (port : BitVec 3) (s : State) : Out := .next { s with linkUp := s.linkUp ||| BitVec.ofNat 8 (2 ^ port.toNat) }

end Sys2Proof.Machine
end

