-- ==== Sys2Proof/Machine/Barriers.lean ====
section
/-!
DEFINITION. Named barriers (R262 to R268, R270).
-/
namespace Sys2Proof.Machine

/-- A barrier that bar.cfg has not set up: kind 0 (R263). -/
def Barrier.off (team crew : Nat) (num : BitVec 6) : Barrier :=
  { team := team, crew := crew, num := num, kind := 0, scope := 0, count := 0, phase := 0, arrivals := 0, expected := 0,
    landed := 0, err := false, svalid := false, code := 0, elem := 0, land := 0 }

/-- A team's barrier of a number on the core that holds a crew. -/
def State.barrierOf (s : State) (team crew : Nat) (num : BitVec 6) : Barrier :=
  (s.barriers.find? (fun b => b.team == team && b.crew == crew && b.num == num)).getD (Barrier.off team crew num)

/-- The barriers with one replaced. -/
def putBarrier (b : Barrier) (l : List Barrier) : List Barrier :=
  b :: l.filter (fun x => !(x.team == b.team && x.crew == b.crew && x.num == b.num))

/-- The current thread's barrier of a number. -/
def State.myBarrier (s : State) (num : BitVec 6) : Barrier := s.barrierOf s.cur.team s.crew num

/-- Whether the number belongs to another team on the current core (R263, R283): a team not yet complete that was bound there and
names it in its bars mask. -/
def State.foreignBarrier (s : State) (num : BitVec 6) : Bool :=
  s.teams.any (fun t => t.num != s.cur.team && !t.ended && t.record.bars.getLsbD num.toNat && t.cores.contains (coreOf s.cur.slot))

/-- A barrier's trap (R268). -/
def State.barrierTrap (s : State) (num : BitVec 6) (reason : Nat) : State :=
  s.issueTrap 0x4B s.cur.pc (einfoBarrier num reason) false

/-- The token of a thread for a barrier (R264). -/
def Thread.token (t : Thread) (num : BitVec 6) : Token := (t.tokens[num.toNat]?).getD { phase := 0, valid := false }

/-- Sets a token. -/
def Thread.setToken (t : Thread) (num : BitVec 6) (k : Token) : Thread := { t with tokens := t.tokens.setIfInBounds num.toNat k }

/-- Whether g(ga) breaks the table of bar.cfg (R263). -/
def badConfig (x : Word) : Bool :=
  let kind := (x.extractLsb' 0 2).toNat
  let scope := (x.extractLsb' 2 3).toNat
  let count := (x.extractLsb' 8 3).toNat
  kind == 3 || x.extractLsb' 5 3 != 0 || x.toNat ≥ 2 ^ 11 || 4 < scope || (kind == 2 && scope != 0) ||
    (kind == 1 && !(1 ≤ count && count ≤ 4)) || (kind != 1 && count != 0)

/-- The traps of bar.cfg in the order R263 lists them: value, owner, use. -/
def State.configReason (s : State) (num : BitVec 6) (x : Word) : Option Nat :=
  let b := s.myBarrier num
  if badConfig x then some 6
  else if !s.record.bars.getLsbD num.toNat then some 10
  else if s.foreignBarrier num then some 5
  else if (b.kind == 1 && b.arrivals != 0) || (b.kind == 2 && b.landed < b.expected) then some 8
  else none

/-- `bar.cfg` (R263): sets kind, scope and count, resets every count, the phase and the status, and invalidates the team's tokens on
the core. It is a release. -/
def execBarCfg (f : FmtBar) (s : State) : Out :=
  s.scalar false [(f.ga, f.sa, 0)] [] (fun s =>
    let x := s.cur.gread f.ga
    if !s.cur.drained then s
    else
      match s.configReason f.bar x with
      | some r => s.barrierTrap f.bar r
      | none =>
        let b := { Barrier.off s.cur.team s.crew f.bar with
          kind := x.extractLsb' 0 2, scope := x.extractLsb' 2 3, count := (x.extractLsb' 8 3).toNat }
        let r := s.record
        let clear := fun (t : Thread) =>
          if t.team = s.cur.team ∧ r.crew t.lthread = s.crew then t.setToken f.bar { phase := 0, valid := false } else t
        { s with barriers := putBarrier b s.barriers, others := s.others.map clear, cur := (clear s.cur).next })

/-- Whether a crew has reported in the current phase: its arrivals have reached its count (R264). -/
def Barrier.reported (b : Barrier) : Bool := b.kind == 1 && b.count != 0 && decide (b.count ≤ b.arrivals)

/-- Whether an arrival would send a report that differs from one the combiner holds (R264). -/
def State.reportDiffers (s : State) (b : Barrier) : Bool :=
  let r := s.record
  decide (b.arrivals + 1 = b.count) &&
    s.barriers.any (fun o => o.team == b.team && o.num == b.num && o.crew != b.crew && o.reported && o.scope != b.scope &&
      ((r.crewsWith b.scope.toNat b.crew).contains o.crew || (r.crewsWith o.scope.toNat o.crew).contains b.crew))

/-- One arrival (R264): the count rises and the token is set to the phase. -/
def State.arrive (s : State) (b : Barrier) : State :=
  { s with barriers := putBarrier { b with arrivals := b.arrivals + 1 } s.barriers
           cur := s.cur.setToken b.num { phase := b.phase, valid := true } }

/-- The traps that an arrival and a wait share (R264, R268): another team's barrier, off, wrong kind. -/
def State.useReason (s : State) (num : BitVec 6) (landingOk : Bool) : Option Nat :=
  let b := s.myBarrier num
  if s.foreignBarrier num then some 5
  else if b.kind = 0 then some 1
  else if b.kind = 2 ∧ !landingOk then some 2
  else none

/-- `bar.arrive` (R264): a release; a second arrival in one phase traps. -/
def execBarArrive (f : FmtBar) (s : State) : Out :=
  s.scalar false [] [] (fun s =>
    if !s.cur.drained then s
    else
      match s.useReason f.bar false with
      | some r => s.barrierTrap f.bar r
      | none =>
        let b := s.myBarrier f.bar
        let k := s.cur.token f.bar
        if k.valid && k.phase == b.phase then s.barrierTrap f.bar 3
        else if s.reportDiffers b then s.barrierTrap f.bar 7
        else (s.arrive b).mod Thread.next)

/-- `bar.wait` (R264, R265): on a thread barrier it needs a valid token and waits until the phase has moved on; on a landing
barrier it waits until landed ≥ g(ga). -/
def execBarWait (f : FmtBar) (s : State) : Out :=
  s.scalar false [(f.ga, f.sa, 0)] [] (fun s =>
    match s.useReason f.bar true with
    | some r => s.barrierTrap f.bar r
    | none =>
      let b := s.myBarrier f.bar
      if b.kind = 2 then (if (s.cur.gread f.ga).toNat ≤ b.landed then s.mod Thread.next else s)
      else
        let k := s.cur.token f.bar
        if !k.valid then s.barrierTrap f.bar 4
        else if k.phase = b.phase then s
        else s.mod (fun t => (t.setToken f.bar { k with valid := false }).next))

/-- `bar.sync` (R264): it arrives unless its token holds the phase, then waits as bar.wait does. While it waits it does not arrive
again, nor where it runs again after a trap or a pre-emption (R270); a phase that has moved on lets it go on. -/
def execBarSync (f : FmtBar) (s : State) : Out :=
  s.scalar false [] [] (fun s =>
    if !s.cur.drained then s
    else if s.cur.syncing = some (f.bar, s.cur.pc) ∧ (s.cur.token f.bar).valid then
      if (s.cur.token f.bar).phase = (s.myBarrier f.bar).phase then s
      else s.mod (fun t => ({ t with syncing := none } : Thread).setToken f.bar { t.token f.bar with valid := false } |>.next)
    else
      match s.useReason f.bar false with
      | some r => s.barrierTrap f.bar r
      | none =>
        let b := s.myBarrier f.bar
        let k := s.cur.token f.bar
        if k.valid && k.phase == b.phase then s.mod (fun t => { t with syncing := some (f.bar, t.pc) })
        else if s.reportDiffers b then s.barrierTrap f.bar 7
        else (s.arrive b).mod (fun t => { t with syncing := some (f.bar, t.pc) }))

/-- The state of a barrier as bar.stat packs it (R267). -/
def Barrier.stat (b : Barrier) (status : Bool) : Word :=
  BitVec.ofNat 64 (
    if status then
      (if b.err then 1 else 0) + (if b.svalid then 2 else 0) + 2 ^ 8 * b.code.toNat + 2 ^ 16 * b.elem.toNat + 2 ^ 32 * (b.land % 2 ^ 32)
    else
      match b.kind.toNat with
      | 1 => b.phase.toNat + 2 ^ 16 * (b.arrivals % 8) + 2 ^ 19 * b.count + 2 ^ 22 * b.scope.toNat + 2 ^ 25
      | 2 => b.landed % 2 ^ 32 + 2 ^ 32 * (b.expected % 2 ^ 32)
      | _ => 0)

/-- Whether an entry adds to the expected count of a landing barrier when it retires (R176, R214, R267): a tcopy, kseal or
kopen whose captured landing descriptor names it; nothing where its dispatch found nothing to hand over. -/
def Entry.addsTo (e : Entry) (bar : BitVec 6) : Bool :=
  match e.phase with
  | .done r =>
    match r.hand with
    | .copy c => c.bar == bar
    | .sealed o => o.bar == bar
    | _ => false
  | .unstarted =>
    (majorOf e.word == 0x20 && fn4Of e.word == 5 && (e.lateA.isSome || e.opa.extractLsb' 0 6 == bar)) ||
      (majorOf e.word == 0x23 && (e.lateB.isSome || e.opb.extractLsb' 0 6 == bar))

/-- `bar.stat` (R267): a snapshot of the barrier, once no older entry may add to its expected count. -/
def execBarStat (f : FmtBar) (s : State) : Out :=
  s.scalar false [(f.ga, f.sa, 0)] [f.gd] (fun s =>
    if s.foreignBarrier f.bar then s.barrierTrap f.bar 5
    else if s.cur.waited.any (fun e => e.addsTo f.bar) then s
    else s.mod (fun t => (t.gwrite f.gd ((s.myBarrier f.bar).stat ((t.gread f.ga).getLsbD 0))).next))

/-- The crews whose phase completes with that of a crew: every crew of the scope instance, where each has reported (R264). -/
def State.completeCrews (s : State) (team : Nat) (num : BitVec 6) (crew : Nat) : Option (List Nat) :=
  match s.team team with
  | none =>
    let b := s.barrierOf team crew num
    if b.reported then some [crew] else none
  | some t =>
    let b := s.barrierOf team crew num
    let crews := t.record.crewsWith b.scope.toNat crew
    if b.reported && crews.all (fun c => (s.barrierOf team c num).reported && (s.barrierOf team c num).scope == b.scope)
    then some crews else none

/-- A phase completes on these crews (R264): the phase rises and the arrivals return to 0. A bar.sync or bar.wait that waits goes on when it
runs again. -/
def State.completePhase (s : State) (team : Nat) (num : BitVec 6) (crews : List Nat) : State :=
  { s with barriers := s.barriers.map (fun b =>
      if b.team = team ∧ b.num = num ∧ crews.contains b.crew then { b with phase := b.phase + 1, arrivals := 0 } else b) }

/-- The first crew of a team at which a barrier's phase is complete. -/
def State.readyPhase (s : State) (team : Nat) (num : BitVec 6) : Option (List Nat) :=
  (s.barriers.filter (fun b => b.team == team && b.num == num)).findSome? (fun b => s.completeCrews team num b.crew)

/-- BARRIER_PHASE_COMPLETE (R264): every participating core has reported, so the phase advances and waiters complete. -/
def execBarrierPhaseComplete (team : Nat) (bar : BitVec 6) (s : State) : Out :=
  match s.readyPhase team bar with
  | some crews => .next (s.completePhase team bar crews)
  | none => .next s

end Sys2Proof.Machine
end

