-- ==== Sys2Proof/Machine/Copies.lean ====
section
/-!
DEFINITION. The copy engine (R172 to R179): tcopy with its checks and pins, and the landing of a copy's elements.
-/
namespace Sys2Proof.Machine

/-- P[d] of R169. -/
def Shape.below (h : Shape) (d : Nat) : Nat := (h.size.take d).foldl (· * ·) 1

/-- idx[d] of element n (R169). -/
def Shape.index (h : Shape) (n d : Nat) : Nat := n / max 1 (h.below d) % max 1 (h.size.getD d 1)

/-- The address of element n, or of the stored block that holds it (R169). -/
def Shape.addr (h : Shape) (n : Nat) : Int :=
  (List.range h.ndim).foldl (fun (a : Int) d =>
    let k := h.index n d
    a + (if d = 0 ∧ (isBlock h.type || h.type == 0x0E) then k / 32 else k : Nat) * h.stride.getD d 0) h.base

/-- Whether a record is of a block type (R168). -/
def Shape.block (h : Shape) : Bool := isBlock h.type || h.type == 0x0E

/-- The element size in bytes of R173: one for a block record. -/
def Shape.unit (h : Shape) : Nat := if h.block then 1 else typeWidth h.type / 8

/-- Whether some stride of a record's dimensions is not a multiple of n, from dimension d on. -/
def Shape.strideOff (h : Shape) (n d : Nat) : Bool := ((h.stride.take h.ndim).drop d).any (fun k => k % (max 1 n : Nat) != 0)

/-- Why a landing barrier cannot be used by a queued instruction (R173, R214, R268). -/
def State.landingReason (s : State) (bar : Nat) : Option Nat :=
  let num := BitVec.ofNat 6 bar
  let b := s.myBarrier num
  if 48 ≤ bar then some 1
  else if s.foreignBarrier num then some 5
  else if b.kind = 0 then some 1
  else if b.kind ≠ 2 then some 2
  else none

/-- What the entries of a queue that wait to retire will still add to a landing barrier's expected count. -/
def pendingExpected (q : List Entry) (team crew : Nat) (bar : BitVec 6) : Nat :=
  (q.map (fun e => match e.phase with
    | .done r => (match r.hand with
      | .copy c => if c.team = team ∧ c.crew = crew ∧ c.bar = bar then c.moves.length else 0
      | .sealed o => if o.team = team ∧ o.crew = crew ∧ o.bar = bar then 1 else 0
      | .nothing => 0
      | .stream _ => 0)
    | .unstarted => 0)).foldl (· + ·) 0

/-- Whether n more would take a landing barrier's expected count to 2^32 (R265). -/
def State.expectedOver (s : State) (bar : BitVec 6) (n : Nat) : Bool :=
  let waiting := ((s.cur :: s.others).map (fun t => pendingExpected t.queue s.cur.team s.crew bar)).foldl (· + ·) 0
  2 ^ 32 ≤ (s.myBarrier bar).expected + waiting + n

/-- How many more pins a copy of the current thread may take (R175): 2,048 for each stand's engine, 512 for each thread. -/
def State.pinRoom (s : State) : Nat :=
  let count := fun (l : List Copy) => (l.map (fun c => c.pins.length)).foldl (· + ·) 0
  let mine := count (s.pinning.filter s.ownCopy)
  let stand := count (s.pinning.filter (fun c => c.stand == standOf s.cur.slot))
  min (512 - mine) (2048 - stand)

/-- The checks of R173, orders 2 to 5, in their order: the trap that the first one to fail takes. -/
def State.copyCheck (s : State) (hs hd : Nat) (view : View) : Option CheckTrap :=
  let t := s.cur
  let desc := view.opa.toNat
  let src := shapeOf (t.hread hs)
  let dst := shapeOf (t.hread hd)
  let start := desc / 2 ^ 16
  let size := blockBytes src.type
  let shapeTrap := fun (opnd order : Nat) => some ({ cause := 0x4A, addr := view.pc, info := einfoShape opnd order 0 } : CheckTrap)
  let badBlock := fun (h : Shape) => h.size.getD 0 0 % 32 != 0 || h.stride.getD 0 0 != (size : Int) || h.strideOff size 1
  if t.hill.getLsbD (hs % 8) then shapeTrap 0 2
  else if t.hill.getLsbD (hd % 8) then shapeTrap 2 2
  else if bitsOf desc 15 6 ≠ 0 then shapeTrap 1 2
  else if src.type ≠ dst.type then shapeTrap 2 2
  else if src.strideOff src.unit 0 then shapeTrap 0 3
  else if dst.strideOff dst.unit 0 then shapeTrap 2 3
  else if src.block && badBlock src then shapeTrap 0 4
  else if src.block && badBlock dst then shapeTrap 2 4
  else if src.block && (start % 32 != 0 || view.vl % 32 != 0) then shapeTrap 1 4
  else
    match s.landingReason (desc % 64) with
    | some r => some { cause := 0x4B, addr := view.pc, info := einfoBarrier (BitVec.ofNat 6 desc) r }
    | none => none

/-- What pinning has gathered: the moves, the pins, and what was reached, to be marked A and D. -/
structure Pinning where
  moves : List CopyMove
  pins : List Pin
  reads : List Reach
  writes : List Reach
  deriving Repr

/-- One side of element n (R174): its parts, or that it lies beyond the record. The copy engine finds data errors later (R177) and never
accesses an NS page. -/
def State.pinSide (s : State) (h : Shape) (n : Nat) (need : Need) (sub : Nat) : List Reach × State :=
  let c := s.cur.ctx
  if h.count ≤ n then
    ([{ cands := [{ cause := 0x0A, sub := sub, addr := 0 }], va := 0, pa := 0, leaf := noLeaf, ns := false, size := 0, write := false }], s)
  else
    let (rs, s') := if h.block then s.reachBlock c (h.addr n) h.type need
      else (let (r, s') := s.reachElem c oobPlain (h.addr n) h.unit need; ([r], s'))
    (rs.map (fun r => { r with cands := (r.cands.filter (fun x => x.cause != 0x07)) ++
        (if r.ns then [{ cause := 0x03, sub := 0, addr := r.va }] else []) }), s')

/-- The physical addresses of an element's bytes (R169, R172): all of a plain element; the exponents and the code's bytes of a
block's element k. -/
def moveBytes (h : Shape) (rs : List Reach) (k : Nat) : List Nat :=
  let first := (rs.head?.map (·.pa)).getD 0
  if h.block then
    let w := codeBits h.type
    let lo := w * k / 8
    let hi := (w * (k + 1) - 1) / 8
    [first, first + 1] ++ (List.range (hi - lo + 1)).map (fun b => first + 2 + lo + b)
  else (List.range h.unit).map (fun b => first + b)

/-- Pins element i (R174, R175): its source part, then its destination part. A block is reached once, at its first element. -/
def pinElem (src dst : Shape) (start : Nat) (view : View) (room : Nat) (i : Nat) (a : Acc) (p : Pinning) : Acc × Pinning :=
  let n := start + i
  let (rs, s1) := a.s.pinSide src n Need.load 0
  let (ws, s2) := s1.pinSide dst n Need.store 2
  let a1 := { a with s := s2 }
  let c := a1.s.cur.ctx
  let elem := if src.block then 32 * (i / 32) else i
  let fresh := ((rs ++ ws).filter (fun r => r.cands.isEmpty)).map (Reach.pin c) |>.eraseDups |>.filter (fun x => !p.pins.contains x)
  let left := room - p.pins.length
  let crowded := match fresh.drop left with | x :: _ => [({ cause := 0x0B, sub := 0, addr := x.va } : Cand)] | [] => []
  let causes := (rs ++ ws).flatMap (·.cands)
  match firstCand (causes ++ (if i = view.es then [] else crowded)) with
  | some x => (a1.failAt { elem := elem, cause := x.cause, sub := x.sub, addr := x.addr, lane := 0 }, p)
  | none =>
    if !crowded.isEmpty ∨ rs.any (fun r => a1.s.copyMeets r.pa r.size false) ∨ ws.any (fun r => a1.s.copyMeets r.pa r.size true) then
      ({ a1 with wait := true }, p)
    else
      let w := codeBits src.type
      let move : CopyMove := { index := i, src := moveBytes src rs (n % 32), dst := moveBytes dst ws (n % 32)
                               lo := if src.block then w * (n % 32) % 8 else 0, width := if src.block then w else 0 }
      (a1, { moves := p.moves ++ [move], pins := p.pins ++ fresh, reads := p.reads ++ rs, writes := p.writes ++ ws })

/-- The destination units of a move: the sectors of its bytes, by number, or the address of its block (R127, R157). -/
def CopyMove.units (m : CopyMove) : List Nat := if m.width = 0 then (m.dst.map (· / 32)).eraseDups else m.dst.take 1

/-- The destination units that these moves write in full (R157). A copy moves whole blocks (R173, R174). -/
def wholeUnits (moves : List CopyMove) : List Nat :=
  let bytes := moves.flatMap (·.dst)
  (moves.flatMap (fun m => m.units.filter (fun u => m.width != 0 || (List.range 32).all (fun k => bytes.contains (32 * u + k))))).eraseDups

/-- The width that a copy's elements count with for pre-emption (R94, R174): that of their records' type, 8 for a code of a b6 block. -/
def Shape.grain (h : Shape) : Nat × Bool := (if h.type = 0x0E then 8 else typeWidth h.type, h.block)

/-- The dispatch of a tcopy at length v (R173, R174): its checks, its bases, its pins; then what its retirement hands over. -/
def copyRun (hs hd : Nat) (v : Nat) (view : View) (a : Acc) : Acc :=
  let t := a.s.cur
  match a.s.copyCheck hs hd view with
  | some c => a.trap c.cause c.addr c.info
  | none =>
    let src := shapeOf (t.hread hs)
    let dst := shapeOf (t.hread hd)
    let desc := view.opa.toNat
    let bar := BitVec.ofNat 6 desc
    let a : Acc := { a with grain := some src.grain }
    match [src, dst].find? (fun h => h.base % max 1 h.unit != 0) with
    | some h => a.failAt { elem := view.es, cause := 0x04, sub := 0, addr := h.base, lane := 0 }
    | none =>
      let (a1, p) := Acc.walk (pinElem src dst (desc / 2 ^ 16) view a.s.pinRoom) ((List.range (v - view.es)).map (fun k => view.es + k)) a
        { moves := [], pins := [], reads := [], writes := [] }
      if !a1.ok then a1
      else if a1.s.expectedOver bar (v - view.es) then a1.trap 0x4B view.pc (einfoBarrier bar 9)
      else
        let a2 := (a1.effective t.ctx false p.reads).effective t.ctx true p.writes
        let ranges := p.moves.map (·.dst)
        { a2 with
          -- landed stream data that the copy may overwrite is fetched again (R166, R178)
          s := a2.s.mod (fun t => { t with q := t.q.map (fun q =>
            { q with ahead := q.ahead.filter (fun x => !meetsRange x.pa q.size ranges) }) })
          hand := .copy { num := 0, team := t.team, lthread := t.lthread, crew := a.s.crew, stand := standOf t.slot, bar := bar
                          moves := p.moves, whole := wholeUnits p.moves, pins := p.pins } }

/-- `tcopy hd, hs, gb` (R172 to R176). VT gives VL alone. -/
def tcopyDesc (f : FmtV) : Desc :=
  { typeOk := typeIn anyType
    scalars := [(f.vb, f.sb, 1)]
    empty := fun _ view a =>
      match a.s.copyCheck f.va.toNat f.vd.toNat view with
      | some c => a.trap c.cause c.addr c.info
      | none => a
    run := copyRun f.va.toNat f.vd.toNat }

/-- The bytes that a move leaves at its destination. -/
def moveValue (m : CopyMove) (src dst : List Byte) : List Byte :=
  if m.width = 0 then src
  else
    let x := leNat (src.drop 2) / 2 ^ m.lo % 2 ^ m.width
    let y := leNat (dst.drop 2)
    let old := y / 2 ^ m.lo % 2 ^ m.width
    src.take 2 ++ leBytes (dst.length - 2) (y - old * 2 ^ m.lo + x * 2 ^ m.lo)

/-- Runs of consecutive addresses with their bytes, so that a sector written whole is one write. -/
def runsOf : List (Nat × Byte) → List (Nat × List Byte)
  | [] => []
  | (a, b) :: rest =>
    match runsOf rest with
    | (a', bs) :: more => if a + 1 = a' then (a, b :: bs) :: more else (a, [b]) :: (a', bs) :: more
    | [] => [(a, [b])]

/-- Reads bytes at single addresses. -/
def State.readAt (s : State) (l : List Nat) : List Byte := l.flatMap (fun a => s.read a 1)

/-- Whether a destination unit of a move holds an uncorrected error. -/
def State.unitBad (s : State) (m : CopyMove) (u : Nat) : Bool := if m.width = 0 then s.poisoned (32 * u) 32 else s.blockBad u

/-- Whether the data that a move reads holds an uncorrected error (R177). -/
def State.sourceBad (s : State) (m : CopyMove) : Bool :=
  if m.width = 0 then m.src.any (fun a => s.poisoned a 1) else (m.src.take 1).any s.blockBad

/-- One landing on a barrier (R176, R177, R267): `bad` is the element that an uncorrected error affected. -/
def Barrier.landOne (b : Barrier) (bad : Option Nat) : Barrier :=
  let n := b.landed + 1
  match bad with
  | some i => if b.err then { b with landed := n } else { b with landed := n, err := true, elem := BitVec.ofNat 16 i, land := n }
  | none => { b with landed := n }

/-- Changes one barrier of a crew. -/
def onBarrier (team crew : Nat) (bar : BitVec 6) (f : Barrier → Barrier) (l : List Barrier) : List Barrier :=
  l.map (fun b => if b.team = team ∧ b.crew = crew ∧ b.num = bar then f b else b)

/-- The destination units of a move hold no error any more. -/
def State.healUnits (s : State) (m : CopyMove) (us : List Nat) : State :=
  if m.width = 0 then { s with poison := s.poison.filter (fun x => !us.contains x) } else s.healBlocks us

/-- The bytes of a move in memory, poison and all (R177). -/
def State.moveData (s : State) (m : CopyMove) : State :=
  let s1 := (runsOf (m.dst.zip (moveValue m (s.readAt m.src) (s.readAt m.dst)))).foldl (fun s w => s.put w.1 w.2) s
  let s2 := if s.sourceBad m then m.dst.foldl (fun s a => s.damage a 1) s1 else s1
  m.dst.foldl (fun s a => s.spoilRings a 1) s2

/-- Lands the next element of a copy (R176, R177): it is moved, poison and all, and counted; with the last one the copy ends and its pins
are released. A unit that the copy writes in part keeps its poison, which is an error of the element; one that it writes in full is rid of
it with the last element there (R157). -/
def State.landNext (s : State) (c : Copy) : State :=
  match c.moves with
  | [] => { s with copies := s.copies.filter (fun x => x.num != c.num) }
  | m :: rest =>
    let bad := s.sourceBad m || m.units.any (fun u => s.unitBad m u && !c.whole.contains u)
    let whole := if s.sourceBad m then c.whole.filter (fun u => !m.units.contains u) else c.whole
    let s1 := (s.moveData m).healUnits m (m.units.filter (fun u => whole.contains u && !rest.any (fun x => x.units.contains u)))
    { s1.tock with
      barriers := onBarrier c.team c.crew c.bar (fun b => b.landOne (if bad then some m.index else none)) s1.barriers
      copies := if rest.isEmpty then s1.copies.filter (fun x => x.num != c.num)
        else s1.copies.map (fun x => if x.num = c.num then { x with moves := rest, whole := whole } else x) }

/-- Whether a copy is the oldest of its thread on its barrier, so that its elements may land (R176). -/
def State.mayLand (s : State) (c : Copy) : Bool :=
  match s.copies.find? (fun x => x.team == c.team && x.lthread == c.lthread && x.crew == c.crew && x.bar == c.bar) with
  | some x => x.num == c.num
  | none => false

/-- COPY_LANDING (R176): the copy engine lands the next element of a copy in flight. -/
def execCopyLanding (copy : Nat) (s : State) : Out :=
  match s.copies.find? (fun c => c.num == copy) with
  | some c => .next (if s.mayLand c then s.landNext c else s)
  | none => .next s

end Sys2Proof.Machine
end

