-- ==== Sys2Proof/Machine/Launch.lean ====
section
/-!
DEFINITION. Launch records and graphs (R284, R288), the acceptance and refusal of a launch (R286, R289, R291), spawn (R299) and
vclaim (R303).
-/
namespace Sys2Proof.Machine

/-! ## Records -/

/-- A launch record's fields (R284). -/
def launchOf (bs : List Byte) : LaunchRecord :=
  { entry := BitVec.ofNat 64 (fieldAt bs 0 8), param := BitVec.ofNat 64 (fieldAt bs 8 8), save := BitVec.ofNat 64 (fieldAt bs 16 8)
    tpc := fieldAt bs 0x18 1, cps := fieldAt bs 0x19 1, spc := fieldAt bs 0x1A 1, cpt := fieldAt bs 0x1B 1, tr := fieldAt bs 0x1C 1
    prio := fieldAt bs 0x1D 1 % 4
    deps := ((List.range 4).map (fun d => fieldAt bs (0x20 + 4 * d) 4)).filter (fun d => d != 0)
    done := BitVec.ofNat 64 (fieldAt bs 0x30 8), bars := BitVec.ofNat 48 (fieldAt bs 0x38 8) }

/-- Whether a record launches a graph. -/
def isGraph (bs : List Byte) : Bool := (fieldAt bs 0x1D 1).testBit 2

/-- Whether a record breaks R284. -/
def recordBroken (bs : List Byte) : Bool :=
  let f := fun o n => fieldAt bs o n
  let counts := (List.range 5).map (fun k => f (0x18 + k) 1)
  f 0x1D 1 / 8 != 0 || f 0x1E 2 != 0 || f 0x30 8 % 8 != 0 || decide (2 ^ 56 ≤ f 0x30 8) || decide (2 ^ 48 ≤ f 0x38 8) ||
    (if isGraph bs then f 0 8 != 0 || f 8 8 != 0 || f 16 8 != 0 || f 0x28 8 != 0 || f 0x38 8 != 0 || counts.any (fun c => c != 0)
     else f 0 8 % 4 != 0 || decide (2 ^ 56 ≤ f 0 8) || f 16 8 % 4096 != 0 || decide (2 ^ 56 ≤ f 16 8) ||
       (counts.zip [4, 8, 4, 4, 8]).any (fun c => c.1 == 0 || decide (c.2 < c.1)))

/-- A graph header (R288). -/
structure GraphHead where
  nodes : Nat
  count : Nat
  concurrent : Bool
  coresident : Bool
  deriving DecidableEq, Repr

/-- The header that 64 bytes hold. -/
def graphOf (bs : List Byte) : GraphHead :=
  { nodes := fieldAt bs 8 8, count := fieldAt bs 4 2, concurrent := (fieldAt bs 6 1).testBit 0, coresident := (fieldAt bs 6 1).testBit 1 }

/-- Whether a header breaks R288. -/
def graphBroken (bs : List Byte) : Bool :=
  fieldAt bs 4 2 == 0 || decide (256 < fieldAt bs 4 2) || fieldAt bs 6 1 / 4 != 0 || fieldAt bs 7 1 != 0 || fieldAt bs 16 48 != 0

/-- Whether node i breaks R288: a record without graph and done whose deps name earlier nodes. -/
def nodeBroken (i : Nat) (bs : List Byte) : Bool :=
  recordBroken bs || isGraph bs || fieldAt bs 0x30 8 != 0 || (launchOf bs).deps.any (fun d => decide (i < d))

/-- A launch that is asked for: whose it is and how its addresses translate; its record; its graph, if any; the records of its teams. -/
structure LaunchAsk where
  part : Nat
  ctx : Ctx
  record : LaunchRecord
  graph : Option (Word × GraphHead)
  nodes : List LaunchRecord
  deriving DecidableEq, Repr

/-- The ask that a record, a header and nodes make, or the index of the node at which R284 or R288 is broken (R299, order 3). -/
def askOf (part : Nat) (c : Ctx) (bs head : List Byte) (nodes : List (List Byte)) : Except Nat LaunchAsk :=
  let r := launchOf bs
  if recordBroken bs then .error 0
  else if !isGraph bs then .ok { part := part, ctx := c, record := r, graph := none, nodes := [r] }
  else if graphBroken head then .error 0
  else
    match (nodes.zipIdx).find? (fun x => nodeBroken x.2 x.1) with
    | some x => .error x.2
    | none => .ok { part := part, ctx := c, record := r, graph := some (BitVec.ofNat 64 (fieldAt bs 0x20 8), graphOf head)
                    nodes := nodes.map launchOf }

/-! ## Places -/

/-- The physical unit of a level that holds a slot: core, stand, compartment, tract (R15). -/
def unitOf : Nat → Nat → Nat
  | 0, slot => slot / 4
  | 1, slot => slot / 32
  | 2, slot => slot / 128
  | _, slot => slot / 512

/-- A logical thread of a team on a slot. -/
structure Seat where
  team : Nat
  record : LaunchRecord
  n : Nat
  slot : Nat
  deriving DecidableEq, Repr

/-- Whether two seats agree (R282, R283): distinct slots; within a team the same unit at a level exactly where the threads share the
logical unit; teams that name the same barrier never share a core. -/
def Seat.agrees (a b : Seat) : Bool :=
  a.slot != b.slot &&
    (if a.team = b.team then
      (List.range 4).all (fun l => (a.record.instanceOf l a.n == b.record.instanceOf l b.n) == (unitOf l a.slot == unitOf l b.slot))
     else a.record.bars &&& b.record.bars == 0 || unitOf 0 a.slot != unitOf 0 b.slot)

/-- Whether a partition may run threads on a core: it owns a pipe there, and the core is in service (R292, R381). -/
def State.coreUsable (s : State) (part core : Nat) : Bool :=
  (s.grantsOf 1 part).any (fun g => decide (g.first ≤ core ∧ core < g.first + g.count) && g.value % 128 != 0) &&
    !s.units.coresOff.contains core && !s.units.tractsOff.contains (core / 128) && (List.range 8).any (fun g => !s.units.lanesOff.contains (core, g))

/-- How many of n units from `first` on satisfy a test. -/
def countUnits (ok : Nat → Bool) (first n : Nat) : Nat := ((List.range n).filter (fun k => ok (first + k))).length

/-- Whether a team's shape can be placed on an empty layout (R282). -/
def shapeFits (usable : Nat → Bool) (r : LaunchRecord) : Bool :=
  let stand := fun k => decide (r.cps ≤ countUnits usable (8 * k) 8)
  let compartment := fun k => decide (r.spc ≤ countUnits stand (4 * k) 4)
  let tract := fun k => decide (r.cpt ≤ countUnits compartment (4 * k) 4)
  decide (r.tr ≤ countUnits tract 0 8)

/-- Whether the listed threads can all be seated beside those already placed. -/
def seatsFit (usable : Nat → Bool) : List (Nat × LaunchRecord × Nat) → List Seat → Bool
  | [], _ => true
  | x :: xs, placed =>
    (List.range 4096).any (fun slot =>
      let seat : Seat := { team := x.1, record := x.2.1, n := x.2.2, slot := slot }
      usable (slot / 4) && placed.all seat.agrees && seatsFit usable xs (seat :: placed))

/-- The threads of teams, numbered from 0. -/
def threadsOf (rs : List LaunchRecord) : List (Nat × LaunchRecord × Nat) :=
  rs.zipIdx.flatMap (fun x => (List.range x.1.threads).map (fun n => (x.2, x.1, n)))

/-! ## Acceptance -/

/-- The number that a partition's next launch receives (R286). -/
def State.nextLaunch (s : State) (part : Nat) : Nat := ((s.launchNumbers.find? (fun x => x.1 == part)).map (·.2)).getD 1

/-- The frames of a save area's pages from `va` on (R285, R291), if each of the n pages is mapped, writable and not NS. -/
def savePages (c : Ctx) (va : Nat) (s : State) : Nat → Nat → Option (List Nat)
  | 0, _ => some []
  | n + 1, k =>
    let r := (s.reachPart c (va + 4096 * k : Nat) 4096 Need.store none (oobPlain (va + 4096 * k : Nat))).1
    if !r.cands.isEmpty ∨ r.ns then none
    else (savePages c va s n (k + 1)).map (fun l => r.pa / 4096 :: l)

/-- The frames of every team's save area: per team, one for each page; or the index of the first team whose area cannot be used. -/
def saveAreas (c : Ctx) (s : State) : List LaunchRecord → Nat → Except Nat (List (List Nat))
  | [], _ => .ok []
  | r :: rs, i =>
    match savePages c r.save.toNat s (16 * r.threads + 1) 0, saveAreas c s rs (i + 1) with
    | none, _ => .error i
    | some _, .error j => .error j
    | some l, .ok ls => .ok (l :: ls)

/-- The launches of a partition that wait in its queue (R291): accepted, and no team of theirs started. -/
def State.queuedLaunches (s : State) (part : Nat) : Nat :=
  (s.launches.filter (fun l => l.part == part && !l.complete && !s.teams.any (fun t => t.part == part && t.launch == l.number && t.started))).length

/-- Why the hub refuses a launch, if it does (R291), in the order 4, 3, 5, 1, 6, 2: reason and node; and the frames of the save areas. -/
def State.refuseLaunch (s : State) (k : LaunchAsk) : Except (Nat × Nat) (List (List Nat)) :=
  let next := s.nextLaunch k.part
  let together := match k.graph with | some g => g.2.coresident | none => false
  let usable := s.coreUsable k.part
  match (k.nodes.zipIdx).find? (fun x => together && !x.1.deps.isEmpty) with
  | some x => .error (4, x.2)
  | none =>
    if k.graph.isNone && k.record.deps.any (fun d => decide (next ≤ d)) then .error (3, 0)
    else
      match saveAreas k.ctx s k.nodes 0 with
      | .error i => .error (5, i)
      | .ok pages =>
        match (k.nodes.zipIdx).find? (fun x => !shapeFits usable x.1) with
        | some x => .error (1, x.2)
        | none =>
          if together && !seatsFit usable (threadsOf k.nodes) [] then .error (1, 0)
          else if 2 ^ 32 ≤ next then .error (6, 0)
          else if 256 ≤ s.queuedLaunches k.part then .error (2, 0)
          else .ok pages

/-- A team as it is accepted: `pages` are the frames of its save area. -/
def newTeam (num : Nat) (k : LaunchAsk) (number node : Nat) (r : LaunchRecord) (pages : List Nat) : Team :=
  { num := num, hub := none, part := k.part, launch := number, node := node, record := r, started := false, placement := []
    pages := pages, cores := [], blockKey := 0, exited := List.replicate r.threads false
    saved := List.replicate r.threads false, lanes := [], lastSlot := [], kinds := [], marks := [], ended := false }

/-- The n lowest of the model's own team numbers that no team bears. -/
def State.freshTeams (s : State) (n : Nat) : List Nat :=
  ((List.range (s.teams.length + n)).filter (fun k => !s.teams.any (fun t => t.num == k))).take n

/-- The hub accepts a launch (R286, R289): the partition's next number, and a team for its record or for each node of its graph. -/
def State.acceptLaunch (s : State) (k : LaunchAsk) (pages : List (List Nat)) : Nat × State :=
  let number := s.nextLaunch k.part
  let launch : Launch :=
    { part := k.part, number := number, done := k.record.done, deps := if k.graph.isSome then [] else k.record.deps
      graph := k.graph.map (·.1), concurrent := (k.graph.map (·.2.concurrent)).getD false
      coresident := (k.graph.map (·.2.coresident)).getD false, complete := false, torn := false }
  let teams := ((k.nodes.zip pages).zip (s.freshTeams k.nodes.length)).zipIdx.map (fun x => newTeam x.1.2 k number x.2 x.1.1.1 x.1.1.2)
  (number, { s with
    launches := s.launches ++ [launch], teams := s.teams ++ teams
    launchNumbers := (k.part, number + 1) :: s.launchNumbers.filter (fun x => x.1 != k.part) })

/-! ## spawn and vclaim -/

/-- Reads n nodes of 64 bytes from `va` on. -/
def Acc.readNodes (a : Acc) (view : View) (va : Nat) : Nat → Nat → List (List Byte) × Acc
  | 0, _ => ([], a)
  | n + 1, i =>
    let (bs, a1) := a.readRecord view 0 true (va + 64 * i) 64 64
    if !a1.ok then ([], a1)
    else
      let (rest, a2) := Acc.readNodes a1 view va n (i + 1)
      (bs :: rest, a2)

/-- Reads a record's graph header and its nodes (R299, order 2); a header without a valid count has none to read. -/
def Acc.readGraph (a : Acc) (view : View) (bs : List Byte) : List Byte × List (List Byte) × Acc :=
  if !a.ok ∨ !isGraph bs then ([], [], a)
  else
    let (head, a1) := a.readRecord view 0 true (fieldAt bs 0x20 8) 64 64
    if !a1.ok then (head, [], a1)
    else
      let g := graphOf head
      let (nodes, a2) := a1.readNodes view g.nodes (if 256 < g.count then 0 else g.count) 0
      (head, nodes, a2)

/-- `spawn gd, [ga]` (R299). -/
def spawnDesc (f : FmtSR) : Desc :=
  { scalars := [(f.ga, f.sa, 0)]
    ownLength := true
    trims := false
    run := fun _ view a =>
      if view.es ≠ 0 then a
      else
        let (bs, a1) := a.readRecord view 0 true view.opa.toNat 64 64
        let (head, nodes, a2) := a1.readGraph view bs
        if !a2.ok then a2
        else
          match askOf a2.s.cur.part.toNat a2.s.cur.ctx bs head nodes with
          | .error i => a2.trap 0x4A view.pc (einfoShape 3 3 i)
          | .ok k =>
            match a2.s.refuseLaunch k with
            | .error (reason, i) => a2.trap 0x4F view.pc (BitVec.ofNat 64 (reason + 2 ^ 10 * i))
            | .ok pages =>
              let (number, s1) := a2.s.acceptLaunch k pages
              ({ a2 with s := s1 } : Acc).setG f.gd (BitVec.ofNat 64 number) }

/-- `vclaim gd, [ga]` (R303): a queued VL writer; one strong access of 16 bytes. -/
def vclaimDesc (f : FmtSR) : Desc :=
  { scalars := [(f.ga, f.sa, 0)]
    ownLength := true
    trims := false
    run := fun _ view a =>
      let c := view.opa.toNat
      let failed := fun (a : Acc) (cause : BitVec 8) => a.failAt { elem := 0, cause := cause, sub := 0, addr := c, lane := 0 }
      if view.es ≠ 0 ∨ view.vl = 0 then a
      else if c % 16 ≠ 0 then failed a 0x04
      else
        let (r, s1) := a.s.reachPart a.s.cur.ctx (c : Nat) 16 Need.both none (oobPlain (c : Nat))
        let a1 := { a with s := s1 }
        match firstCand r.cands with
        | some x => if a1.s.copyHeals x [r] then { a1 with wait := true } else a1.failAt { elem := 0, cause := x.cause, sub := x.sub, addr := x.addr, lane := 0 }
        | none =>
          if (r.ns && !atCommit a1.s.cur view) || a1.s.copyMeets r.pa 16 true then { a1 with wait := true }
          else if a1.s.sizeTrap r.pa 16 then failed a1 0x4C
          else
            let claim := fun m =>
              let n := m % 2 ^ 64
              let limit := m / 2 ^ 64
              if n < limit then min view.vl (limit - n) else 0
            let a2 := a1.effective a1.s.cur.ctx (claim (leNat (a1.s.strongRead r.pa 16).1) != 0) [r]
            let (old, s2) := a2.s.strongUpdate r.pa 16 (fun m => if claim m = 0 then none else some (m / 2 ^ 64 * 2 ^ 64 + (m % 2 ^ 64 + claim m)))
            { ({ a2 with s := s2 } : Acc).setG f.gd (BitVec.ofNat 64 old) with vlOut := some (claim old) } }

end Sys2Proof.Machine
end

