-- ==== Sys2Proof/Machine/Arithmetic.lean ====
section
/-!
DEFINITION. Element-wise arithmetic of majors 0x28, 0x29 and 0x2F (R101 to R109).
-/
namespace Sys2Proof.Machine

/-- An operation on the types of a class: type code, rounding mode, elements of vd, va and vb; the result and its flags. -/
abbrev ElemOp := Nat → Rm → Nat → Nat → Nat → FRes

/-- An element of an integer type as a number (R101). -/
def intOf (ty x : Nat) : Int := if isSigned ty then signedOf (typeWidth ty) x else ((x % 2 ^ typeWidth ty : Nat) : Int)

/-- An integer result kept to the element width (R105). -/
def wrapElem (ty : Nat) (x : Int) : FRes := (wrapTo (typeWidth ty) x, 0)

/-- An integer result clamped to the range of the type (R105). -/
def clampElem (ty : Nat) (x : Int) : FRes := (wrapTo (typeWidth ty) (clampTo (intRange (isSigned ty) (typeWidth ty)) x), 0)

/-- An element of a floating-point type as a value. -/
def floatOf (ty x : Nat) : FVal := decodeF (fmtOf ty) x

/-- a + b (R107). -/
def vAddOp : ElemOp := fun ty rm _ a b =>
  if isFloat ty then fAddV (fmtOf ty) rm (floatOf ty a) (floatOf ty b) else wrapElem ty (intOf ty a + intOf ty b)

/-- a − b (R107). -/
def vSubOp : ElemOp := fun ty rm _ a b =>
  if isFloat ty then fAddV (fmtOf ty) rm (floatOf ty a) (floatOf ty b).negate else wrapElem ty (intOf ty a - intOf ty b)

/-- a × b (R107). -/
def vMulOp : ElemOp := fun ty rm _ a b =>
  if isFloat ty then fMulV (fmtOf ty) rm (floatOf ty a) (floatOf ty b) else wrapElem ty (intOf ty a * intOf ty b)

/-- vd + a × b (R107). -/
def vMacOp : ElemOp := fun ty rm d a b =>
  if isFloat ty then fMacV (fmtOf ty) rm (floatOf ty d) (floatOf ty a) (floatOf ty b)
  else wrapElem ty (intOf ty d + intOf ty a * intOf ty b)

/-- The smaller of a and b (R107). -/
def vMinOp : ElemOp := fun ty _ _ a b =>
  if isFloat ty then fPick (fmtOf ty) true a b else wrapElem ty (min (intOf ty a) (intOf ty b))

/-- The larger of a and b (R107). -/
def vMaxOp : ElemOp := fun ty _ _ a b =>
  if isFloat ty then fPick (fmtOf ty) false a b else wrapElem ty (max (intOf ty a) (intOf ty b))

/-- The integer quotient of R105: truncated toward zero; a divisor of 0 gives −1, or all ones when unsigned. -/
def intQuot (ty : Nat) (a b : Int) : Int :=
  if b = 0 then (if isSigned ty then -1 else (2 ^ typeWidth ty : Nat) - 1) else a.tdiv b

/-- a ÷ b (R105, R107). -/
def vDivOp : ElemOp := fun ty rm _ a b =>
  if isFloat ty then fDivV (fmtOf ty) rm (floatOf ty a) (floatOf ty b) else wrapElem ty (intQuot ty (intOf ty a) (intOf ty b))

/-- The remainder (R105, R107): a for a divisor of 0, else with the sign of the dividend. -/
def vRemOp : ElemOp := fun ty _ _ a b =>
  if intOf ty b = 0 then wrapElem ty (intOf ty a) else wrapElem ty ((intOf ty a).tmod (intOf ty b))

/-- a & b (R107). -/
def vAndOp : ElemOp := fun _ _ _ a b => (a &&& b, 0)

/-- a | b (R107). -/
def vOrOp : ElemOp := fun _ _ _ a b => (a ||| b, 0)

/-- a ^ b (R107). -/
def vXorOp : ElemOp := fun _ _ _ a b => (a ^^^ b, 0)

/-- The shift amount (R105): the low log2(w) bits. -/
def shiftBy (ty b : Nat) : Nat := b % typeWidth ty

/-- a << b (R105, R107). -/
def vSllOp : ElemOp := fun ty _ _ a b => (a * 2 ^ shiftBy ty b % 2 ^ typeWidth ty, 0)

/-- a shifted right, filling with zeros (R105, R107). -/
def vSrlOp : ElemOp := fun ty _ _ a b => (a % 2 ^ typeWidth ty / 2 ^ shiftBy ty b, 0)

/-- a shifted right, filling with its sign bit (R105, R107). -/
def vSraOp : ElemOp := fun ty _ _ a b => wrapElem ty (signedOf (typeWidth ty) a / (2 ^ shiftBy ty b : Nat))

/-- a + b, clamped to the range of the type (R105, R107). -/
def vAddsOp : ElemOp := fun ty _ _ a b => clampElem ty (intOf ty a + intOf ty b)

/-- a − b, clamped to the range of the type (R105, R107). -/
def vSubsOp : ElemOp := fun ty _ _ a b => clampElem ty (intOf ty a - intOf ty b)

/-- Square root (R109). -/
def vSqrtOp : ElemOp := fun ty rm _ a _ => fSqrtV (fmtOf ty) rm (floatOf ty a)

/-- fl(vd − a × b) (R109). -/
def vNmacOp : ElemOp := fun ty rm d a b => fMacV (fmtOf ty) rm (floatOf ty d) (floatOf ty a).negate (floatOf ty b)

/-- A result that only changes the sign of a (R109): a NaN in a gives the canonical NaN, with NV if it signals. -/
def signOnly (ty a : Nat) (neg : Bool) (extra : BitVec 5) : FRes :=
  let f := fmtOf ty
  let v := floatOf ty a
  if v.isNan then (f.nan, v.sig ||| extra) else (a % f.signBit + (if neg then f.signBit else 0), extra)

/-- a with its sign bit cleared (R109). -/
def vAbsOp : ElemOp := fun ty _ _ a _ => signOnly ty a false 0

/-- a with its sign bit inverted (R109). -/
def vNegOp : ElemOp := fun ty _ _ a _ => signOnly ty a (a / (fmtOf ty).signBit % 2 == 0) 0

/-- Magnitude of a, sign of b (R109). -/
def vSgnjOp : ElemOp := fun ty _ _ a b => signOnly ty a (b / (fmtOf ty).signBit % 2 == 1) (floatOf ty b).sig

/-- 2^a (R109). -/
def vExp2Op : ElemOp := fun ty rm _ a _ => fExp2V (fmtOf ty) rm a

/-- log2 a (R109). -/
def vLog2Op : ElemOp := fun ty rm _ a _ => fLog2V (fmtOf ty) rm a

/-- a rounded to an integral value (R109). -/
def vRintOp : ElemOp := fun ty rm _ a _ => fRintV (fmtOf ty) rm a

/-- fl(a × 2^k), k the element of vb as a signed integer (R109). -/
def vScaleOp : ElemOp := fun ty rm _ a b => fScaleV (fmtOf ty) rm a (signedOf (typeWidth ty) b)

/-! ## The instructions -/

/-- `vadd vd, va, vb`: a + b (R107). -/
def vaddDesc (f : FmtV) : Desc := elementWise f isNumeric true false vAddOp

/-- `vsub vd, va, vb`: a − b (R107). -/
def vsubDesc (f : FmtV) : Desc := elementWise f isNumeric true false vSubOp

/-- `vmul vd, va, vb`: a × b, low w bits for I (R107). -/
def vmulDesc (f : FmtV) : Desc := elementWise f isNumeric true false vMulOp

/-- `vmac vd, va, vb`: vd + a × b, one rounding for F (R107). -/
def vmacDesc (f : FmtV) : Desc := elementWise f isNumeric true true vMacOp

/-- `vmin vd, va, vb`: the smaller of a and b (R107). -/
def vminDesc (f : FmtV) : Desc := elementWise f isNumeric true false vMinOp

/-- `vmax vd, va, vb`: the larger of a and b (R107). -/
def vmaxDesc (f : FmtV) : Desc := elementWise f isNumeric true false vMaxOp

/-- `vdiv vd, va, vb`: a ÷ b (R105, R107). -/
def vdivDesc (f : FmtV) : Desc := elementWise f isNumeric true false vDivOp

/-- `vrem vd, va, vb`: a − b × (a vdiv b) (R105, R107). -/
def vremDesc (f : FmtV) : Desc := elementWise f isInt true false vRemOp

/-- `vand vd, va, vb`: a & b (R107). -/
def vandDesc (f : FmtV) : Desc := elementWise f isInt true false vAndOp

/-- `vor vd, va, vb`: a | b (R107). -/
def vorDesc (f : FmtV) : Desc := elementWise f isInt true false vOrOp

/-- `vxor vd, va, vb`: a ^ b (R107). -/
def vxorDesc (f : FmtV) : Desc := elementWise f isInt true false vXorOp

/-- `vsll vd, va, vb`: a << b (R105, R107). -/
def vsllDesc (f : FmtV) : Desc := elementWise f isInt true false vSllOp

/-- `vsrl vd, va, vb`: a shifted right, zeros in (R105, R107). -/
def vsrlDesc (f : FmtV) : Desc := elementWise f isInt true false vSrlOp

/-- `vsra vd, va, vb`: a shifted right, sign bits in (R105, R107). -/
def vsraDesc (f : FmtV) : Desc := elementWise f isInt true false vSraOp

/-- `vadds vd, va, vb`: a + b, clamped (R105, R107). -/
def vaddsDesc (f : FmtV) : Desc := elementWise f isInt true false vAddsOp

/-- `vsubs vd, va, vb`: a − b, clamped (R105, R107). -/
def vsubsDesc (f : FmtV) : Desc := elementWise f isInt true false vSubsOp

/-- `vadd vd, va, gb` (R108): a + b (R107). -/
def vaddVsDesc (f : FmtV) : Desc := elementScalar f isNumeric false vAddOp

/-- `vsub vd, va, gb` (R108): a − b (R107). -/
def vsubVsDesc (f : FmtV) : Desc := elementScalar f isNumeric false vSubOp

/-- `vmul vd, va, gb` (R108): a × b, low w bits for I (R107). -/
def vmulVsDesc (f : FmtV) : Desc := elementScalar f isNumeric false vMulOp

/-- `vmac vd, va, gb` (R108): vd + a × b, one rounding for F (R107). -/
def vmacVsDesc (f : FmtV) : Desc := elementScalar f isNumeric true vMacOp

/-- `vmin vd, va, gb` (R108): the smaller of a and b (R107). -/
def vminVsDesc (f : FmtV) : Desc := elementScalar f isNumeric false vMinOp

/-- `vmax vd, va, gb` (R108): the larger of a and b (R107). -/
def vmaxVsDesc (f : FmtV) : Desc := elementScalar f isNumeric false vMaxOp

/-- `vdiv vd, va, gb` (R108): a ÷ b (R105, R107). -/
def vdivVsDesc (f : FmtV) : Desc := elementScalar f isNumeric false vDivOp

/-- `vand vd, va, gb` (R108): a & b (R107). -/
def vandVsDesc (f : FmtV) : Desc := elementScalar f isInt false vAndOp

/-- `vor vd, va, gb` (R108): a | b (R107). -/
def vorVsDesc (f : FmtV) : Desc := elementScalar f isInt false vOrOp

/-- `vxor vd, va, gb` (R108): a ^ b (R107). -/
def vxorVsDesc (f : FmtV) : Desc := elementScalar f isInt false vXorOp

/-- `vsll vd, va, gb` (R108): a << b (R105, R107). -/
def vsllVsDesc (f : FmtV) : Desc := elementScalar f isInt false vSllOp

/-- `vsrl vd, va, gb` (R108): a shifted right, zeros in (R105, R107). -/
def vsrlVsDesc (f : FmtV) : Desc := elementScalar f isInt false vSrlOp

/-- `vsra vd, va, gb` (R108): a shifted right, sign bits in (R105, R107). -/
def vsraVsDesc (f : FmtV) : Desc := elementScalar f isInt false vSraOp

/-- `vadds vd, va, gb` (R108): a + b, clamped (R105, R107). -/
def vaddsVsDesc (f : FmtV) : Desc := elementScalar f isInt false vAddsOp

/-- `vsubs vd, va, gb` (R108): a − b, clamped (R105, R107). -/
def vsubsVsDesc (f : FmtV) : Desc := elementScalar f isInt false vSubsOp

/-- `vsqrt` (R109). -/
def vsqrtDesc (f : FmtV) : Desc := elementWise f isFloat false false vSqrtOp

/-- `vnmac` (R109). -/
def vnmacDesc (f : FmtV) : Desc := elementWise f isFloat true true vNmacOp

/-- `vabs` (R109). -/
def vabsDesc (f : FmtV) : Desc := elementWise f isFloat false false vAbsOp

/-- `vneg` (R109). -/
def vnegDesc (f : FmtV) : Desc := elementWise f isFloat false false vNegOp

/-- `vsgnj` (R109). -/
def vsgnjDesc (f : FmtV) : Desc := elementWise f isFloat true false vSgnjOp

/-- `vexp2` (R109). -/
def vexp2Desc (f : FmtV) : Desc := elementWise f isFloat false false vExp2Op

/-- `vlog2` (R109). -/
def vlog2Desc (f : FmtV) : Desc := elementWise f isFloat false false vLog2Op

/-- `vrint` (R109). -/
def vrintDesc (f : FmtV) : Desc := elementWise f isFloat false false vRintOp

/-- `vscale` (R109). -/
def vscaleDesc (f : FmtV) : Desc := elementWise f isFloat true false vScaleOp

end Sys2Proof.Machine
end

