-- ==== Sys2Proof/Machine/Contract.lean ====
section
/-!
DEFINITION. Contracting tensors: tcon, major 0x36 (R187 to R193).
-/
namespace Sys2Proof.Machine

/-- An operand record of tcon (R188). -/
structure TconOperand where
  vals : Nat
  order : Nat
  type : Nat
  fmt : Nat
  ids : List Nat
  ptr : List Nat
  crd : List Nat
  deriving DecidableEq, Repr

/-- The parameter block of tcon (R188). -/
structure TconBlock where
  nidx : Nat
  acc : Bool
  cursor : Nat
  extent : List Nat
  a : TconOperand
  b : TconOperand
  c : TconOperand
  deriving DecidableEq, Repr

/-- An operand record at an offset of the block. -/
def operandAt (bs : List Byte) (o : Nat) : TconOperand :=
  { vals := fieldAt bs o 8, order := fieldAt bs (o + 8) 1, type := fieldAt bs (o + 9) 1, fmt := fieldAt bs (o + 10) 1
    ids := (List.range 4).map (fun d => fieldAt bs (o + 12 + d) 1), ptr := (List.range 4).map (fun d => fieldAt bs (o + 16 + 8 * d) 8)
    crd := (List.range 4).map (fun d => fieldAt bs (o + 48 + 8 * d) 8) }

/-- The parameter block that 384 bytes hold. -/
def tconBlockOf (bs : List Byte) : TconBlock :=
  { nidx := fieldAt bs 0 1, acc := fieldAt bs 1 1 % 2 == 1, cursor := fieldAt bs 8 8, extent := (List.range 6).map (fun x => fieldAt bs (16 + 4 * x) 4)
    a := operandAt bs 0x40, b := operandAt bs 0xA0, c := operandAt bs 0x100 }

/-- Whether dimension d is compressed. -/
def TconOperand.compressed (o : TconOperand) (d : Nat) : Bool := o.fmt / 2 ^ d % 2 == 1

/-- The ids that count, and whether a list strictly rises. -/
def TconOperand.indices (o : TconOperand) : List Nat := o.ids.take o.order

/-- Whether each number is below the next. -/
def rising : List Nat → Bool
  | x :: y :: rest => decide (x < y) && rising (y :: rest)
  | _ => true

/-- Whether an operand record breaks R188 or order 3 of R189 by itself: fields that must be 0 where the order or the format leaves them
unused count as reserved (log entry 22). -/
def TconOperand.malformed (o : TconOperand) (bs : List Byte) (off nidx : Nat) : Bool :=
  o.order < 1 || 4 < o.order || o.fmt / 2 ^ o.order != 0 || fieldAt bs (off + 11) 1 != 0 || fieldAt bs (off + 80) 16 != 0 ||
    o.indices.any (fun i => nidx ≤ i) || !rising o.indices || (o.ids.drop o.order).any (· != 0) ||
    (List.range 4).any (fun d => !o.compressed d && (o.ptr.getD d 0 != 0 || o.crd.getD d 0 != 0))

/-- Whether the header breaks R188 or order 3 of R189. -/
def TconBlock.malformed (k : TconBlock) (bs : List Byte) : Bool :=
  k.nidx < 1 || 6 < k.nidx || fieldAt bs 1 1 / 2 != 0 || fieldAt bs 2 6 != 0 || fieldAt bs 40 24 != 0 || fieldAt bs 0x160 32 != 0 ||
    (k.extent.take k.nidx).any (· == 0) || (k.extent.drop k.nidx).any (· != 0)

/-- How many indices C has: 0..c-1 (R189). -/
def TconBlock.outer (k : TconBlock) : Nat := k.c.order

/-- P, the points of C (R189). -/
def TconBlock.points (k : TconBlock) : Nat := (k.extent.take k.outer).foldl (· * ·) 1

/-- The checks of R189, orders 3 to 6: EINFO.opnd and order of the first that fails. Within a row the header comes first, then A, B and C
(log entry 22). DESIGN CHOICE (log entry 64), where R189 is silent: a type code of A or B that is no F type fails order 5; EINFO.opnd is 3
where an index appears in neither A nor B, and 2 where P is 2^48 or more. -/
def TconBlock.check (k : TconBlock) (bs : List Byte) : Option (Nat × Nat) :=
  if k.malformed bs then some (3, 3)
  else if k.a.malformed bs 0x40 k.nidx then some (0, 3)
  else if k.b.malformed bs 0xA0 k.nidx then some (1, 3)
  else if k.c.malformed bs 0x100 k.nidx then some (2, 3)
  else if (List.range k.nidx).any (fun x => !k.a.indices.contains x && !k.b.indices.contains x) then some (3, 4)
  else if k.c.fmt ≠ 0 ∨ k.c.indices ≠ List.range k.outer then some (2, 4)
  else if !isFloat k.a.type || typeWidth k.c.type < typeWidth k.a.type && isFloat k.c.type then some (0, 5)
  else if !isFloat k.b.type || typeWidth k.c.type < typeWidth k.b.type && isFloat k.c.type then some (1, 5)
  else if k.c.type ≠ 0x0A ∧ k.c.type ≠ 0x0B then some (2, 5)
  else if 2 ^ 48 ≤ k.points then some (2, 6)
  else none

/-- Reads the block and makes the checks of R189. The block needs R and W. -/
def tconRead (view : View) (a : Acc) : TconBlock × Acc :=
  let (bs, a1) := a.readRecord view 0 true view.opa.toNat 384 128 Need.both
  let k := tconBlockOf bs
  if !a1.ok then (k, a1)
  else match k.check bs with
    | some (opnd, order) => (k, a1.trap 0x4A view.pc (einfoShape opnd order 0))
    | none => (k, a1)

/-- Reads n bytes for point i: they must lie at a multiple of n (R192). -/
def tconLoad (view : View) (i n va : Nat) (a : Acc) : Nat × Acc :=
  let (r, s1) := a.s.reachElem a.s.cur.ctx oobPlain (va : Nat) n Need.load
  let a1 := ({ a with s := s1 } : Acc).accept view i [r] []
  if !a1.ok then (0, a1)
  else let a2 := a1.effective a1.s.cur.ctx false [r]; (leNat (a2.read r.pa n), a2)

/-- A point fails for a malformed operand (R190). -/
def Acc.failPoint (a : Acc) (i : Nat) : Acc := a.failAt { elem := i, cause := 0x0A, sub := 3, addr := 0, lane := 0 }

/-- The coordinates of a fiber at positions q and on (R188), n of them: each above the one before and below the extent (R190). -/
def readFiber (o : TconOperand) (view : View) (i d extent : Nat) : Nat → Nat → Option Nat → Acc → List (Nat × Nat) × Acc
  | 0, _, _, a => ([], a)
  | n + 1, q, last, a =>
    let (c, a1) := tconLoad view i 4 (o.crd.getD d 0 + 4 * q) a
    if !a1.ok then ([], a1)
    else if extent ≤ c ∨ last.any (fun l => decide (c ≤ l)) then ([], a1.failPoint i)
    else
      let (rest, a2) := readFiber o view i d extent n (q + 1) (some c) a1
      ((c, q) :: rest, a2)

/-- Where an operand stands in its levels: the next dimension and the position reached; none where it has no entry. -/
abbrev Cursor := Option (Nat × Nat)

/-- The children of an operand at index x (R188, R190): none, where it has no level of that index, and the level constrains nothing;
a dense level's base position; or a compressed level's coordinates with their positions. -/
inductive Level where
  | absent
  | dense (base : Nat)
  | sparse (l : List (Nat × Nat))
  deriving Repr

/-- Looks at an operand's next level for index x. A compressed fiber is read whole. -/
def levelOf (o : TconOperand) (view : View) (i x extent : Nat) (cur : Nat × Nat) (a : Acc) : Level × Acc :=
  if o.indices[cur.1]? ≠ some x then (.absent, a)
  else if !o.compressed cur.1 then (.dense (cur.2 * extent), a)
  else
    let (lo, a1) := tconLoad view i 8 (o.ptr.getD cur.1 0 + 8 * cur.2) a
    if !a1.ok then (.absent, a1)
    else
      let (hi, a2) := tconLoad view i 8 (o.ptr.getD cur.1 0 + 8 * (cur.2 + 1)) a1
      if !a2.ok then (.absent, a2)
      else if hi < lo then (.absent, a2.failPoint i)
      else
        -- strictly rising coordinates below the extent: a longer fiber fails within extent + 1 reads
        let (l, a3) := readFiber o view i cur.1 extent (min (hi - lo) (extent + 1)) lo none a2
        (.sparse l, a3)

/-- Where an operand stands after taking coordinate c of a level; none where it has no entry there. -/
def Level.take (cur : Nat × Nat) (c : Nat) : Level → Cursor
  | .absent => some cur
  | .dense base => some (cur.1 + 1, base + c)
  | .sparse l => (l.find? (fun x => x.1 == c)).map (fun x => (cur.1 + 1, x.2))

/-- The coordinates of a contracted index that are present (R190). -/
def coordsOf (extent : Nat) : Level → Level → List Nat
  | .sparse l, .sparse m => (l.map (·.1)).filter (fun c => m.any (fun y => y.1 == c))
  | .sparse l, _ => l.map (·.1)
  | _, .sparse m => m.map (·.1)
  | _, _ => List.range extent

/-- A running sum with its flags. -/
structure Sum where
  value : Nat
  flags : BitVec 5
  deriving DecidableEq, Repr

/-- Adds the product of the two entries reached (R190): one rounding in C's type. -/
def addProduct (k : TconBlock) (view : View) (i : Nat) (pa pb : Nat × Nat) (a : Acc) (sum : Sum) : Acc × Sum :=
  let na := typeWidth k.a.type / 8
  let nb := typeWidth k.b.type / 8
  let (x, a1) := tconLoad view i na (k.a.vals + na * pa.2) a
  if !a1.ok then (a1, sum)
  else
    let (y, a2) := tconLoad view i nb (k.b.vals + nb * pb.2) a1
    if !a2.ok then (a2, sum)
    else
      let (v, fl) := fMacV (fmtOf k.c.type) a2.s.cur.rm (floatOf k.c.type sum.value) (floatOf k.a.type x) (floatOf k.b.type y)
      (a2, { value := v, flags := sum.flags ||| fl })

/-- Walks the indices x.. of a point (R190), n of them: the coordinates of C's indices are given, the contracted ones are taken in
lexicographic order over those present. -/
def walkIndices (k : TconBlock) (view : View) (i : Nat) (coords : List Nat) : Nat → Nat → Nat × Nat → Nat × Nat → Acc → Sum → Acc × Sum
  | 0, _, pa, pb, a, sum => addProduct k view i pa pb a sum
  | n + 1, x, pa, pb, a, sum =>
    let extent := k.extent.getD x 0
    let (la, a1) := levelOf k.a view i x extent pa a
    if !a1.ok then (a1, sum)
    else
      let (lb, a2) := levelOf k.b view i x extent pb a1
      if !a2.ok then (a2, sum)
      else
        let cs := match coords[x]? with | some c => [c] | none => coordsOf extent la lb
        cs.foldl (fun (y : Acc × Sum) c =>
          if !y.1.ok then y
          else match la.take pa c, lb.take pb c with
            | some qa, some qb => walkIndices k view i coords n (x + 1) qa qb y.1 y.2
            | _, _ => y) (a2, sum)

/-- The coordinates of point n of C, in row-major order (R190). -/
def pointCoords : List Nat → Nat → List Nat
  | [], _ => []
  | _ :: es, n =>
    let below := es.foldl (· * ·) 1
    (n / max 1 below) :: pointCoords es (n % max 1 below)

/-- Point i of the issue (R190): what it leaves is written when the length is decided. DESIGN CHOICE (log entry 64): where several accesses of
the point fail the first made is recorded, C's element first (with acc = 0 too), then A's and B's as the loop of R190 comes to them. -/
def tconPoint (k : TconBlock) (view : View) (i : Nat) (a : Acc) (ws : List Pending) : Acc × List Pending :=
  let c := a.s.cur.ctx
  let n := typeWidth k.c.type / 8
  let point := k.cursor + i
  let (r, s1) := a.s.reachElem c oobPlain ((k.c.vals + n * point : Nat) : Int) n (if k.acc then Need.both else Need.store)
  let a1 := ({ a with s := s1 } : Acc).accept view i [r] []
  if !a1.ok then (a1, ws)
  else
    let start := if k.acc then leNat (a1.read r.pa n) else 0
    let (a2, sum) := walkIndices k view i (pointCoords (k.extent.take k.outer) point) k.nidx 0 (0, 0) (0, 0) a1 { value := start, flags := 0 }
    if !a2.ok then (a2, ws)
    else
      let on := sum.flags &&& a2.s.cur.fen
      if on ≠ 0 then (a2.failAt { elem := i, cause := 0x06, sub := lowestFlag on, addr := 0, lane := 0 }, ws)
      else (({ a2 with flags := a2.flags ||| sum.flags } : Acc).effective c true [r], ws ++ [(r.pa, leBytes n sum.value)])

/-- One issue of tcon at length v (R190, R192): the points from ES on, then the cursor. DESIGN CHOICE (log entry 64): where fewer points than VL
are left VL becomes their number and the stored cursor P, where R192 says cursor + VL; and where C overlaps A, B or
their arrays, which lets R193 take the value before the tcon or one that a lower point has written, it is the value before. TRC.lane of a point is 0: no rule gives one, since a
point has no vector destination (log entry 21). -/
def tconRun (v : Nat) (view : View) (a : Acc) : Acc :=
  let (k, a0) := tconRead view a
  -- pre-emption counts in points of C's type, as far as C goes
  let a1 : Acc := { a0 with grain := some (typeWidth k.c.type, false), ended := some (k.points - k.cursor) }
  if !a1.ok then a1
  else if k.points ≤ k.cursor then { a1 with vlOut := some 0 }
  else
    let n := min v (k.points - k.cursor)
    let (a2, ws) := Acc.walk (tconPoint k view) ((List.range (n - view.es)).map (fun j => view.es + j)) a1 []
    if !a2.ok then { a2 with fail := a2.fail.map (fun f => { f with lane := 0 }) }
    else
      let (r, s1) := a2.s.reachElem a2.s.cur.ctx oobPlain ((view.opa.toNat + 8 : Nat) : Int) 8 Need.store
      let a3 := ({ a2 with s := s1 } : Acc).effective a2.s.cur.ctx true [r]
      { a3 with s := a3.s.writeAll (ws ++ [(r.pa, leBytes 8 (k.cursor + n))]), vlOut := some n }

/-- `tcon [ga]` (R187 to R193): a queued VL writer on an L, an M, a P and an S pipe. -/
def tconDesc (f : FmtV) : Desc :=
  { typeOk := typeIn anyType
    scalars := [(f.va, f.sa, 0)]
    pipes := [.l, .m, .p, .s]
    below := true
    empty := fun _ view a =>
      let (k, a1) := tconRead view a
      if a1.ok && decide (k.points ≤ k.cursor) then { a1 with vlOut := some 0 } else a1
    run := tconRun }

end Sys2Proof.Machine
end

