-- ==== Sys2Proof/Machine/Convert.lean ====
section
/-!
DEFINITION. Conversions, major 0x2E (R118, R119).
-/
namespace Sys2Proof.Machine

/-- A conversion (R118): `into` says whether T is the destination (vcvt) or the source (vcvtf); `rm` the rounding from FRM; `sat`
whether it saturates. T of b8 or b4, and a computed group above 8, are ill-typed. The loop is that of R106, element after element, so a
conversion whose vd overlaps va at another width reads what it has written (R9). DESIGN CHOICE (log entry 53): R76 and R118 do not say
which of a trimmed conversion's two elements gives TRC.lane; it is the element of width VT.type. -/
def convertDesc (f : FmtV) (into : Bool) (rm : Rm → Rm) (sat : Bool) : Desc :=
  let other := f.vb.toNat
  let wo := typeWidth other
  let groupT := fun (vt : BitVec 12) => convertedGroup (vtGroup vt) (typeWidth (vtType vt)) wo
  { typeOk := fun vt => typeIn isNumeric vt && !isBlock other && decide (groupT (vt.extractLsb' 0 12) ≤ 8)
    align := fun _ vt =>
      let src := if into then vtGroup vt else groupT vt
      let dst := if into then groupT vt else vtGroup vt
      [(f.va.toNat, src, 0), (f.vd.toNat, dst, 2)]
    pipes := [.m]
    steps := (true, true, false)
    sources := fun view t => [sourceOf f.sa 0 f.va (if into then view.width else wo) view t]
    dst := fun view t => destOf f.vd (if into then wo else view.width) view t
    early := Thread.trimsAtDispatch
    flagged := fun _ => true
    allFalse := noneActive f
    run := fun v view a =>
      let ty := vtType view.vt
      let (tyA, tyD) := if into then (ty, other) else (other, ty)
      let (wa, wd) := (typeWidth tyA, typeWidth tyD)
      forActive f.guard f.gneg v view (elementStep view view.width [(f.va.toNat, wa)] (f.vd.toNat, wd) (fun t i =>
        convertElem tyA tyD (rm t.rm) sat (t.elem f.va.toNat wa i))) a }

/-- `vcvt.T` (R118). -/
def vcvtDesc (f : FmtV) : Desc := convertDesc f true id false

/-- `vcvt.rtz.T` (R118). -/
def vcvtRtzDesc (f : FmtV) : Desc := convertDesc f true (fun _ => 1) false

/-- `vcvt.sat.T` (R118). -/
def vcvtSatDesc (f : FmtV) : Desc := convertDesc f true id true

/-- `vcvtf.T` (R118). -/
def vcvtfDesc (f : FmtV) : Desc := convertDesc f false id false

end Sys2Proof.Machine
end

