-- ==== Sys2Proof/Machine/Frame.lean ====
section
/-!
DEFINITION. The repeat frame's own word (R44, R100): its capture and replay are the queue's.
-/
namespace Sys2Proof.Machine

/-- `vframe ga, n, dstep, astep, bstep` (R44, R100): the count is captured from g(ga). -/
def vframeDesc (f : FmtVF) : Desc := { scalars := [(f.ga, false, 0)], ownLength := true, run := fun _ _ a => a }

end Sys2Proof.Machine
end

