-- ==== Sys2Proof/Machine/Matrix.lean ====
section
/-!
DEFINITION. Block codes (R121 to R123) and the matrix and block instructions of major 0x34 (R132 to R142).
-/
namespace Sys2Proof.Machine

/-! ## Codes -/

/-- The parts of a code of b8 or b4 (R122): sel, sign, m. -/
def codeParts (ty c : Nat) : Nat × Bool × Nat :=
  if ty = 0x0D then (c / 8 % 2, c / 4 % 2 == 1, c % 4) else (c / 128 % 2, c / 64 % 2 == 1, c % 64)

/-- q of R121. -/
def codeScale (ty : Nat) : Nat := if ty = 0x0D then 16 else 1

/-- The greatest magnitude field of a code (R140). -/
def codeMax (ty : Nat) : Nat := if ty = 0x0D then 3 else 63

/-- A code from its parts (R122). -/
def makeCode (ty sel : Nat) (neg : Bool) (m : Nat) : Nat :=
  if ty = 0x0D then 8 * sel + (if neg then 4 else 0) + m else 128 * sel + (if neg then 64 else 0) + m

/-- The value of a code as an integer times 2^(E - 132), with its exponent (R121); none for a reserved code (R122), which every
code is under an exponent of 0xFF. -/
def codeValue (ty c side : Nat) : Option (Int × Nat) :=
  let (sel, neg, m) := codeParts ty c
  let e0 := side % 256
  let e1 := side / 256 % 256
  if (neg ∧ m = 0) ∨ e0 = 0xFF ∨ e1 = 0xFF then none
  else
    let x : Int := (codeScale ty * m : Nat)
    some (if neg then -x else x, if sel = 1 then e1 else e0)

/-- The value of element i of a block register group (R121, R123). -/
def Thread.codeAt (t : Thread) (base ty i : Nat) : Option (Int × Nat) :=
  codeValue ty (t.elem base (typeWidth ty) i) (t.sideEntry base (i / blockSpan ty))

/-- An exact number of units 2^e as a value; a zero is +0. -/
def exactValue (x : Int) (e : Int) : FVal := .num (decide (x < 0)) x.natAbs e

/-- f32 (R2). -/
def f32 : Fmt := fmtOf 0x0A

/-- fl(d + s, RNE) on an f32 accumulator (R135). -/
def accumulate (d : Nat) (s : FVal) : FRes := fAddV f32 0 (decodeF f32 d) s

/-! ## Whole-instruction evaluation -/

/-- A failing condition of a whole evaluation (R135): index, cause, subcode. -/
abbrev Condition := Nat × BitVec 8 × Nat

/-- The order in which R85 ranks the causes that major 0x34 meets. -/
def conditionRank (c : BitVec 8) : Nat := if c = 0x07 then 0 else if c = 0x05 then 1 else 2

/-- Whether a condition comes before another: a lower index, then the order of R85, then a lower subcode. DESIGN CHOICE (log entry 57): R132
does not say which subcode of 0x05 counts where the codes of va and of vb are both reserved at one element, nor R85 and R86 which subcode of
0x07 where the register file (0) and the residue (4) both fail there; the lower does. -/
def conditionBefore (x y : Condition) : Bool :=
  decide (x.1 < y.1) || (x.1 == y.1 && (decide (conditionRank x.2.1 < conditionRank y.2.1) || (x.2.1 == y.2.1 && decide (x.2.2 < y.2.2))))

/-- The condition that decides an evaluation. -/
def firstCondition : List Condition → Option Condition
  | [] => none
  | x :: xs => match firstCondition xs with
    | some y => if conditionBefore y x then some y else some x
    | none => some x

/-- The enabled flags among those raised, as conditions. -/
def enabledConditions (fen : BitVec 5) (l : List (Nat × BitVec 5)) : List Condition :=
  (l.filter (fun x => x.2 &&& fen != 0)).map (fun x => (x.1, 0x06, lowestFlag (x.2 &&& fen)))

/-- Ends an evaluation (R135): it fails at the lowest attributed index, or its flags stand. -/
def Acc.evaluated (a : Acc) (w : Nat) (conds : List Condition) (flags : List (Nat × BitVec 5)) : Acc :=
  match firstCondition (conds ++ enabledConditions a.s.cur.fen flags) with
  | some (i, cause, sub) => a.failElem w i cause sub
  | none => flags.foldl (fun a x => a.note x.1 x.2) a

/-- A cell to write: element index and f32 bits. -/
abbrev Cell32 := Nat × Nat

/-- Writes f32 cells of the group at a register. -/
def Acc.cells (a : Acc) (base : Nat) (l : List Cell32) : Acc := l.foldl (fun a c => a.setElem base 32 c.1 c.2) a

/-- What an evaluation of a row or an element gives: cells, flags, conditions. -/
structure Evaluated where
  cells : List Cell32
  flags : List (Nat × BitVec 5)
  conds : List Condition
  deriving DecidableEq, Repr

/-- Several evaluations together. -/
def joinEvaluated (l : List Evaluated) : Evaluated :=
  { cells := l.flatMap (·.cells), flags := l.flatMap (·.flags), conds := l.flatMap (·.conds) }

/-- The rows of A that hold an active element below v (R135), each with its active indices in order. -/
def activeRows (t : Thread) (f : FmtV) (s es v : Nat) : List (Nat × List Nat) :=
  let l := activeList t f.guard f.gneg es v
  (blocksOf s l).map (fun r => (r, l.filter (fun i => i / s == r)))

/-- The block types in the groups of R134's column: b8 in one or two registers, b4 in one. -/
def typeColumn (vt : BitVec 13) : Bool :=
  let n := vtGroup (vt.extractLsb' 0 12)
  typeIn isBlock vt && (n == 1 || (n == 2 && vtType (vt.extractLsb' 0 12) == 0x0C))

/-- Whether VT.type lies in a class and its group is one register. -/
def typeSingle (ok : Nat → Bool) (vt : BitVec 13) : Bool := typeIn ok vt && vtGroup (vt.extractLsb' 0 12) == 1

/-- f16 and bf16. -/
def isHalf (c : Nat) : Bool := c == 0x08 || c == 0x09

/-- Registers of f32 that stand beside a block group (R134): 4n for b8, 8 for b4. -/
def wideGroup (vt : BitVec 12) : Nat := if vtType vt = 0x0D then 8 else 4 * vtGroup vt

/-- The parts that the instructions of major 0x34 share: they run on X0 and never write the FX registers (R135). -/
def matrixBase (f : FmtV) (ok : BitVec 13 → Bool) (align : BitVec 12 → List (Nat × Nat × Nat)) (steps : Bool × Bool × Bool)
    (run : Nat → View → Acc → Acc) : Desc :=
  { typeOk := ok, align := fun _ vt => align vt, pipes := [.x], steps := steps, allFalse := noneActive f, run := run }

/-- The rows whose residue mismatches on the second computation too (R133): each fails at its first active index. -/
def residueConds (t : Thread) (rows : List (Nat × List Nat)) : List Condition :=
  (rows.filter (fun r => t.residue.contains (r.1, true))).map (fun r => (r.2.head?.getD 0, 0x07, 4))

/-- Counts the rows that a second computation put right (R133, R382). -/
def Acc.corrected (a : Acc) (rows : List (Nat × List Nat)) : Acc :=
  let n := (rows.filter (fun r => a.s.cur.residue.contains (r.1, false))).length
  if n = 0 then a
  else { a with s := a.s.correct (.x0 (a.s.cur.slot / 4)) [a.s.cur.part.toNat] n }

/-- One cell of a row of mmab (R136): S in units of 2^-264 over the active indices, and the conditions that reserved codes and
register-file errors give. DESIGN CHOICE (log entry 58): where VLEN is below 8,192 bits one register cannot hold B's 32 rows; the further
rows are read from the registers after vb, modulo 32. -/
def mmabCell (t : Thread) (f : FmtV) (ty s n : Nat) (idx : List Nat) : Int × List Condition :=
  let w := typeWidth ty
  idx.foldl (fun acc i =>
    let j := s * n + i % s
    if t.elemBad f.va.toNat w i || t.elemBad f.vb.toNat w j then (acc.1, (i, 0x07, 0) :: acc.2)
    else
      match t.codeAt f.va.toNat ty i, t.codeAt f.vb.toNat ty j with
      | some (x, ex), some (y, ey) => (acc.1 + x * y * (2 ^ (ex + ey) : Nat), acc.2)
      | none, _ => (acc.1, (i, 0x05, 0) :: acc.2)
      | some _, none => (acc.1, (i, 0x05, 1) :: acc.2)) (0, [])

/-- One row of mmab (R136). DESIGN CHOICE (log entry 65): where an element of the row is reserved or in error R135 does not say which flags the
evaluation raises; the sum goes on without that element, and what it raises is attributed to the row's first index all the same. DESIGN CHOICE
(log entry 68): R133 names the element that reads a source, and for a side-file entry the first active element of its block; an accumulator
cell is read by the whole row, and an entry of vb belongs to a row of B, so an error of either counts at the first active element of each row
of A that meets it. -/
def mmabRow (t : Thread) (f : FmtV) (ty s : Nat) (row : Nat × List Nat) : Evaluated :=
  let first := row.2.head?.getD 0
  joinEvaluated ((List.range 32).map (fun n =>
    let c := 32 * row.1 + n
    let (sum, conds) := mmabCell t f ty s n row.2
    let (x, fl) := accumulate (t.elem f.vd.toNat 32 c) (exactValue sum (-264))
    { cells := [(c, x)], flags := [(first, fl)]
      conds := (if t.elemBad f.vd.toNat 32 c || t.sideIsBad f.va.toNat row.1 || t.sideIsBad f.vb.toNat n then [(first, 0x07, 0)] else []) ++ conds }))

/-- `mmab vd, va, vb` (R136). -/
def mmabDesc (f : FmtV) : Desc :=
  { matrixBase f (typeSingle isBlock) (fun _ => [(f.va.toNat, 1, 0), (f.vb.toNat, 1, 1), (f.vd.toNat, 4, 2)]) (true, true, true)
      (fun v view a =>
        let t := a.s.cur
        let ty := vtType view.vt
        let s := blockSpan ty
        let rows := activeRows t f s view.es v
        let e := joinEvaluated (rows.map (mmabRow t f ty s))
        let a1 := a.evaluated view.width (residueConds t rows ++ e.conds) e.flags
        if a1.ok then (a1.cells f.vd.toNat e.cells).corrected rows else a1) with
    sources := fun view t => [sourceOf f.sa 0 f.va view.width view t, sourceOf f.sb 1 f.vb view.width view t]
    dst := fun view t =>
      let s := blockSpan (vtType view.vt)
      if view.vl ≤ view.es then 0 else groupMask t.lg f.vd.toNat 32 (32 * (view.es / s)) (32 * ((view.vl + s - 1) / s)) }

/-- The exact sum of a row of mmah (R137): NaN, infinity or a number, with NV for the invalid cases. A zero sum is negative only
when every product is a negative zero. -/
structure HalfSum where
  nan : Bool
  nv : Bool
  pos : Bool
  neg : Bool
  sum : Int
  allNegZero : Bool
  deriving DecidableEq, Repr

/-- The exponent unit of mmah's exact sums: every product of two f16 or bf16 numbers is a multiple of 2^-266. -/
def halfUnit : Int := -266

/-- Adds one product to an exact sum (R137). -/
def HalfSum.add (h : HalfSum) (x y : FVal) : HalfSum :=
  let h := { h with nv := h.nv || x.sig != 0 || y.sig != 0 }
  match x, y with
  | .nan _, _ => { h with nan := true, allNegZero := false }
  | _, .nan _ => { h with nan := true, allNegZero := false }
  | .inf n, .inf k => if n = k then { h with pos := true, allNegZero := false } else { h with neg := true, allNegZero := false }
  | .inf n, .num k m _ =>
    if m = 0 then { h with nan := true, nv := true, allNegZero := false }
    else if n = k then { h with pos := true, allNegZero := false } else { h with neg := true, allNegZero := false }
  | .num k m _, .inf n =>
    if m = 0 then { h with nan := true, nv := true, allNegZero := false }
    else if n = k then { h with pos := true, allNegZero := false } else { h with neg := true, allNegZero := false }
  | .num n m e, .num k l d =>
    let p : Int := (m * l * 2 ^ (e + d - halfUnit).toNat : Nat)
    { h with sum := h.sum + (if n = k then p else -p), allNegZero := h.allNegZero && p == 0 && n != k }

/-- The sum as a value, and NV. -/
def HalfSum.value (h : HalfSum) : FVal × BitVec 5 :=
  let nv := if h.nv || (h.pos && h.neg) then flagNV else 0
  if h.nan || (h.pos && h.neg) then (.nan false, nv)
  else if h.pos then (.inf false, nv)
  else if h.neg then (.inf true, nv)
  else (.num (decide (h.sum < 0) || (h.sum == 0 && h.allNegZero)) h.sum.natAbs halfUnit, nv)

/-- Cell n of a row of mmah (R137). DESIGN CHOICE (log entry 58): where VLEN is below 8,192 bits one register cannot hold B's 16 rows; the
further rows are read from the registers after vb, modulo 32. An error of the cell itself counts at the row's first active element (log entry
68). -/
def mmahCell (t : Thread) (f : FmtV) (ty : Nat) (row : Nat × List Nat) (n : Nat) : Evaluated :=
  let first := row.2.head?.getD 0
  let c := 16 * row.1 + n
  let sum := row.2.foldl (fun (h : HalfSum) i =>
    h.add (decodeF (fmtOf ty) (t.elem f.va.toNat 16 i)) (decodeF (fmtOf ty) (t.elem f.vb.toNat 16 (32 * n + i % 32))))
    { nan := false, nv := false, pos := false, neg := false, sum := 0, allNegZero := true }
  let (s, nv) := sum.value
  let (x, fl) := accumulate (t.elem f.vd.toNat 32 c) s
  { cells := [(c, x)], flags := [(first, nv ||| fl)]
    conds := (row.2.filter (fun i => t.elemBad f.va.toNat 16 i || t.elemBad f.vb.toNat 16 (32 * n + i % 32))).map (fun i => (i, 0x07, 0)) ++
      (if t.elemBad f.vd.toNat 32 c then [(first, 0x07, 0)] else []) }

/-- One row of mmah (R137). -/
def mmahRow (t : Thread) (f : FmtV) (ty : Nat) (row : Nat × List Nat) : Evaluated := joinEvaluated ((List.range 16).map (mmahCell t f ty row))

/-- The cells of mmah that an error reaches (R90, R133): those whose own sources hold one, and all of a row whose residue mismatches. -/
def mmahAffected (t : Thread) (f : FmtV) (ty : Nat) (rows : List (Nat × List Nat)) : List Nat :=
  rows.flatMap (fun r => ((List.range 16).filter (fun n => !(residueConds t [r]).isEmpty || !(mmahCell t f ty r n).conds.isEmpty)).map
    (fun n => 16 * r.1 + n))

/-- `mmah vd, va, vb` (R137). With FEN clear a register-file error comes after the trim point (R133): the cells it reaches are
poisoned and the trap comes at retirement. -/
def mmahDesc (f : FmtV) : Desc :=
  { matrixBase f (typeSingle isHalf) (fun _ => [(f.va.toNat, 1, 0), (f.vb.toNat, 1, 1), (f.vd.toNat, 1, 2)]) (true, true, true)
      (fun v view a =>
        let t := a.s.cur
        let active := activeRows t f 32 view.es v
        let e := joinEvaluated (active.map (mmahRow t f (vtType view.vt)))
        let conds := residueConds t active ++ e.conds
        let a1 := a.evaluated 16 (if t.trimsAtDispatch then [] else conds) e.flags
        if !a1.ok then a1
        else
          let a2 := (a1.cells f.vd.toNat e.cells).corrected active
          match firstCondition conds with
          | some (i, _, sub) =>
            (mmahAffected t f (vtType view.vt) active).foldl (fun a c => a.poisonElem f.vd.toNat 32 c) (a2.defer view 16 i sub)
          | none => a2) with
    early := Thread.trimsAtDispatch
    sources := fun view t => [sourceOf f.sa 0 f.va 16 view t, sourceOf f.sb 1 f.vb 16 view t]
    dst := fun view t =>
      if view.vl ≤ view.es then 0 else groupMask t.lg f.vd.toNat 32 (16 * (view.es / 32)) (16 * ((view.vl + 31) / 32)) }

/-- The cells of one accumulator row (R138): 32 of a row of s block codes, 16 of a row of 32 halves. -/
def rowShape (ty : Nat) : Nat × Nat := if isBlock ty then (blockSpan ty, 32) else (32, 16)

/-- `mzero vd` (R138): +0.0 in every active row; it never trims. -/
def mzeroDesc (f : FmtV) : Desc :=
  { matrixBase f (typeSingle (fun c => isBlock c || isHalf c)) (fun vt => [(f.vd.toNat, if isBlock (vtType vt) then 4 else 1, 2)])
      (true, false, false)
      (fun v view a =>
        let (s, n) := rowShape (vtType view.vt)
        (activeRows a.s.cur f s view.es v).foldl (fun a r =>
          a.cells f.vd.toNat ((List.range n).map (fun k => (n * r.1 + k, 0)))) a) with
    early := fun _ => true
    dst := fun view t =>
      let (s, n) := rowShape (vtType view.vt)
      if view.vl ≤ view.es then 0 else groupMask t.lg f.vd.toNat 32 (n * (view.es / s)) (n * ((view.vl + s - 1) / s)) }

/-- Whether i is the first active element of a register block whose side-file entry holds an error (R133). -/
def badBlockAt (t : Thread) (l : List Nat) (base ty i : Nat) : Bool :=
  let span := blockSpan ty
  t.sideIsBad base (i / span) && l.find? (fun x => x / span == i / span) == some i

/-- `vwmac vd, va, vb` (R139): exact products of codes, one rounding into f32. DESIGN CHOICE (log entry 53), here and for vbnorm and vbexp.f32:
TRC.lane is that of the element in the width of VT.type, where codes and f32 elements differ in width. -/
def vwmacDesc (f : FmtV) : Desc :=
  { matrixBase f typeColumn
      (fun vt => [(f.va.toNat, vtGroup vt, 0), (f.vb.toNat, vtGroup vt, 1), (f.vd.toNat, wideGroup vt, 2)]) (true, true, true)
      (fun v view a =>
        let t := a.s.cur
        let ty := vtType view.vt
        let w := view.width
        let l := activeList t f.guard f.gneg view.es v
        let e := joinEvaluated (l.map (fun i =>
          let bad := t.elemBad f.va.toNat w i || t.elemBad f.vb.toNat w i || t.elemBad f.vd.toNat 32 i ||
            badBlockAt t l f.va.toNat ty i || badBlockAt t l f.vb.toNat ty i
          if bad then { cells := [], flags := [], conds := [(i, 0x07, 0)] }
          else
            match t.codeAt f.va.toNat ty i, t.codeAt f.vb.toNat ty i with
            | some (x, ex), some (y, ey) =>
              let (r, fl) := accumulate (t.elem f.vd.toNat 32 i) (exactValue (x * y) ((ex + ey : Nat) - 264))
              { cells := [(i, r)], flags := [(i, fl)], conds := [] }
            | none, _ => { cells := [], flags := [], conds := [(i, 0x05, 0)] }
            | some _, none => { cells := [], flags := [], conds := [(i, 0x05, 1)] }))
        let a1 := a.evaluated w e.conds e.flags
        if a1.ok then a1.cells f.vd.toNat e.cells else a1) with
    sources := fun view t => [sourceOf f.sa 0 f.va view.width view t, sourceOf f.sb 1 f.vb view.width view t]
    dst := fun view t => destOf f.vd 32 view t }

/-- The exponent of the highest bit of a finite magnitude m × 2^e. -/
def topBit (m : Nat) (e : Int) : Int := e + (Nat.log2 m : Int)

/-- E0 of R140: the smallest e in 0..254 with M < 2^(e-126). -/
def normExponent (m : Nat) (e : Int) : Nat := if m = 0 then 0 else min 254 (topBit m e + 127).toNat

/-- |x| ÷ 2^u to the nearest, ties to even, and whether that is exact. -/
def quotientRne (m : Nat) (e u : Int) : Nat × Bool :=
  if u ≤ e then (m * 2 ^ (e - u).toNat, true) else let (q, inexact) := cutTo 0 false m e u false; (q, !inexact)

/-- One code of vbnorm (R140) under exponents E0 and E1, and its flags. -/
def normCode (ty e0 e1 x : Nat) : Nat × BitVec 5 :=
  match decodeF f32 x with
  | .nan _ => (makeCode ty 0 true 0, flagNV)
  | .inf n => (makeCode ty 0 n (codeMax ty), flagOF)
  | .num n m e =>
    let sel := if m = 0 ∨ topBit m e < (e1 : Int) - 126 then 1 else 0
    let unit : Int := ((if sel = 1 then e1 else e0) : Int) - 132 + (if ty = 0x0D then 4 else 0)
    let (r, exact) := quotientRne m e unit
    let k := min (codeMax ty) r
    (makeCode ty sel (n && k != 0) k, if exact && k == r then 0 else flagNX)

/-- `vbnorm vd, va, δ` (R140); TRC.lane as for vwmac (log entry 53). -/
def vbnormDesc (f : FmtV) : Desc :=
  { matrixBase f typeColumn (fun vt => [(f.va.toNat, wideGroup vt, 0), (f.vd.toNat, vtGroup vt, 2)]) (true, true, false)
      (fun v view a =>
        let t := a.s.cur
        let ty := vtType view.vt
        let w := view.width
        let span := blockSpan ty
        let l := activeList t f.guard f.gneg view.es v
        let bads := (l.filter (fun i => t.elemBad f.va.toNat 32 i)).map (fun i => (i, (0x07 : BitVec 8), 0))
        let blocks := (blocksOf span l).map (fun k =>
          let xs := (l.filter (fun i => i / span == k)).map (fun i => (i, t.elem f.va.toNat 32 i))
          let e0 := xs.foldl (fun e x => match decodeF f32 x.2 with
            | .num _ m d => max e (normExponent m d)
            | _ => e) 0
          let e1 := e0 - f.vb.toNat
          (k, e0 + 256 * e1, xs.map (fun x => (x.1, normCode ty e0 e1 x.2))))
        let flags := blocks.flatMap (fun b => b.2.2.map (fun c => (c.1, c.2.2)))
        let a1 := a.evaluated w bads flags
        if !a1.ok then a1
        else blocks.foldl (fun a b =>
          b.2.2.foldl (fun a c => a.setElem f.vd.toNat w c.1 c.2.1) (a.setSide f.vd.toNat b.1 b.2.1)) a1) with
    sources := fun view t => [sourceOf f.sa 0 f.va 32 view t]
    dst := fun view t => destOf f.vd view.width view t }

/-- `vbexp.f32 vd, va` (R141): each code's value, exactly; TRC.lane as for vwmac (log entry 53). -/
def vbexpF32Desc (f : FmtV) : Desc :=
  { matrixBase f typeColumn (fun vt => [(f.va.toNat, vtGroup vt, 0), (f.vd.toNat, wideGroup vt, 2)]) (true, true, false)
      (fun v view a =>
        let t := a.s.cur
        let ty := vtType view.vt
        let w := view.width
        let l := activeList t f.guard f.gneg view.es v
        let e := joinEvaluated (l.map (fun i =>
          if t.elemBad f.va.toNat w i || badBlockAt t l f.va.toNat ty i then { cells := [], flags := [], conds := [(i, 0x07, 0)] }
          else
            match t.codeAt f.va.toNat ty i with
            | some (x, ex) => { cells := [(i, (roundTo f32 0 (decide (x < 0)) x.natAbs ((ex : Int) - 132)).1)], flags := [], conds := [] }
            | none => { cells := [], flags := [], conds := [(i, 0x05, 0)] }))
        let a1 := a.evaluated w e.conds []
        if a1.ok then a1.cells f.vd.toNat e.cells else a1) with
    sources := fun view t => [sourceOf f.sa 0 f.va view.width view t]
    dst := fun view t => destOf f.vd 32 view t }

/-- The register blocks with an active element. -/
def activeBlocks (t : Thread) (f : FmtV) (view : View) (v : Nat) : List Nat :=
  blocksOf (blockSpan (vtType view.vt)) (activeList t f.guard f.gneg view.es v)

/-- The element groups of a register that hold the 16-bit fields of the active blocks below VL (R142). -/
def fieldGroups (t : Thread) (f : FmtV) (view : View) (r : BitVec 5) : BitVec 256 :=
  (activeBlocks t f view view.vl).foldl (fun m k => m ||| groupMask t.lg r.toNat 16 k (k + 1)) 0

/-- The first active element of a block, which an error of the block is attributed to (R133). -/
def firstOfBlock (t : Thread) (f : FmtV) (view : View) (v k : Nat) : Nat :=
  ((activeList t f.guard f.gneg view.es v).find? (fun i => i / blockSpan (vtType view.vt) == k)).getD 0

/-- `vbexp.get vd, va` (R142): the exponent pairs of active blocks into 16-bit fields of one register. It never trims: an error in a
side-file entry poisons the field and traps at retirement (R90). -/
def vbexpGetDesc (f : FmtV) : Desc :=
  { matrixBase f typeColumn (fun vt => [(f.va.toNat, vtGroup vt, 0), (f.vd.toNat, 1, 2)]) (true, true, false)
      (fun v view a =>
        let t := a.s.cur
        (activeBlocks t f view v).foldl (fun a k =>
          let a1 := a.setElem f.vd.toNat 16 k (t.sideEntry f.va.toNat k)
          if t.sideIsBad f.va.toNat k then
            (a1.poisonElem f.vd.toNat 16 k).defer view view.width (firstOfBlock t f view v k)
          else a1) a) with
    early := fun _ => true
    sources := fun view t => [sourceOf f.sa 0 f.va view.width view t]
    dst := fun view t => fieldGroups t f view f.vd }

/-- `vbexp.set vd, va` (R142): the exponent pairs of active blocks from 16-bit fields of one register, which are its only source, of every block in
ES..VL-1 where it is strict, whatever the guard (R39). It never trims: an error in a field poisons the side-file entry and traps at retirement (R90). -/
def vbexpSetDesc (f : FmtV) : Desc :=
  { matrixBase f typeColumn (fun vt => [(f.va.toNat, 1, 0), (f.vd.toNat, vtGroup vt, 2)]) (true, true, false)
      (fun v view a =>
        let t := a.s.cur
        (activeBlocks t f view v).foldl (fun a k =>
          let a1 := a.setSide f.vd.toNat k (t.elem f.va.toNat 16 k)
          if t.elemBad f.va.toNat 16 k then
            (a1.poisonSide f.vd.toNat k).defer view view.width (firstOfBlock t f view v k)
          else a1) a) with
    early := fun _ => true
    sources := fun view t =>
      let span := blockSpan (vtType view.vt)
      [{ strict := f.sa, opnd := 0, base := f.va.toNat, groups := if view.es < view.vl then groupMask t.lg f.va.toNat 16 (view.es / span) ((view.vl - 1) / span + 1) else 0 }]
    dst := fun view t => destOf f.vd view.width view t }

end Sys2Proof.Machine
end

