-- ==== Sys2Proof/Machine/Permute.lean ====
section
/-!
DEFINITION. Permutes and moves, major 0x2C (R112 to R114).
-/
namespace Sys2Proof.Machine

/-- Where a permute takes an element from: nowhere (no write), zero bits, or an index of the source group. -/
inductive Pick where
  | keep
  | zero
  | index (x : Nat)
  deriving DecidableEq, Repr

/-- Writes element `dst` of vd as `pick` says, from the registers as they were before the instruction (R112); i is the position in the
order of R84 and R113, the source element for vcompress and the destination element else. A register-file error fails position i, or
after the trim point (`late`) poisons the element and is recorded (R89, R90, R106). DESIGN CHOICE (log entry 54): R90 does not say which
element that record names; it is position i. -/
def Acc.place (a : Acc) (old : Thread) (late : Bool) (view : View) (vd va : BitVec 5) (i dst : Nat) : Pick → Acc
  | .keep => a
  | .zero => if a.ok then a.setElem vd.toNat view.width dst 0 else a
  | .index x =>
    let bad := old.elemBad va.toNat view.width x
    if bad && !late then a.failElem view.width i 0x07 0
    else if !a.ok then a
    else
      let a1 := a.setElem vd.toNat view.width dst (old.elem va.toNat view.width x)
      if bad then (a1.poisonElem vd.toNat view.width dst).defer view view.width i else a1

/-- A permute (R112): `pick` has the old thread, the view, the length v of the run and i. -/
def permuteDesc (f : FmtV) (ok : Nat → Bool) (scalars : List Source) (pick : Thread → View → Nat → Nat → Pick) : Desc :=
  { typeOk := typeIn ok
    align := groupsOf [(f.va, 0), (f.vd, 2)]
    scalars := scalars
    pipes := [.p]
    steps := (true, true, false)
    sources := fun view t => [sourceOf f.sa 0 f.va view.width view t]
    dst := fun view t => destOf f.vd view.width view t
    early := Thread.trimsAtDispatch
    allFalse := noneActive f
    run := fun v view a =>
      let old := a.s.cur
      forActive f.guard f.gneg v view (fun i a => a.place old old.trimsAtDispatch view f.vd f.va i i (pick old view v i)) a }

/-- Copies the side-file entry of block k (R112); an error in it fails the block's first active element, or after the trim point is copied
and recorded (R90, R133). -/
def Acc.copySide (a : Acc) (old : Thread) (view : View) (vd va : BitVec 5) (k first : Nat) : Acc :=
  let bad := old.sideIsBad va.toNat k
  if bad && !old.trimsAtDispatch then a.failElem view.width first 0x07 0
  else if !a.ok then a
  else
    let a1 := a.setSide vd.toNat k (old.sideEntry va.toNat k)
    if bad then (a1.poisonSide vd.toNat k).defer view view.width first else a1

/-- `vmov vd, va` (R112): under a block type the side-file entry of every block with an active element is copied too, ahead of the codes
so that the block's first element fails for it. -/
def vmovDesc (f : FmtV) : Desc :=
  let d := permuteDesc f anyType [] (fun _ _ _ i => .index i)
  { d with
    run := fun v view a =>
      let old := a.s.cur
      let ty := vtType view.vt
      if isBlock ty then
        let span := blockSpan ty
        let l := activeList old f.guard f.gneg view.es v
        forActive f.guard f.gneg v view (fun i a =>
          let a1 := if l.find? (fun x => x / span == i / span) = some i then a.copySide old view f.vd f.va (i / span) i else a
          a1.place old old.trimsAtDispatch view f.vd f.va i i (.index i)) a
      else d.run v view a }

/-- `vslideup vd, va, gb` (R112). -/
def vslideupDesc (f : FmtV) : Desc :=
  permuteDesc f isNumeric [(f.vb, f.sb, 1)] (fun _ view _ i => if view.opa.toNat ≤ i then .index (i - view.opa.toNat) else .keep)

/-- `vslidedn vd, va, gb` (R112). -/
def vslidednDesc (f : FmtV) : Desc :=
  permuteDesc f isNumeric [(f.vb, f.sb, 1)] (fun t view _ i =>
    if i + view.opa.toNat < view.vlmax t then .index (i + view.opa.toNat) else .zero)

/-- `vperm vd, va, vb` (R112): an index of VLMAX or more fails with 0x0A, subcode 1. Its trim point is when every index has been checked
(R89), so an error in va comes after it. -/
def vpermDesc (f : FmtV) : Desc :=
  { permuteDesc f isNumeric [] (fun _ _ _ _ => .keep) with
    align := groupsOf [(f.va, 0), (f.vb, 1), (f.vd, 2)]
    steps := (true, true, true)
    sources := fun view t => [sourceOf f.sa 0 f.va view.width view t, sourceOf f.sb 1 f.vb view.width view t]
    early := fun _ => false
    run := fun v view a =>
      let old := a.s.cur
      let w := view.width
      forActive f.guard f.gneg v view (fun i a =>
        if old.elemBad f.vb.toNat w i then a.failElem w i 0x07 0
        else
          let x := old.elem f.vb.toNat w i
          if view.vlmax old ≤ x then a.failElem w i 0x0A 1 else a.place old true view f.vd f.va i i (.index x)) a }

/-- k at the start of R113: the guard bits set below ES. -/
def firstPosition (t : Thread) (f : FmtV) (es : Nat) : Nat := (activeList t f.guard f.gneg 0 es).length

/-- `vcompress vd, va` (R113). -/
def vcompressDesc (f : FmtV) : Desc :=
  { permuteDesc f isNumeric [] (fun _ _ _ _ => .keep) with
    run := fun v view a =>
      let old := a.s.cur
      let k := firstPosition old f view.es
      ((activeList old f.guard f.gneg view.es v).zipIdx k).foldl
        (fun a x => a.place old old.trimsAtDispatch view f.vd f.va x.1 x.2 (.index x.1)) a }

/-- `vexpand vd, va` (R113). -/
def vexpandDesc (f : FmtV) : Desc :=
  { permuteDesc f isNumeric [] (fun _ _ _ _ => .keep) with
    run := fun v view a =>
      let old := a.s.cur
      let k := firstPosition old f view.es
      ((activeList old f.guard f.gneg view.es v).zipIdx k).foldl
        (fun a x => a.place old old.trimsAtDispatch view f.vd f.va x.1 x.1 (.index x.2)) a }

/-- `vbcast vd, gb` (R112). -/
def vbcastDesc (f : FmtV) : Desc :=
  { typeOk := typeIn isNumeric
    align := groupsOf [(f.vd, 2)]
    scalars := [(f.vb, f.sb, 1)]
    pipes := [.p]
    steps := (true, false, false)
    dst := fun view t => destOf f.vd view.width view t
    early := Thread.trimsAtDispatch
    allFalse := noneActive f
    run := fun v view => forActive f.guard f.gneg v view (fun i a =>
      a.setElem f.vd.toNat view.width i (view.opa.toNat % 2 ^ view.width)) }

/-- `vrev vd, va` (R112): VL is the length of the run. -/
def vrevDesc (f : FmtV) : Desc := permuteDesc f isNumeric [] (fun _ _ v i => .index (v - 1 - i))

/-- `vext gd, va, gb` (R114): element s of va, or 0 where s is not below VL. With a FEN bit set a register-file error in element s fails it
(R89, R106). -/
def vextDesc (f : FmtV) : Desc :=
  { typeOk := typeIn isNumeric
    align := groupsOf [(f.va, 0)]
    scalars := [(f.vb, f.sb, 1)]
    pipes := [.p]
    steps := (false, true, false)
    sources := fun view t => [sourceOf f.sa 0 f.va view.width view t]
    early := Thread.trimsAtDispatch
    run := fun v view a =>
      let s := view.opa.toNat
      let t := a.s.cur
      if s < v ∧ t.elemBad f.va.toNat view.width s ∧ !t.trimsAtDispatch then a.failElem view.width s 0x07 0
      else if s < v then
        let a1 := a.setG f.vd (BitVec.ofNat 64 (a.s.cur.elem f.va.toNat view.width s))
        if a.s.cur.elemBad f.va.toNat view.width s then a1.defer view view.width s else a1
      else a.setG f.vd 0 }

/-- `vins vd, ga, gb` (R114): element s of vd, where s lies in ES..VL-1 (R91). -/
def vinsDesc (f : FmtV) : Desc :=
  { typeOk := typeIn isNumeric
    align := groupsOf [(f.vd, 2)]
    scalars := [(f.va, f.sa, 0), (f.vb, f.sb, 1)]
    pipes := [.p]
    steps := (true, false, false)
    dst := fun view t => destOf f.vd view.width view t
    early := Thread.trimsAtDispatch
    run := fun v view a =>
      let s := view.opb.toNat
      if s < v ∧ view.es ≤ s then a.setElem f.vd.toNat view.width s (view.opa.toNat % 2 ^ view.width) else a }

end Sys2Proof.Machine
end

