-- ==== Sys2Proof/Machine/Predicate.lean ====
section
/-!
DEFINITION. Compares (R35, R110), predicate logic (R111), and moves between predicates and other registers (R120).
-/
namespace Sys2Proof.Machine

/-- A comparison of two elements: type code, a, b; the result and its flags. -/
abbrev CompareOp := Nat → Nat → Nat → Bool × BitVec 5

/-- A comparison by order (R110): under F, a NaN gives `onNan`, and NV if it signals or `loud` is set. -/
def byOrder (test : Int → Bool) (onNan loud : Bool) : CompareOp := fun ty a b =>
  if isFloat ty then
    let x := floatOf ty a
    let y := floatOf ty b
    if x.isNan || y.isNan then (onNan, if loud then flagNV else x.sig ||| y.sig) else (test (fOrder false x y), 0)
  else (test (intOf ty a - intOf ty b), 0)

/-- A comparison of whether an operand is NaN (R110). -/
def byNan (wanted : Bool) : CompareOp := fun ty a b =>
  let x := floatOf ty a
  let y := floatOf ty b
  ((x.isNan || y.isNan) == wanted, x.sig ||| y.sig)

/-- Writes element i's results of a compare (R35): the pf write comes last. -/
def Acc.setPair (a : Acc) (pt pf : BitVec 3) (i : Nat) (x y : Bool) : Acc := (a.setPred pt i x).setPred pf i y

/-- The all-false guard of a compare (R34). -/
def noneActiveVC (f : FmtVC) : Bool := allFalse f.guard f.gneg

/-- A vector compare (R35, R110). -/
def compareDesc (f : FmtVC) (ok : Nat → Bool) (op : CompareOp) : Desc :=
  { typeOk := typeIn ok
    align := groupsOf [(f.va, 0), (f.vb, 1)]
    pipes := [.m]
    sources := fun view t => [sourceOf f.strict 0 f.va view.width view t, sourceOf f.strict 1 f.vb view.width view t]
    segs := fun view _ => segMask f.pt view.es view.vl ||| segMask f.pf view.es view.vl
    early := Thread.trimsAtDispatch
    flagged := fun vt => isFloat (vtType vt)
    allFalse := noneActiveVC f
    run := fun v view a =>
      let w := view.width
      Acc.loop (fun i a =>
        let t := a.s.cur
        if !guardBit t f.guard f.gneg i then a.setPair f.pt f.pf i false false
        else
          let bad := t.elemBad f.va.toNat w i || t.elemBad f.vb.toNat w i
          if bad && !t.trimsAtDispatch then a.failElem w i 0x07 0
          else
            let (r, fl) := op (vtType view.vt) (t.elem f.va.toNat w i) (t.elem f.vb.toNat w i)
            let a1 := a.raise w i fl
            if !a1.ok then a1
            else
              let a2 := a1.setPair f.pt f.pf i r (!r)
              if bad then a2.defer view w i else a2) view.es (v - view.es) a }

/-- `vcmp.eq` (R110). -/
def vcmpEqDesc (f : FmtVC) : Desc := compareDesc f isNumeric (byOrder (fun d => d == 0) false false)

/-- `vcmp.ne` (R110). -/
def vcmpNeDesc (f : FmtVC) : Desc := compareDesc f isNumeric (byOrder (fun d => d != 0) true false)

/-- `vcmp.lt` (R110). -/
def vcmpLtDesc (f : FmtVC) : Desc := compareDesc f isNumeric (byOrder (fun d => decide (d < 0)) false true)

/-- `vcmp.ge` (R110). -/
def vcmpGeDesc (f : FmtVC) : Desc := compareDesc f isNumeric (byOrder (fun d => decide (0 ≤ d)) false true)

/-- `vcmp.le` (R110). -/
def vcmpLeDesc (f : FmtVC) : Desc := compareDesc f isNumeric (byOrder (fun d => decide (d ≤ 0)) false true)

/-- `vcmp.gt` (R110). -/
def vcmpGtDesc (f : FmtVC) : Desc := compareDesc f isNumeric (byOrder (fun d => decide (0 < d)) false true)

/-- `vcmp.un` (R110): under an I type it is ill-typed. -/
def vcmpUnDesc (f : FmtVC) : Desc := compareDesc f isFloat (byNan true)

/-- `vcmp.ord` (R110): under an I type it is ill-typed. -/
def vcmpOrdDesc (f : FmtVC) : Desc := compareDesc f isFloat (byNan false)

/-! ## Predicate logic -/

/-- A predicate word (R111): for each active i, pd[i] receives `bit` of the machine as it was, the indices and i. -/
def predicateDesc (f : FmtVP) (bit : Thread → List Nat → Nat → Bool) : Desc :=
  { typeOk := typeIn anyType
    pipes := [.m]
    segs := fun view _ => segMask f.pd view.es view.vl
    early := fun _ => true
    allFalse := allFalse f.guard f.gneg
    run := fun v view a =>
      let t := a.s.cur
      let active := activeList t f.guard f.gneg view.es v
      active.foldl (fun a i => a.setPred f.pd i (bit t active i)) a }

/-- The lowest active i with pa[i] = 1 (R111). -/
def lowestSet (t : Thread) (pa : BitVec 3) (active : List Nat) : Option Nat := active.find? (fun i => (t.pread pa).getLsbD i)

/-- `pand` (R111). -/
def pandDesc (f : FmtVP) : Desc := predicateDesc f (fun t _ i => (t.pread f.pa).getLsbD i && (t.pread f.pb).getLsbD i)

/-- `por` (R111). -/
def porDesc (f : FmtVP) : Desc := predicateDesc f (fun t _ i => (t.pread f.pa).getLsbD i || (t.pread f.pb).getLsbD i)

/-- `pxor` (R111). -/
def pxorDesc (f : FmtVP) : Desc := predicateDesc f (fun t _ i => (t.pread f.pa).getLsbD i != (t.pread f.pb).getLsbD i)

/-- `pandn` (R111). -/
def pandnDesc (f : FmtVP) : Desc := predicateDesc f (fun t _ i => (t.pread f.pa).getLsbD i && !(t.pread f.pb).getLsbD i)

/-- `pnot` (R111). -/
def pnotDesc (f : FmtVP) : Desc := predicateDesc f (fun t _ i => !(t.pread f.pa).getLsbD i)

/-- `pset` (R111). -/
def psetDesc (f : FmtVP) : Desc := predicateDesc f (fun _ _ _ => true)

/-- `pfirst` (R111): 1 for the lowest active i with pa[i] = 1. -/
def pfirstDesc (f : FmtVP) : Desc := predicateDesc f (fun t l i => lowestSet t f.pa l == some i)

/-- `pbrkb` (R111): 1 below the lowest active i with pa[i] = 1, or everywhere. -/
def pbrkbDesc (f : FmtVP) : Desc :=
  predicateDesc f (fun t l i => match lowestSet t f.pa l with | some k => decide (i < k) | none => true)

/-- `pbrka` (R111): as pbrkb, and that lowest i too. -/
def pbrkaDesc (f : FmtVP) : Desc :=
  predicateDesc f (fun t l i => match lowestSet t f.pa l with | some k => decide (i ≤ k) | none => true)

/-! ## Predicates to and from other registers -/

/-- The predicate that a 5-bit field names (R106). -/
def predField (r : BitVec 5) : BitVec 3 := r.extractLsb' 0 3

/-- A count over a predicate written to g(gd) (R120). DESIGN CHOICE (log entry 56): R120 does not say what the strict bit sa does where va
names a predicate, which has none (R37); the word is accepted with either value and the bit has no effect. -/
def predicateCount (f : FmtV) (count : Thread → List Nat → Word) : Desc :=
  { typeOk := typeIn isNumeric
    pipes := [.m]
    early := fun _ => true
    allFalse := noneActive f
    run := fun v view a => a.setG f.vd (count a.s.cur (activeList a.s.cur f.guard f.gneg view.es v)) }

/-- `vpopc gd, pa` (R120). -/
def vpopcDesc (f : FmtV) : Desc :=
  predicateCount f (fun t l => BitVec.ofNat 64 (l.filter (fun i => (t.pread (predField f.va)).getLsbD i)).length)

/-- `vfirst gd, pa` (R120): 2^64 − 1 if there is none. -/
def vfirstDesc (f : FmtV) : Desc :=
  predicateCount f (fun t l => match lowestSet t (predField f.va) l with
    | some i => BitVec.ofNat 64 i
    | none => BitVec.allOnes 64)

/-- `vfromp vd, pa` (R120); sa has no effect (log entry 56). -/
def vfrompDesc (f : FmtV) : Desc :=
  { typeOk := typeIn isInt
    align := groupsOf [(f.vd, 2)]
    pipes := [.m]
    steps := (true, false, false)
    dst := fun view t => destOf f.vd view.width view t
    early := fun _ => true
    allFalse := noneActive f
    run := fun v view => forActive f.guard f.gneg v view (fun i a =>
      a.setElem f.vd.toNat view.width i (if (a.s.cur.pread (predField f.va)).getLsbD i then 1 else 0)) }

/-- `vtop pd, va` (R120). -/
def vtopDesc (f : FmtV) : Desc :=
  { typeOk := typeIn isInt
    align := groupsOf [(f.va, 0)]
    pipes := [.m]
    steps := (false, true, false)
    sources := fun view t => [sourceOf f.sa 0 f.va view.width view t]
    segs := fun view _ => segMask (predField f.vd) view.es view.vl
    early := fun _ => true
    allFalse := noneActive f
    run := fun v view => forActive f.guard f.gneg v view (fun i a =>
      let a1 := a.setPred (predField f.vd) i (a.s.cur.elem f.va.toNat view.width i != 0)
      if a.s.cur.elemBad f.va.toNat view.width i then a1.defer view view.width i else a1) }

end Sys2Proof.Machine
end

