-- ==== Sys2Proof/Machine/Reduce.lean ====
section
/-!
DEFINITION. Reductions and scans, major 0x2D (R115 to R117).
-/
namespace Sys2Proof.Machine

/-- A value on its way through a reduction: its bits and the index it is attributed to. -/
abbrev Node := Nat × Nat

/-- Flags raised by the nodes of a reduction, each with the index it is attributed to (R116). -/
abbrev Raised := List (Nat × BitVec 5)

/-- The lowest index that an enabled flag is attributed to (R116), and that index's lowest enabled flag. -/
def firstEnabled (fen : BitVec 5) (l : Raised) : Option (Nat × Nat) :=
  match l.filter (fun x => x.2 &&& fen != 0) with
  | [] => none
  | x :: xs =>
    let i := xs.foldl (fun m y => min m y.1) x.1
    some (i, lowestFlag ((l.filter (fun y => y.1 == i)).foldl (fun m y => m ||| (y.2 &&& fen)) 0))

/-- Raises the flags of a whole evaluation (R116): where one is enabled, the lowest attributed index fails. -/
def Acc.raiseAll (a : Acc) (w : Nat) (l : Raised) : Acc :=
  match firstEnabled a.s.cur.fen l with
  | some (i, sub) => a.failElem w i 0x06 sub
  | none => l.foldl (fun a x => a.note x.1 x.2) a

/-- One level of the pairwise tree (R116). -/
def treeLevel (add : Nat → Nat → FRes) : List Node → List Node × Raised
  | x :: y :: rest =>
    let (v, fl) := add x.1 y.1
    let (ns, rs) := treeLevel add rest
    ((v, y.2) :: ns, (y.2, fl) :: rs)
  | l => (l, [])

/-- The pairwise tree (R116); a list of n nodes is done after fewer than n levels. -/
def treeSum (add : Nat → Nat → FRes) : Nat → List Node → Raised → List Node × Raised
  | 0, l, fl => (l, fl)
  | fuel + 1, l, fl =>
    match l with
    | _ :: _ :: _ => let (l', fl') := treeLevel add l; treeSum add fuel l' (fl ++ fl')
    | _ => (l, fl)

/-- A chain over the elements in order, each step attributed to its element (R115, R117): the values after each step. -/
def chain (op : Nat → Nat → FRes) : Nat → List Node → List Node × Raised
  | _, [] => ([], [])
  | acc, x :: xs =>
    let (v, fl) := op acc x.1
    let (vs, rs) := chain op v xs
    ((v, x.2) :: vs, (x.2, fl) :: rs)

/-- The value of a reduction by a chain: its last step, or the initial value. -/
def chainResult (op : Nat → Nat → FRes) (acc : Nat) (l : List Node) : Nat × Raised :=
  let (vs, rs) := chain op acc l
  ((vs.getLast?.map (·.1)).getD acc, rs)

/-- The value of `vred.sum` on F (R116). -/
def treeResult (add : Nat → Nat → FRes) (acc : Nat) (l : List Node) : Nat × Raised :=
  match treeSum add l.length l [] with
  | (x :: _, fl) => let (v, f) := add acc x.1; (v, fl ++ [(x.2, f)])
  | ([], _) => (acc, [])

/-- A reduction's operation for a type and a mode, on two bit patterns. -/
def stepOf (op : ElemOp) (ty : Nat) (rm : Rm) : Nat → Nat → FRes := fun x y => op ty rm 0 x y

/-- The parts common to reductions and scans. -/
def reductionBase (f : FmtV) (ok : Nat → Bool) (run : Nat → View → Acc → Acc) : Desc :=
  { typeOk := typeIn ok
    align := groupsOf [(f.va, 0), (f.vb, 1), (f.vd, 2)]
    pipes := [.m]
    steps := (true, true, true)
    sources := fun view t => [sourceOf f.sa 0 f.va view.width view t, sourceOf f.sb 1 f.vb view.width view t]
    dst := fun view t => destOf f.vd view.width view t
    early := Thread.trimsAtDispatch
    flagged := fun vt => isFloat (vtType vt)
    allFalse := noneActive f
    run := run }

/-- A reduction (R115): element 0 of vd receives the value over L from element 0 of vb. A register-file error in an element fails
it, or after the trim point poisons the result (R90). DESIGN CHOICE (log entry 55): the spec attributes an error in element 0 of vb to no
element; as an NV of acc (R116) it goes to the first index in L, and where L is empty to index ES. -/
def reduction (f : FmtV) (ok : Nat → Bool) (value : Nat → Rm → Nat → List Node → Nat × Raised) : Desc :=
  reductionBase f ok (fun v view a =>
    let t := a.s.cur
    let w := view.width
    let l := activeList t f.guard f.gneg view.es v
    let bad := (l.find? (fun i => t.elemBad f.va.toNat w i)).orElse (fun _ =>
      if t.elemBad f.vb.toNat w 0 then some (l.head?.getD view.es) else none)
    match bad, t.trimsAtDispatch with
    | some i, false => a.failElem w i 0x07 0
    | bad, _ =>
      let (x, fl) := value (vtType view.vt) t.rm (t.elem f.vb.toNat w 0) (l.map (fun i => (t.elem f.va.toNat w i, i)))
      let a1 := a.raiseAll w fl
      if !a1.ok then a1
      else
        let a2 := a1.setElem f.vd.toNat w 0 x
        match bad with
        | some i => (a2.poisonElem f.vd.toNat w 0).defer view w i
        | none => a2)

/-- `vred.osum` (R115): in order, one rounding a step. -/
def vredOsumDesc (f : FmtV) : Desc := reduction f isFloat (fun ty rm acc l => chainResult (stepOf vAddOp ty rm) acc l)

/-- `vred.sum` (R115, R116): the pairwise tree on F, the sum modulo 2^w on I. -/
def vredSumDesc (f : FmtV) : Desc :=
  reduction f isNumeric (fun ty rm acc l =>
    if isFloat ty then treeResult (stepOf vAddOp ty rm) acc l else chainResult (stepOf vAddOp ty rm) acc l)

/-- `vred.max` (R115). -/
def vredMaxDesc (f : FmtV) : Desc := reduction f isNumeric (fun ty rm acc l => chainResult (stepOf vMaxOp ty rm) acc l)

/-- `vred.min` (R115). -/
def vredMinDesc (f : FmtV) : Desc := reduction f isNumeric (fun ty rm acc l => chainResult (stepOf vMinOp ty rm) acc l)

/-- `vred.and` (R115). -/
def vredAndDesc (f : FmtV) : Desc := reduction f isInt (fun ty rm acc l => chainResult (stepOf vAndOp ty rm) acc l)

/-- `vred.or` (R115). -/
def vredOrDesc (f : FmtV) : Desc := reduction f isInt (fun ty rm acc l => chainResult (stepOf vOrOp ty rm) acc l)

/-- `vred.xor` (R115). -/
def vredXorDesc (f : FmtV) : Desc := reduction f isInt (fun ty rm acc l => chainResult (stepOf vXorOp ty rm) acc l)

/-- A scan (R117): every active element of vd receives the running value. An error in element 0 of vb, which the first of them reads, goes
to the first index in L (log entry 55). -/
def scanDesc (f : FmtV) (op : ElemOp) : Desc :=
  { reductionBase f isNumeric (fun v view a =>
      let t := a.s.cur
      let w := view.width
      let l := activeList t f.guard f.gneg view.es v
      let bad := (l.find? (fun i => t.elemBad f.va.toNat w i)).orElse (fun _ => if t.elemBad f.vb.toNat w 0 then l.head? else none)
      match bad, t.trimsAtDispatch with
      | some i, false => a.failElem w i 0x07 0
      | bad, _ =>
        let (vs, fl) := chain (stepOf op (vtType view.vt) t.rm) (t.elem f.vb.toNat w 0) (l.map (fun i => (t.elem f.va.toNat w i, i)))
        let a1 := a.raiseAll w fl
        if !a1.ok then a1
        else
          let a2 := vs.foldl (fun a x => a.setElem f.vd.toNat w x.2 x.1) a1
          match bad with
          | some i => ((l.filter (fun k => decide (i ≤ k))).foldl (fun a k => a.poisonElem f.vd.toNat w k) a2).defer view w i
          | none => a2) with }

/-- `vscan.sum` (R117). -/
def vscanSumDesc (f : FmtV) : Desc := scanDesc f vAddOp

/-- `vscan.max` (R117). -/
def vscanMaxDesc (f : FmtV) : Desc := scanDesc f vMaxOp

/-- `vscan.min` (R117). -/
def vscanMinDesc (f : FmtV) : Desc := scanDesc f vMinOp

/-- `vred.gsum gd, va, gb` (R115): the elements in L, extended to 64 bits, added to the captured g(gb). -/
def vredGsumDesc (f : FmtV) : Desc :=
  { typeOk := typeIn isInt
    align := groupsOf [(f.va, 0)]
    scalars := [(f.vb, f.sb, 1)]
    pipes := [.m]
    steps := (false, true, false)
    sources := fun view t => [sourceOf f.sa 0 f.va view.width view t]
    early := Thread.trimsAtDispatch
    allFalse := noneActive f
    run := fun v view a =>
      let t := a.s.cur
      let w := view.width
      let l := activeList t f.guard f.gneg view.es v
      let sum := l.foldl (fun x i => x + BitVec.ofInt 64 (intOf (vtType view.vt) (t.elem f.va.toNat w i))) view.opa
      let a1 := a.setG f.vd sum
      match l.find? (fun i => t.elemBad f.va.toNat w i) with
      | some i => if t.trimsAtDispatch then a1.defer view w i else a.failElem w i 0x07 0
      | none => a1 }

end Sys2Proof.Machine
end

