-- ==== Sys2Proof/Machine/Hash.lean ====
section
/-!
DEFINITION. The FIPS 202 functions that R2 names: SHA3-256, the hash of sealed records, layouts and images, and SHAKE128 and SHAKE256,
which only ML-DSA-44 uses. FIPS 202 is PRESUMED, since the manual does not carry its text (log entry 12).
-/
namespace Sys2Proof.Machine

/-- A list of bytes cut or filled to n. -/
def sized (n : Nat) (bs : List Byte) : List Byte := (bs ++ List.replicate (n - bs.length) 0).take n

/-- The permutation's state: the lane of column x in row y is at x + 5y. -/
abbrev Lanes := Vector Word 25

/-- A lane by column and row, both modulo 5. -/
def Lanes.lane (a : Lanes) (x y : Nat) : Word := a[x % 5 + 5 * (y % 5)]'(by omega)

/-- The state whose lanes a function of column and row gives. -/
def Lanes.make (f : Nat → Nat → Word) : Lanes := Vector.ofFn (fun i => f (i.val % 5) (i.val / 5))

/-- Each lane takes in the parity of the column before it and that of the column after it, turned by one bit. -/
def Lanes.mixColumns (a : Lanes) : Lanes :=
  let parity : Vector Word 5 := Vector.ofFn (fun x => (List.range 5).foldl (fun w y => w ^^^ a.lane x.val y) 0)
  let at_ := fun (x : Nat) => parity[x % 5]'(Nat.mod_lt _ (by decide))
  Lanes.make (fun x y => a.lane x y ^^^ at_ (x + 4) ^^^ (at_ (x + 1)).rotateLeft 1)

/-- The lanes but the first go round one cycle, from (x, y) to (y, 2x + 3y); the t-th step turns the lane by the t-th triangular number. -/
def Lanes.cycle (a : Lanes) : Nat → Nat → Nat → Nat → Lanes → Lanes
  | 0, _, _, _, out => out
  | n + 1, t, x, y, out =>
    let x' := y % 5
    let y' := (2 * x + 3 * y) % 5
    Lanes.cycle a n (t + 1) x' y' (out.set (x' + 5 * y') ((a.lane x y).rotateLeft (t * (t + 1) / 2 % 64)) (by omega))

/-- Each lane of a row takes in the next but one where the next is clear. -/
def Lanes.bend (a : Lanes) : Lanes := Lanes.make (fun x y => a.lane x y ^^^ (a.lane (x + 2) y &&& ~~~(a.lane (x + 1) y)))

/-- The n-th power of x modulo x^8 + x^6 + x^5 + x^4 + 1, as bits. -/
def powerOfX : Nat → Nat
  | 0 => 1
  | n + 1 => let d := 2 * powerOfX n; if d < 256 then d else d ^^^ 0x171

/-- The constant of a round: bit 2^j - 1 is the constant term of the power 7i + j. -/
def roundConstant (i : Nat) : Word :=
  BitVec.ofNat 64 ((List.range 7).foldl (fun w j => if (powerOfX (7 * i + j)).testBit 0 then w + 2 ^ (2 ^ j - 1) else w) 0)

/-- One round of the permutation. -/
def Lanes.round (a : Lanes) (i : Nat) : Lanes :=
  let mixed := a.mixColumns
  let bent := (mixed.cycle 24 1 1 0 mixed).bend
  bent.set 0 (bent.lane 0 0 ^^^ roundConstant i)

/-- The permutation: 24 rounds. -/
def Lanes.permute (a : Lanes) : Lanes := (List.range 24).foldl Lanes.round a

/-- A block of at most 200 bytes enters the state. -/
def Lanes.take (a : Lanes) (block : List Byte) : Lanes :=
  Lanes.permute (Vector.ofFn (fun i : Fin 25 => a[i] ^^^ BitVec.ofNat 64 (leNat ((block.drop (8 * i.val)).take 8))))

/-- n blocks of a message enter. -/
def Lanes.takeAll (rate : Nat) : Nat → List Byte → Lanes → Lanes
  | 0, _, a => a
  | n + 1, m, a => Lanes.takeAll rate n (m.drop rate) (a.take (m.take rate))

/-- n blocks of output. -/
def Lanes.give (rate : Nat) : Nat → Lanes → List Byte
  | 0, _ => []
  | n + 1, a => (a.toList.flatMap (fun w => leBytes 8 w.toNat)).take rate ++ Lanes.give rate n a.permute

/-- The sponge with a rate in bytes and a suffix: `n` bytes of output. -/
def sponge (rate suffix : Nat) (m : List Byte) (n : Nat) : List Byte :=
  let room := rate - m.length % rate
  let pad := (List.range room).map (fun k => BitVec.ofNat 8 ((if k = 0 then suffix else 0) + (if k + 1 = room then 0x80 else 0)))
  (Lanes.give rate ((n + rate - 1) / rate) (Lanes.takeAll rate (m.length / rate + 1) (m ++ pad) (Vector.replicate 25 0))).take n

/-- SHA3-256. -/
def sha3 (m : List Byte) : List Byte := sponge 136 0x06 m 32

/-- SHAKE128 to `n` bytes. -/
def shake128 (m : List Byte) (n : Nat) : List Byte := sponge 168 0x1F m n

/-- SHAKE256 to `n` bytes. -/
def shake256 (m : List Byte) (n : Nat) : List Byte := sponge 136 0x1F m n

end Sys2Proof.Machine
end

