-- ==== Sys2Proof/Machine/Signature.lean ====
section
/-!
DEFINITION. ML-DSA-44 as R2 uses it: pure signing and verification with an empty context string. FIPS 204 is PRESUMED, since the manual
names it and does not carry its text (log entry 12). Polynomials have 256 coefficients modulo q, each a number below q.
-/
namespace Sys2Proof.Machine.MlDsa

/-- The modulus. -/
def q : Nat := 8380417

/-- The range of a mask's coefficients. -/
def gamma1 : Nat := 131072

/-- Half the step of the high bits. -/
def gamma2 : Nat := 95232

/-- The bound by which a challenge times a secret can grow. -/
def beta : Nat := 78

/-- The largest number of hints. -/
def omega : Nat := 80

/-- A polynomial: its 256 coefficients, lowest first. -/
abbrev Poly := List Nat

/-- Four polynomials. -/
abbrev Polys := List Poly

/-- A sum, coefficient by coefficient. -/
def add (a b : Poly) : Poly := List.zipWith (fun x y => (x + y) % q) a b

/-- A difference, coefficient by coefficient. -/
def sub (a b : Poly) : Poly := List.zipWith (fun x y => (x + q - y) % q) a b

/-- A product of two transformed polynomials, point by point. -/
def mul (a b : Poly) : Poly := List.zipWith (fun x y => x * y % q) a b

/-- A polynomial's value at a point. -/
def valueAt (a : Poly) (r : Nat) : Nat := a.foldr (fun c v => (c + r * v) % q) 0

/-- The 8 bits of a number in the other order. -/
def reversed (n : Nat) : Nat := (List.range 8).foldl (fun m k => 2 * m + n / 2 ^ k % 2) 0

/-- The transform: the values at the odd powers of 1753, a 512-th root of 1. -/
def ntt (a : Poly) : Poly := (List.range 256).map (fun i => valueAt a (1753 ^ (2 * reversed i + 1) % q))

/-- The inverse transform; 8347681 is the inverse of 256. -/
def intt (a : Poly) : Poly :=
  let v := (List.range 256).map (fun m => a.getD (reversed m) 0)
  (List.range 256).map (fun j => 8347681 * (1753 ^ (512 - j) % q) % q * valueAt v (1753 ^ (1024 - 2 * j) % q) % q)

/-- The distance of a coefficient from 0. -/
def size (x : Nat) : Nat := min x (q - x)

/-- Whether every coefficient is nearer to 0 than a bound. -/
def within (bound : Nat) (l : Polys) : Bool := l.all (fun a => a.all (fun x => decide (size x < bound)))

/-- The low and the high part of a coefficient: the low one modulo q, and whether it is above 0. -/
def parts (x : Nat) : Nat × Nat × Bool :=
  let m := x % (2 * gamma2)
  let low : Int := if m ≤ gamma2 then m else (m : Int) - 2 * gamma2
  if (x : Int) - low = q - 1 then (0, ((low + q - 1) % q).toNat, decide (1 < low))
  else ((((x : Int) - low) / (2 * gamma2)).toNat, ((low + q) % q).toNat, decide (0 < low))

/-- The high part of a coefficient. -/
def high (x : Nat) : Nat := (parts x).1

/-- The low part of a coefficient. -/
def low (x : Nat) : Nat := (parts x).2.1

/-- The high part that a hint corrects. -/
def corrected (hint : Bool) (x : Nat) : Nat :=
  let p := parts x
  if !hint then p.1 else if p.2.2 then (p.1 + 1) % 44 else (p.1 + 43) % 44

/-- The 256 fields of `w` bits that bytes hold. -/
def fields (w : Nat) (bs : List Byte) : List Nat := let n := leNat bs; (List.range 256).map (fun i => n / 2 ^ (w * i) % 2 ^ w)

/-- The bytes of 256 fields of `w` bits. -/
def packed (w : Nat) (l : List Nat) : List Byte := leBytes (32 * w) (l.foldr (fun x n => x % 2 ^ w + 2 ^ w * n) 0)

/-- The coefficients c - x for fields x. -/
def below (c : Nat) (l : List Nat) : Poly := l.map (fun x => (c + q - x) % q)

/-- The n-th part of `size` bytes. -/
def part (size n : Nat) (bs : List Byte) : List Byte := (bs.drop (size * n)).take size

/-- Four polynomials made from the parts of bytes. -/
def polysOf (size : Nat) (f : List Byte → Poly) (bs : List Byte) : Polys := (List.range 4).map (fun n => f (part size n bs))

/-- The numbers below q that triples of bytes give, less their highest bit. -/
def accepted : List Byte → List Nat
  | a :: b :: c :: rest =>
    let z := a.toNat + 256 * b.toNat + 65536 * (c.toNat % 128)
    if z < q then z :: accepted rest else accepted rest
  | _ => []

/-- The public matrix, transformed, row by row. Its sampling reads 1,008 bytes, of which 768 suffice but for a negligible chance. -/
def matrix (rho : List Byte) : List Polys :=
  (List.range 4).map (fun r => (List.range 4).map (fun s => (accepted (shake128 (rho ++ leBytes 1 s ++ leBytes 1 r) 1008)).take 256))

/-- A matrix times four polynomials, all transformed. -/
def apply (m : List Polys) (v : Polys) : Polys := m.map (fun row => (List.zipWith mul row v).foldl add (List.replicate 256 0))

/-- The challenge that 32 bytes stand for: 39 coefficients are 1 or -1. A byte above the place in question is skipped. -/
def challengeFrom (signs : Nat) : List Byte → Nat → Poly → Poly
  | [], _, c => c
  | b :: bs, i, c =>
    if 256 ≤ i then c
    else if i < b.toNat then challengeFrom signs bs i c
    else challengeFrom signs bs (i + 1) ((c.set i (c.getD b.toNat 0)).set b.toNat (if signs.testBit (i - 217) then q - 1 else 1))

/-- The challenge of a commitment's hash. -/
def challenge (seed : List Byte) : Poly :=
  let bs := shake256 seed 544
  challengeFrom (leNat (bs.take 8)) (bs.drop 8) 217 (List.replicate 256 0)

/-- The message representative: the hash of the public key's hash and of the message under an empty context. -/
def representative (tr m : List Byte) : List Byte := shake256 (tr ++ [0, 0] ++ m) 64

/-- The hash of a commitment's high parts. -/
def commitment (mu : List Byte) (w1 : List (List Nat)) : List Byte := shake256 (mu ++ w1.flatMap (packed 6)) 32

/-- The bytes of the hints: the places of each polynomial, filled up with 0, and the running counts. -/
def hintBytes (h : List (List Bool)) : List Byte :=
  let places := h.map (fun p => (p.zipIdx.filter (fun x => x.1)).map (fun x => x.2))
  let all := places.flatten
  let counts := (List.range 4).map (fun n => ((places.take (n + 1)).map List.length).foldl (· + ·) 0)
  (all ++ List.replicate (omega - all.length) 0 ++ counts).map (BitVec.ofNat 8)

/-- Whether numbers strictly rise. -/
def rising : List Nat → Bool
  | a :: b :: rest => decide (a < b) && rising (b :: rest)
  | _ => true

/-- The hints that 84 bytes hold, if they are as `hintBytes` writes them. -/
def hintsOf (bs : List Byte) : Option (List (List Bool)) :=
  let ns := bs.map (fun b => b.toNat)
  let ends := (ns.drop omega).take 4
  let runs := List.zipWith (fun lo hi => (lo, hi)) (0 :: ends) ends
  let places := runs.map (fun r => (ns.drop r.1).take (r.2 - r.1))
  if runs.all (fun r => decide (r.1 ≤ r.2 ∧ r.2 ≤ omega)) && places.all rising && ((ns.take omega).drop (ends.getD 3 0)).all (fun x => x == 0) then
    some (places.map (fun p => (List.range 256).map (fun j => p.contains j)))
  else none

/-- Whether a signature of a message verifies under a public key. -/
def verify (publicKey message signature : List Byte) : Bool :=
  let pk := sized 1312 publicKey
  let seed := signature.take 32
  let z := polysOf 576 (fun bs => below gamma1 (fields 18 bs)) ((signature.drop 32).take 2304)
  match hintsOf (signature.drop 2336) with
  | none => false
  | some h =>
    let t := polysOf 320 (fun bs => ntt ((fields 10 bs).map (fun x => 8192 * x % q))) (pk.drop 32)
    let c := ntt (challenge seed)
    let w := List.zipWith (fun a t => intt (sub a (mul c t))) (apply (matrix (pk.take 32)) (z.map ntt)) t
    let w1 := List.zipWith (fun h a => List.zipWith corrected h a) h w
    signature.length == 2420 && within (gamma1 - beta) z && seed == commitment (representative (shake256 pk 64) message) w1

/-- One attempt at a signature with the mask of a counter; none where it must be made again. -/
def attempt (a : List Polys) (s1 s2 t0 : Polys) (mu seed : List Byte) (counter : Nat) : Option (List Byte) :=
  let y := (List.range 4).map (fun r => below gamma1 (fields 18 (shake256 (seed ++ leBytes 2 (counter + r)) 576)))
  let w := (apply a (y.map ntt)).map intt
  let hash := commitment mu (w.map (fun p => p.map high))
  let c := ntt (challenge hash)
  let times := fun (l : Polys) => l.map (fun p => intt (mul c p))
  let z := List.zipWith add y (times s1)
  let rest := List.zipWith sub w (times s2)
  let ct0 := times t0
  let h := List.zipWith (fun r t => List.zipWith (fun x y => high x != high ((x + y) % q)) r t) rest ct0
  let count := (h.map (fun p => (p.filter id).length)).foldl (· + ·) 0
  if within (gamma1 - beta) z && within (gamma2 - beta) (rest.map (fun p => p.map low)) && within gamma2 ct0 && decide (count ≤ omega) then
    some (hash ++ z.flatMap (fun p => packed 18 (p.map (fun x => (gamma1 + q - x) % q))) ++ hintBytes h)
  else none

/-- Attempts until one succeeds. -/
def attempts (f : Nat → Option (List Byte)) : Nat → Nat → List Byte
  | 0, _ => List.replicate 2420 0
  | n + 1, counter => (f counter).getD (attempts f n (counter + 4))

/-- The signature of a message under a private key, with 32 bytes of randomness. One attempt in four or so succeeds; 814 all fail with a
chance below 2^-256. -/
def sign (privateKey message random : List Byte) : List Byte :=
  let sk := sized 2560 privateKey
  let s1 := polysOf 96 (fun bs => ntt (below 2 (fields 3 bs))) (sk.drop 128)
  let s2 := polysOf 96 (fun bs => ntt (below 2 (fields 3 bs))) (sk.drop 512)
  let t0 := polysOf 416 (fun bs => ntt (below 4096 (fields 13 bs))) (sk.drop 896)
  let mu := representative ((sk.drop 64).take 64) message
  let seed := shake256 ((sk.drop 32).take 32 ++ sized 32 random ++ mu) 64
  attempts (attempt (matrix (sk.take 32)) s1 s2 t0 mu seed) 814 0

end Sys2Proof.Machine.MlDsa
end

