-- ==== Sys2Proof/Machine/Stitch.lean ====
section
/-!
DEFINITION. Stitched tensors, major 0x21 (R194 to R212): the stitch unit, xpin, xunpin, xrun, xsplice, xreap and xlen. Share hints
(R212) change only timing.
-/
namespace Sys2Proof.Machine

/-! ## The unit's accesses -/

/-- What ends an operation of the unit: an element cause, a header or record check of 0x4A by its number (R202, R207), a wait for a copy
of the issuing thread, or a list that software broke (R199, R206). -/
inductive UnitStop where
  | cause (c : Cand)
  | shape (check : Nat)
  | wait
  | broken
  deriving DecidableEq, Repr

/-- An operation of the unit under way, under the issuing context (R200); `core` where the current thread issued it, so that its own
copies are waited for (R178); `issuer` where the security engine works for a thread (team, logical thread, number of the operation). -/
structure UnitRun where
  s : State
  c : Ctx
  core : Bool
  issuer : Option (Nat × Nat × Nat)
  stop : Option UnitStop
  deriving DecidableEq, Repr

/-- Whether an access of the operation meets a copy that comes before it in its thread's program order (R62, R178, R271, R279): of the current
thread, or in the engine's name one handed over before the operation. -/
def UnitRun.meets (u : UnitRun) (pa n : Nat) (write : Bool) : Bool :=
  (u.core && u.s.copyMeets pa n write) ||
    u.issuer.any (fun o => u.s.copies.any (fun c => c.team == o.1 && c.lthread == o.2.1 && decide (c.num < o.2.2) &&
      (meetsRange pa n (c.moves.map (·.dst)) || (write && meetsRange pa n (c.moves.map (·.src))))))

/-- Ends an operation, unless it has ended. -/
def UnitRun.halt (u : UnitRun) (k : UnitStop) : UnitRun := if u.stop.isNone then { u with stop := some k } else u

/-- Ends an operation with an element cause. -/
def UnitRun.fail (u : UnitRun) (cause : BitVec 8) (sub : Nat) (addr : Nat := 0) : UnitRun :=
  u.halt (.cause { cause := cause, sub := sub, addr := addr })

/-- Checks parts one after another until one has a cause; an NS page fails at every position (R200). -/
def UnitRun.reachParts (u : UnitRun) (need : Need) : List (Nat × Nat) → List Reach × UnitRun
  | [] => ([], u)
  | p :: ps =>
    let (r, s1) := u.s.reachPart u.c (p.1 : Nat) p.2 need none (oobPlain (p.1 : Nat))
    let u1 := { u with s := s1 }
    match firstCand (r.cands ++ (if r.ns then [{ cause := 0x03, sub := 0, addr := r.va }] else [])) with
    | some c => ([], u1.halt (if c.cause == 0x07 && u1.meets r.pa r.size r.write then .wait else .cause c))
    | none =>
      if u1.meets r.pa r.size r.write then ([], u1.halt .wait)
      else
        let (rs, u2) := UnitRun.reachParts u1 need ps
        (r :: rs, u2)

/-- The checks of `n` bytes at `va` (R155, R200). -/
def UnitRun.reach (u : UnitRun) (va n : Nat) (need : Need) : List Reach × UnitRun :=
  if u.stop.isSome then ([], u) else u.reachParts need (partsOf va n)

/-- What was reached takes effect: A, D and the TLB (R320). -/
def UnitRun.touch (u : UnitRun) (rs : List Reach) : UnitRun :=
  { u with s := rs.foldl (fun s r => if u.core then (s.touch u.c r.va r.leaf r.write).noteAccess r.pa else s.touch u.c r.va r.leaf r.write) u.s }

/-- Reads the parts of a span. -/
def State.readParts (s : State) (rs : List Reach) : List Byte := rs.flatMap (fun r => s.read r.pa r.size)

/-- Reads `n` bytes at `va`; nothing where the operation has ended or ends here. -/
def UnitRun.read (u : UnitRun) (va n : Nat) : List Byte × UnitRun :=
  let (rs, u1) := u.reach va n Need.load
  if u1.stop.isSome then ([], u1) else let u2 := u1.touch rs; (u2.s.readParts rs, u2)

/-- Checks every write before any is made (R200). -/
def UnitRun.reachWrites (u : UnitRun) : List (Nat × List Byte) → List (List Reach) × UnitRun
  | [] => ([], u)
  | w :: ws =>
    let (rs, u1) := u.reach w.1 w.2.length Need.store
    let (rest, u2) := u1.reachWrites ws
    (rs :: rest, u2)

/-- Writes bytes over the parts of a span. -/
def State.writeParts (s : State) : List Reach → List Byte → State
  | [], _ => s
  | r :: rs, bs => (s.write r.pa (bs.take r.size)).writeParts rs (bs.drop r.size)

/-- Makes the listed writes in order, if every page allows them. -/
def UnitRun.commit (u : UnitRun) (ws : List (Nat × List Byte)) : UnitRun :=
  let (rss, u1) := u.reachWrites ws
  if u1.stop.isSome then u1
  else
    let u2 := u1.touch rss.flatten
    { u2 with s := (rss.zip ws).foldl (fun s x => s.writeParts x.1 x.2.2) u2.s }

/-! ## The structure in memory -/

/-- The index that stands for none (R195, R196). -/
def noEntry : Nat := 0xFFFFFFFF

/-- A header (R195) at its address. -/
structure Head where
  va : Nat
  pool : Nat
  anchors : Nat
  cap : Nat
  head : Nat
  free : Nat
  hw : Nat
  cur : Nat
  curslot : Nat
  live : Nat
  esz : Nat
  deriving DecidableEq, Repr

/-- The header that 64 bytes hold. -/
def headOf (va : Nat) (bs : List Byte) : Head :=
  { va := va, pool := fieldAt bs 0 8, anchors := fieldAt bs 8 8, cap := fieldAt bs 0x10 4, head := fieldAt bs 0x14 4
    free := fieldAt bs 0x18 4, hw := fieldAt bs 0x1C 4, cur := fieldAt bs 0x20 4, curslot := fieldAt bs 0x24 1
    live := fieldAt bs 0x25 1, esz := fieldAt bs 0x26 1 }

/-- Whether a header keeps to R195. -/
def Head.wellFormed (h : Head) (bs : List Byte) : Bool :=
  h.pool % 32 == 0 && decide (h.pool < 2 ^ 56) && h.anchors % 4096 == 0 && decide (h.anchors < 2 ^ 56) &&
    decide (1 ≤ h.cap ∧ h.cap ≤ 2 ^ 20) && (h.head == noEntry || decide (h.head < h.cap)) &&
    (h.free == noEntry || decide (h.free < h.cap)) && decide (h.hw ≤ h.cap) && h.cur != 0 && decide (h.curslot ≤ 7) &&
    h.live.testBit h.curslot && decide (h.esz ≤ 3) && (bs.drop 0x27).all (fun b => b == 0)

/-- The header's checks in the order of R202. A tensor whose bytes software has written and that the unit does not find inconsistent is undefined
by R199; DESIGN CHOICE (log entry 11): the unit goes on with the bytes as they stand. -/
def UnitRun.header (u : UnitRun) (va : Nat) : Head × UnitRun :=
  if va % 64 ≠ 0 then (headOf va [], u.halt (.shape 1))
  else
    let (bs, u1) := u.read va 64
    let h := headOf va bs
    (h, if u1.stop.isSome || h.wellFormed bs then u1 else u1.halt (.shape 3))

/-- Bytes 0x14 to 0x25 of a header: what the instructions write. -/
def Head.fields (h : Head) : Nat × List Byte :=
  (h.va + 0x14, leBytes 4 h.head ++ leBytes 4 h.free ++ leBytes 4 h.hw ++ leBytes 4 h.cur ++ leBytes 1 h.curslot ++ leBytes 1 h.live)

/-- An entry of the pool (R196); its length in elements. -/
structure PoolEntry where
  base : Nat
  len : Nat
  next : Nat
  born : Nat
  died : Nat
  share : Nat
  deriving DecidableEq, Repr

/-- A length field, where 0 stands for 2^32. -/
def lengthOf (x : Nat) : Nat := if x = 0 then 2 ^ 32 else x

/-- Where entry e lies. -/
def Head.entryAt (h : Head) (e : Nat) : Nat := h.pool + 32 * e

/-- Reads entry e. One with a reserved byte that is not 0 is ill-formed (R8): software broke the tensor (R199). -/
def UnitRun.entry (u : UnitRun) (h : Head) (e : Nat) : PoolEntry × UnitRun :=
  let (bs, u1) := u.read (h.entryAt e) 32
  ({ base := fieldAt bs 0 8, len := lengthOf (fieldAt bs 8 4), next := fieldAt bs 12 4, born := fieldAt bs 16 4, died := fieldAt bs 20 4
     share := fieldAt bs 24 2 }, if fieldAt bs 26 6 = 0 then u1 else u1.halt .broken)

/-- The 32 bytes of an entry. -/
def PoolEntry.bytes (e : PoolEntry) : List Byte :=
  leBytes 8 e.base ++ leBytes 4 e.len ++ leBytes 4 e.next ++ leBytes 4 e.born ++ leBytes 4 e.died ++ leBytes 2 e.share ++ leBytes 6 0

/-- Whether an entry is alive at a version (R198). -/
def PoolEntry.alive (e : PoolEntry) (v : Nat) : Bool := decide (e.born ≤ v) && (e.died == 0 || decide (v < e.died))

/-- A slot record (R197). -/
structure SlotRecord where
  version : Nat
  pins : Nat
  nanch : Nat
  length : Nat
  deriving DecidableEq, Repr

/-- Where slot s begins. -/
def Head.slotAt (h : Head) (s : Nat) : Nat := h.anchors + 32768 * s

/-- Reads a slot record. -/
def UnitRun.slot (u : UnitRun) (h : Head) (s : Nat) : SlotRecord × UnitRun :=
  let (bs, u1) := u.read (h.slotAt s) 16
  ({ version := fieldAt bs 0 4, pins := fieldAt bs 4 2, nanch := fieldAt bs 6 2, length := fieldAt bs 8 8 }, u1)

/-- The 16 bytes of a slot record. -/
def SlotRecord.bytes (r : SlotRecord) : List Byte := leBytes 4 r.version ++ leBytes 2 r.pins ++ leBytes 2 r.nanch ++ leBytes 8 r.length

/-- The list from an entry on, dead entries too, of n entries at most; a list that leaves the pool or does not end is broken. -/
def UnitRun.list (u : UnitRun) (h : Head) : Nat → Nat → List (Nat × PoolEntry) × UnitRun
  | 0, e => ([], if e = noEntry then u else u.halt .broken)
  | n + 1, e =>
    if e = noEntry ∨ u.stop.isSome then ([], u)
    else if h.cap ≤ e then ([], u.halt .broken)
    else
      let (x, u1) := u.entry h e
      let (rest, u2) := UnitRun.list u1 h n x.next
      ((e, x) :: rest, u2)

/-- A piece of a version: its entry and the logical index of its first element (R198). -/
structure Piece where
  index : Nat
  start : Nat
  entry : PoolEntry
  deriving DecidableEq, Repr

/-- The end of a piece's span. -/
def Piece.stop (p : Piece) : Nat := p.start + p.entry.len

/-- The pieces of a version, the first beginning at p (R198). -/
def piecesOf (v : Nat) : Nat → List (Nat × PoolEntry) → List Piece
  | _, [] => []
  | p, (i, e) :: rest => if e.alive v then { index := i, start := p, entry := e } :: piecesOf v (p + e.len) rest else piecesOf v p rest

/-! ## Handles -/

/-- A handle (R203). -/
def handleOf (h : Head) (slot : Nat) : Word := BitVec.ofNat 64 (h.cur % 256 * 2 ^ 56 + bitsOf h.va 55 6 * 64 + slot * 8)

/-- The conditions of R203 in their order: the header, the slot and its record. -/
def UnitRun.handle (u : UnitRun) (x : Word) : Head × Nat × SlotRecord × UnitRun :=
  let s := bitsOf x.toNat 5 3
  if bitsOf x.toNat 2 0 ≠ 0 then (headOf 0 [], s, ⟨0, 0, 0, 0⟩, u.fail 0x0A 0)
  else
    let (h, u1) := u.header (64 * bitsOf x.toNat 55 6)
    if u1.stop.isNone && !h.live.testBit s then (h, s, ⟨0, 0, 0, 0⟩, u1.fail 0x0A 0)
    else
      let (r, u2) := u1.slot h s
      (h, s, r, if r.pins = 0 ∨ r.version % 256 ≠ bitsOf x.toNat 63 56 then u2.fail 0x0A 0 else u2)

/-! ## Runs -/

/-- The number of anchors of a slot, among those numbered lo to hi-1, up to the highest whose start is not above x (R206). -/
def UnitRun.anchor (u : UnitRun) (h : Head) (s x : Nat) : Nat → Nat → Nat → Nat × UnitRun
  | 0, lo, _ => (lo, u)
  | n + 1, lo, hi =>
    if hi ≤ lo then (lo, u)
    else
      let mid := (lo + hi) / 2
      let (bs, u1) := u.read (h.slotAt s + 0x18 + 16 * mid) 8
      if leNat bs ≤ x then UnitRun.anchor u1 h s x n (mid + 1) hi else UnitRun.anchor u1 h s x n lo mid

/-- Walks from an entry that begins at p to the piece that holds x (R206). -/
def UnitRun.walk (u : UnitRun) (h : Head) (v x : Nat) : Nat → Nat → Nat → Option Piece × UnitRun
  | 0, _, _ => (none, u.halt .broken)
  | n + 1, e, p =>
    if u.stop.isSome then (none, u)
    else if e = noEntry ∨ h.cap ≤ e then (none, u.halt .broken)
    else
      let (k, u1) := u.entry h e
      if !k.alive v then UnitRun.walk u1 h v x n k.next p
      else if x < p ∨ p + k.len ≤ x then UnitRun.walk u1 h v x n k.next (p + k.len)
      else (some { index := e, start := p, entry := k }, u1)

/-- The piece of a slot's version that holds x, which is below its length (R206). An anchor with a reserved byte that is not 0 is ill-formed
(R8). -/
def UnitRun.find (u : UnitRun) (h : Head) (s : Nat) (r : SlotRecord) (x : Nat) : Option Piece × UnitRun :=
  let (n, u1) := u.anchor h s x 11 0 (min r.nanch 1024)
  if n = 0 then u1.walk h r.version x (h.cap + 1) h.head 0
  else
    let (bs, u2) := u1.read (h.slotAt s + 0x10 + 16 * (n - 1)) 16
    (if fieldAt bs 4 4 = 0 then u2 else u2.halt .broken).walk h r.version x (h.cap + 1) (fieldAt bs 0 4) (fieldAt bs 8 8)

/-! ## Splicing -/

/-- A piece to insert (R207): base, length, share count. -/
structure Insert where
  base : Nat
  len : Nat
  share : Nat
  deriving DecidableEq, Repr

/-- Whether a splice ends a piece (R208, effect 1). -/
def Piece.dies (p : Piece) (pos rem : Nat) : Bool :=
  decide (p.start < pos + rem ∧ pos < p.stop) || decide (p.start < pos ∧ pos < p.stop)

/-- Entries of the free list from e on, n of them at most, and the one after them (R208, effect 2). -/
def UnitRun.freeList (u : UnitRun) (h : Head) : Nat → Nat → List Nat × Nat × UnitRun
  | 0, e => ([], e, u)
  | n + 1, e =>
    if e = noEntry ∨ u.stop.isSome then ([], e, u)
    else if h.cap ≤ e then ([], e, u.halt .broken)
    else
      let (x, u1) := u.entry h e
      let (rest, last, u2) := UnitRun.freeList u1 h n x.next
      (e :: rest, last, u2)

/-- The new entries of a splice in list order (R208, effects 2 and 3): base, length, share. -/
def newPieces (dying : List Piece) (pos rem esz : Nat) (ins : List Insert) : List Insert :=
  let left := match dying.head? with
    | some p => if p.start < pos then [{ base := p.entry.base, len := pos - p.start, share := p.entry.share : Insert }] else []
    | none => []
  let right := match dying.getLast? with
    | some p => if pos + rem < p.stop then
        [{ base := p.entry.base + 2 ^ esz * (pos + rem - p.start), len := p.stop - (pos + rem), share := p.entry.share : Insert }] else []
    | none => []
  left ++ ins ++ right

/-- The entry that the new ones follow, if any, and the one that follows them (R208, effect 4). -/
def linkPoint (full : List (Nat × PoolEntry)) (pieces dying : List Piece) (pos : Nat) : Option Nat × Nat :=
  match dying.getLast? with
  | some p => (some p.index, p.entry.next)
  | none =>
    match pieces.find? (fun p => p.start == pos) with
    | some p => (((full.takeWhile (fun x => x.1 != p.index)).getLast?).map (·.1), p.index)
    | none => ((full.getLast?).map (·.1), noEntry)

/-- Anchors of a version (R197): the entry and start of every 64th piece. -/
def anchorsOf : Nat → Nat → List (Nat × Nat) → List (Nat × Nat)
  | _, _, [] => []
  | k, p, (i, len) :: rest => if k % 64 = 0 then (i, p) :: anchorsOf (k + 1) (p + len) rest else anchorsOf (k + 1) (p + len) rest

/-- R208 after its first two conditions: the writes that make version W, and W. -/
def UnitRun.splicePlan (u : UnitRun) (h : Head) (r : SlotRecord) (pos rem : Nat) (ins : List Insert) : List (Nat × List Byte) × UnitRun :=
  let (full, u1) := u.list h h.cap h.head
  let pieces := piecesOf h.cur 0 full
  let total := match pieces.getLast? with | some p => p.stop | none => 0
  let u2 := if total = r.length then u1 else u1.halt .broken
  let dying := pieces.filter (fun p => p.dies pos rem)
  let new := newPieces dying pos rem h.esz ins
  let length := r.length - rem + (ins.map (·.len)).foldl (· + ·) 0
  let count := pieces.length - dying.length + new.length
  let u3 := if 65536 < count ∨ 2 ^ 48 ≤ length then u2.fail 0x0A 1 else u2
  let (taken, freed, u4') := u3.freeList h new.length h.free
  let u4 := if taken.eraseDups.length = taken.length then u4' else u4'.halt .broken
  let extra := new.length - taken.length
  let u5 := if h.cap - h.hw < extra then u4.fail 0x0A 3 else u4
  let ids := taken ++ (List.range extra).map (fun k => h.hw + k)
  let w := h.cur + 1
  let (pred, succ) := linkPoint full pieces dying pos
  let nexts := ids.tail ++ [succ]
  let entries := ((ids.zip nexts).zip new).map (fun x =>
    (h.entryAt x.1.1, PoolEntry.bytes { base := x.2.base % 2 ^ 64, len := x.2.len % 2 ^ 32, next := x.1.2, born := w, died := 0, share := x.2.share }))
  let deaths := dying.map (fun p => (h.entryAt p.index + 0x14, leBytes 4 w))
  let links := match pred, ids.head? with | some p, some i => [(h.entryAt p + 0x0C, leBytes 4 i)] | _, _ => []
  let head := match pred, ids.head? with | none, some i => i | _, _ => h.head
  let before : List Piece := match dying.head? with
    | some p => pieces.takeWhile (fun (x : Piece) => x.index != p.index)
    | none => pieces.takeWhile (fun (x : Piece) => decide (x.start < pos))
  let after := pieces.drop (before.length + dying.length)
  let order := before.map (fun p => (p.index, p.entry.len)) ++ (ids.zip new).map (fun x => (x.1, x.2.len)) ++
    after.map (fun p => (p.index, p.entry.len))
  let slot := if r.pins = 0 then h.curslot else ((List.range 8).find? (fun k => !h.live.testBit k)).getD h.curslot
  let anchors := anchorsOf 0 0 order
  let live := h.live ||| 2 ^ slot
  let h' := { h with head := head, free := if extra = 0 then freed else noEntry, hw := h.hw + extra, cur := w, curslot := slot, live := live }
  let marks := anchors.zipIdx.map (fun x => (h.slotAt slot + 0x10 + 16 * x.2, leBytes 8 x.1.1 ++ leBytes 8 x.1.2))
  (deaths ++ entries ++ links ++ marks ++
    [(h.slotAt slot, SlotRecord.bytes { version := w, pins := 0, nanch := anchors.length, length := length }), h'.fields], u5)

/-- The splice of R208 on a tensor whose header is known: `h` is left as it was; the operation ends where a condition fails. -/
def UnitRun.splice (u : UnitRun) (h : Head) (pos rem : Nat) (ins : List Insert) : UnitRun :=
  let (r, u1) := u.slot h h.curslot
  let u2 := if r.length < pos ∨ r.length < pos + rem then u1.fail 0x0A 1 else u1
  let u3 := if h.cur = 0xFFFFFFFF ∨ (h.live = 0xFF ∧ 0 < r.pins) then u2.fail 0x0E 0 h.va else u2
  if u3.stop.isSome then u3
  else
    let (ws, u4) := u3.splicePlan h r pos rem ins
    if u4.stop.isSome then u4 else u4.commit ws

/-- A piece record (R207): base, length, share count and its reserved bytes. -/
def insertOf (bs : List Byte) : Insert × Nat :=
  ({ base := fieldAt bs 0 8, len := lengthOf (fieldAt bs 8 4), share := fieldAt bs 12 2 }, fieldAt bs 14 2)

/-- Reads n piece records at va. -/
def UnitRun.records (u : UnitRun) : Nat → Nat → List (Insert × Nat) × UnitRun
  | 0, _ => ([], u)
  | n + 1, va =>
    if u.stop.isSome then ([], u)
    else
      let (bs, u1) := u.read va 16
      let (rest, u2) := UnitRun.records u1 n (va + 16)
      (insertOf bs :: rest, u2)

/-- The descriptor and its list (R207), checked in order: pos, rem and the pieces to insert. -/
def UnitRun.descriptor (u : UnitRun) (h : Head) (d : Nat) : Nat × Nat × List Insert × UnitRun :=
  if d % 32 ≠ 0 then (0, 0, [], u.fail 0x04 0 d)
  else
    let (bs, u1) := u.read d 32
    let list := fieldAt bs 16 8
    let n := fieldAt bs 24 4
    let u2 := if 0 < n ∧ list % 16 ≠ 0 then u1.fail 0x04 0 list else u1
    -- more pieces than R207 allows are refused by row 3 of R208, after its rows 1 and 2
    let (recs, u3) := u2.records n list
    let bad := fieldAt bs 28 4 != 0 || recs.any (fun x => x.2 != 0 || x.1.base % 2 ^ h.esz != 0)
    (fieldAt bs 0 8, fieldAt bs 8 8, recs.map (·.1), if bad then u3.halt (.shape 3) else u3)

/-! ## Reaping -/

/-- Whether no live version keeps an entry (R209). -/
def PoolEntry.reapable (e : PoolEntry) (versions : List Nat) : Bool := e.died != 0 && versions.all (fun v => decide (e.died ≤ v))

/-- The versions of the live slots. -/
def UnitRun.versions (u : UnitRun) (h : Head) : List Nat → List Nat × UnitRun
  | [] => ([], u)
  | s :: ss =>
    if h.live.testBit s then
      let (r, u1) := u.slot h s
      let (rest, u2) := UnitRun.versions u1 h ss
      (r.version :: rest, u2)
    else UnitRun.versions u h ss

/-- How many of the output records from i on, n at most, lie on pages that may be written, and the cause at the first that fails
(R209). DESIGN CHOICE (log entry 71): R209 gives the buffer no alignment; any address will do. -/
def UnitRun.outputs (u : UnitRun) (va : Nat) : Nat → Nat → Nat × Option Cand × UnitRun
  | 0, i => (i, none, u)
  | n + 1, i =>
    let (_, u1) := u.reach (va + 16 * i) 16 Need.store
    match u1.stop with
    | some (.cause c) => (i, some c, { u1 with stop := none })
    | some _ => (i, none, u1)
    | none => UnitRun.outputs u1 va n (i + 1)

/-- Unlinks reapable entries in list order, n at most (R209): the entries that stay, the entries reaped. -/
def reapFrom (versions : List Nat) : Nat → List (Nat × PoolEntry) → List (Nat × PoolEntry) × List (Nat × PoolEntry)
  | 0, l => (l, [])
  | _, [] => ([], [])
  | n + 1, x :: xs =>
    if x.2.reapable versions then
      let (keep, gone) := reapFrom versions n xs
      (keep, x :: gone)
    else
      let (keep, gone) := reapFrom versions (n + 1) xs
      (x :: keep, gone)

/-- The `next` fields of a list whose links changed. -/
def relink (h : Head) : List (Nat × PoolEntry) → List (Nat × List Byte)
  | [] => []
  | [x] => if x.2.next = noEntry then [] else [(h.entryAt x.1 + 0x0C, leBytes 4 noEntry)]
  | x :: y :: rest => (if x.2.next = y.1 then [] else [(h.entryAt x.1 + 0x0C, leBytes 4 y.1)]) ++ relink h (y :: rest)

/-- The writes of a reaping (R209): links, the free list, which takes each entry in turn, the header and the output records. -/
def reapWrites (h : Head) (out : Nat) (keep gone : List (Nat × PoolEntry)) : List (Nat × List Byte) :=
  let frees := (gone.zip (h.free :: gone.map (fun x => x.1))).map (fun x => (h.entryAt x.1.1 + 0x0C, leBytes 4 x.2))
  let h' := { h with head := (keep.head?.map (fun (x : Nat × PoolEntry) => x.1)).getD noEntry
                     free := (gone.getLast?.map (fun (x : Nat × PoolEntry) => x.1)).getD h.free }
  let recs := gone.zipIdx.map (fun x =>
    (out + 16 * x.2, leBytes 8 x.1.2.base ++ leBytes 4 x.1.2.len ++ leBytes 2 x.1.2.share ++ leBytes 2 0))
  if gone.isEmpty then [] else relink h keep ++ frees ++ [h'.fields] ++ recs

/-! ## The instructions -/

/-- An operation of the unit for the current thread. -/
def UnitRun.start (s : State) : UnitRun := { s := s, c := s.cur.ctx, core := true, issuer := none, stop := none }

/-- The header of a tensor that software broke is unpredictable from now on (R199; log entry 11). -/
def UnitRun.undefine (u : UnitRun) (va : Nat) : State :=
  let (rs, u1) := ({ u with stop := none } : UnitRun).reach va 64 Need.load
  match rs with
  | [r] => u1.s.addWild r.pa 64
  | _ => u1.s

/-- What an operation comes to for its entry (R202): its causes lead at element 0. A broken list has an outcome that nothing
defines (R206; log entry 11): a trap, or a value for gd and a length. -/
def Acc.unit (a : Acc) (view : View) (gd : BitVec 5) (ofVl : Bool) (u : UnitRun) (done : Acc → Acc) : Acc :=
  match u.stop with
  | some (.cause c) => a.failAt { elem := 0, cause := c.cause, sub := c.sub, addr := c.addr, lane := 0 }
  | some (.shape k) => a.trap 0x4A view.pc (einfoShape 3 k 0)
  | some .wait => { a with wait := true }
  | some .broken =>
    if Config.brokenRunTraps a.s.tick then a.failAt { elem := 0, cause := 0x0A, sub := 1, addr := 0, lane := 0 }
    else
      let a1 := ({ a with s := { u.s with tick := u.s.tick + 1 } } : Acc).setG gd (Config.brokenRunAddress a.s.tick)
      if ofVl then { a1 with vlOut := some (min view.vl (Config.brokenRunLength a.s.tick)) } else a1
  | none => done { a with s := u.s }

/-- What major 0x21 shares (R202): R79 does not apply; an entry that a handler resumes with ES above 0 has no effect. -/
def stitchDesc (scalars : List Source) (run : View → Acc → Acc) : Desc :=
  { scalars := scalars, ownLength := true, trims := false, run := fun _ view a => if view.es ≠ 0 then a else run view a }

/-- `xpin gd, [ga]` (R204). -/
def xpinDesc (f : FmtV) : Desc :=
  stitchDesc [(f.va, f.sa, 0)] (fun view a =>
    let (h, u1) := (UnitRun.start a.s).header view.opa.toNat
    let (r, u2) := u1.slot h h.curslot
    let u3 := if r.pins = 65535 then u2.fail 0x0E 1 h.va else u2
    let u4 := u3.commit [(h.slotAt h.curslot + 4, leBytes 2 (r.pins + 1))]
    a.unit view f.vd false u4 (fun a => a.setG f.vd (handleOf h h.curslot)))

/-- `xunpin gh` (R205). -/
def xunpinDesc (f : FmtV) : Desc :=
  stitchDesc [(f.va, f.sa, 0)] (fun view a =>
    let (h, s, r, u1) := (UnitRun.start a.s).handle view.opa
    let live := if r.pins = 1 ∧ s ≠ h.curslot then [(h.va + 0x25, leBytes 1 (h.live - 2 ^ s))] else []
    a.unit view 0 false (u1.commit ((h.slotAt s + 4, leBytes 2 (r.pins - 1)) :: live)) id)

/-- `xlen gd, gh` (R205). -/
def xlenDesc (f : FmtV) : Desc :=
  stitchDesc [(f.va, f.sa, 0)] (fun view a =>
    let (_, _, r, u1) := (UnitRun.start a.s).handle view.opa
    a.unit view f.vd false u1 (fun a => a.setG f.vd (BitVec.ofNat 64 r.length)))

/-- `xrun gd, gh, gi` (R206): a queued VL writer. -/
def xrunDesc (f : FmtV) : Desc :=
  stitchDesc [(f.va, f.sa, 0), (f.vb, f.sb, 1)] (fun view a =>
    let x := view.opb.toNat
    let (h, s, r, u1) := (UnitRun.start a.s).handle view.opa
    if u1.stop.isNone ∧ r.length ≤ x then
      a.unit view f.vd true u1 (fun a => { a.setG f.vd 0 with vlOut := some 0 })
    else
      let (p, u2) := u1.find h s r x
      a.unit view f.vd true u2 (fun a =>
        match p with
        | some p =>
          { a.setG f.vd (BitVec.ofNat 64 (p.entry.base + 2 ^ h.esz * (x - p.start))) with vlOut := some (min view.vl (p.stop - x)) }
        | none => a))

/-- `xsplice gd, [ga], gb` (R207, R208). -/
def xspliceDesc (f : FmtV) : Desc :=
  stitchDesc [(f.va, f.sa, 0), (f.vb, f.sb, 1)] (fun view a =>
    let (h, u1) := (UnitRun.start a.s).header view.opa.toNat
    let (pos, rem, ins, u2) := if u1.stop.isSome then (0, 0, [], u1) else u1.descriptor h view.opb.toNat
    let u3 := if u2.stop.isSome then u2 else u2.splice h pos rem ins
    let u4 := if u3.stop = some .broken then { u3 with s := u3.undefine h.va } else u3
    a.unit view f.vd false u4 (fun a => a.setG f.vd (BitVec.ofNat 64 (h.cur + 1))))

/-- `xreap gd, [ga], gb` (R209): a queued VL writer. Under VL = 0 it does nothing. TRC.lane of its trim record is 0: R209 gives none (log
entry 21). DESIGN CHOICE (log entry 71): where exactly the f entries that f lets through are reapable, f counts as what cut the loop, and the
trim is recorded. -/
def xreapDesc (f : FmtV) : Desc :=
  stitchDesc [(f.va, f.sa, 0), (f.vb, f.sb, 1)] (fun view a =>
    let out := view.opb.toNat
    if view.vl = 0 then a
    else
      let (h, u1) := (UnitRun.start a.s).header view.opa.toNat
      let (c, why, u2) := if u1.stop.isSome then (0, none, u1) else u1.outputs out view.vl 0
      let u3 := match why with
        | some x => if c = 0 then u2.halt (.cause x) else u2
        | none => u2
      let (versions, u4) := u3.versions h (List.range 8)
      let (full, u5) := u4.list h h.cap h.head
      let (keep, gone) := reapFrom versions c full
      let n := gone.length
      let u6 := if u5.stop.isSome then u5 else u5.commit (reapWrites h out keep gone)
      let u7 := if u6.stop = some .broken then { u6 with s := u6.undefine h.va } else u6
      a.unit view f.vd true u7 (fun a =>
        let a1 : Acc := { a.setG f.vd (BitVec.ofNat 64 n) with vlOut := some n }
        match why with
        | some x => if n = c then a1.mod (fun t => { t with
            trc := trcOf { elem := n, cause := x.cause, sub := x.sub, addr := x.addr, lane := 0 } n view.seq
            tra := BitVec.ofNat 64 x.addr }) else a1
        | none => a1))

end Sys2Proof.Machine
end

