-- ==== Sys2Proof/Machine/Sealed.lean ====
section
/-!
DEFINITION. Sealed key-value records, major 0x23 (R213 to R217): kseal and kopen, and their completion by the security engine.
-/
namespace Sys2Proof.Machine

/-- The dispatch of a sealed operation (R214): the request block, its fields, the barrier; its retirement hands it over. -/
def sealRun (opens : Bool) (view : View) (a : Acc) : Acc :=
  let (bs, a1) := a.readRecord view 0 true view.opa.toNat 64 64 Need.both
  let desc := view.opb.toNat
  let bar := BitVec.ofNat 6 desc
  if !a1.ok then a1
  else if fieldAt bs (if opens then 0x24 else 0x20) (if opens then 0x14 else 0x18) ≠ 0 ∨ desc / 64 ≠ 0 ∨
      (!opens && !decide (1 ≤ fieldAt bs 16 8 ∧ fieldAt bs 16 8 ≤ 256)) then
    a1.trap 0x4A view.pc (einfoShape 3 3 0)
  else
    match a1.s.landingReason (desc % 64) with
    | some r => a1.trap 0x4B view.pc (einfoBarrier bar r)
    | none =>
      if a1.s.expectedOver bar 1 then a1.trap 0x4B view.pc (einfoBarrier bar 9)
      else
        let t := a1.s.cur
        { a1 with hand := .sealed { num := 0, opens := opens, team := t.team, lthread := t.lthread, crew := a1.s.crew, bar := bar
                                    part := t.part.toNat, ptb := t.ptb, key := t.keydef.toNat, user := t.user, block := view.opa, req := bs } }

/-- What kseal and kopen share (R202, R214): VL does not concern them; an entry resumed with ES above 0 has no effect. -/
def sealDesc (opens : Bool) (f : FmtV) : Desc :=
  { scalars := [(f.va, f.sa, 0), (f.vb, f.sb, 1)]
    ownLength := true
    trims := false
    run := fun _ view a => if view.es ≠ 0 then a else sealRun opens view a }

/-- `kseal [ga], gb` (R214, R215). -/
def ksealDesc (f : FmtV) : Desc := sealDesc false f

/-- `kopen [ga], gb` (R214, R216). -/
def kopenDesc (f : FmtV) : Desc := sealDesc true f

/-! ## The security engine -/

/-- The session of a partition (R370). -/
def State.session (s : State) (part : Nat) : Option Session := s.sessions.find? (fun x => x.part == part)

/-- How a sealed operation ends: its status code (R217) and, for code 2, the failing address; or that it must wait for a copy that comes before
it (R62, R279). -/
structure Sealing where
  code : Nat
  fault : Option Nat
  waits : Bool := false
  deriving DecidableEq, Repr

/-- The code of an operation that the unit ended (R217). R217 names none for a handle, a header or a list that cannot be used: a free
value other than 0 (log entry 12). `splicing` is true where a condition of R208 may be what failed. -/
def sealStop (splicing : Bool) (tick : Nat) : UnitStop → Sealing
  | .cause c =>
    if c.cause = 0x07 then { code := 4, fault := none }
    else if c.cause = 0x0A ∨ c.cause = 0x0E then { code := if splicing then 5 else 1 + Config.sealCode tick % 5, fault := none }
    else { code := 2, fault := some c.addr }
  | .wait => { code := 0, fault := none, waits := true }
  | _ => { code := 1 + Config.sealCode tick % 5, fault := none }

/-- An operation of the engine, under the translation of its issuer. -/
def SealOp.start (o : SealOp) (s : State) : UnitRun :=
  { s := s, c := { part := o.part, ptb := o.ptb, key := o.key, user := o.user }, core := false, issuer := some (o.team, o.lthread, o.num)
    stop := none }

/-- Reads and hashes pieces of (address, bytes). -/
def UnitRun.hashes (u : UnitRun) : List (Nat × Nat) → List (List Byte) × UnitRun
  | [] => ([], u)
  | p :: ps =>
    let (bs, u1) := u.read p.1 p.2
    if u1.stop.isSome then ([], u1)
    else
      let (rest, u2) := UnitRun.hashes u1 ps
      (sha3 bs :: rest, u2)

/-- The bytes of a sealed record up to its signature (R213): the lengths and digests of its pieces. -/
def recordBody (k : Session) (pieces : List (Nat × List Byte)) : List Byte :=
  leBytes 2 1 ++ leBytes 2 0 ++ leBytes 4 pieces.length ++ sized 8 k.tenant ++ sized 32 k.model ++ sized 32 k.wdigest ++ leBytes 16 0 ++
    pieces.flatMap (fun p => leBytes 4 p.1 ++ leBytes 4 0 ++ sized 32 p.2)

/-- kseal (R215): the record is written, or nothing is. -/
def SealOp.seal (o : SealOp) (s : State) : Sealing × State :=
  match s.session o.part with
  | none => ({ code := 3, fault := none }, s)
  | some k =>
    let n := fieldAt o.req 16 8
    let (h, _, r, u1) := (o.start s).handle (BitVec.ofNat 64 (fieldAt o.req 0 8))
    let (full, u2) := u1.list h h.cap h.head
    let run := ((piecesOf r.version 0 full).dropWhile (fun p => p.start != fieldAt o.req 8 8)).take n
    let u3 := if run.length = n then u2 else u2.halt .broken
    let (digests, u4) := if u3.stop.isSome then ([], u3) else u3.hashes (run.map (fun p => (p.entry.base, p.entry.len * 2 ^ h.esz)))
    let body := recordBody k ((run.map (fun p => p.entry.len)).zip digests)
    let sig := MlDsa.sign k.privateKey body (Config.signRandom s.tick)
    let u5 := if u4.stop.isSome then u4 else u4.commit [(fieldAt o.req 24 8, body ++ sig)]
    match u5.stop with
    | some x => (sealStop false s.tick x, u5.s.tock)
    | none => ({ code := 0, fault := none }, u5.s.tock)

/-- Whether a record's form and fields agree with a session (R216): its fixed part, its table of n pieces, its signature. -/
def recordAccepted (k : Session) (n : Nat) (fixed table sig : List Byte) : Bool :=
  fieldAt fixed 0 2 == 1 && fieldAt fixed 2 2 == 0 && fieldAt fixed 0x50 16 == 0 &&
    (List.range n).all (fun i => fieldAt table (40 * i + 4) 4 == 0) &&
    (fixed.drop 8).take 8 == sized 8 k.tenant && (fixed.drop 0x10).take 32 == sized 32 k.model &&
    (fixed.drop 0x30).take 32 == sized 32 k.wdigest && MlDsa.verify k.publicKey (fixed ++ table) sig

/-- kopen (R216): the pieces are spliced in and `ver` written, or nothing is spliced. The doubleword of `ver` is checked before the splice, so
that an access fault there leaves the tensor alone (R217). -/
def SealOp.open_ (o : SealOp) (s : State) : Sealing × State :=
  let stopped := fun (splicing : Bool) (u : UnitRun) (x : UnitStop) => (sealStop splicing s.tick x, u.s.tock)
  match s.session o.part with
  | none => ({ code := 3, fault := none }, s)
  | some k =>
    let (h, u1) := (o.start s).header (fieldAt o.req 0 8)
    let at_ := fieldAt o.req 16 8
    let (fixed, u2) := u1.read at_ 0x60
    let n := fieldAt fixed 4 4
    match u2.stop with
    | some x => stopped false u2 x
    | none =>
      if n < 1 ∨ 256 < n then ({ code := 1, fault := none }, u2.s)
      else
        let (table, u3) := u2.read (at_ + 0x60) (40 * n)
        let (sig, u4) := u3.read (at_ + 0x60 + 40 * n) 2420
        let (bases, u5) := u4.read (fieldAt o.req 24 8) (8 * n)
        let base := fun i => fieldAt bases (8 * i) 8
        let len := fun i => lengthOf (fieldAt table (40 * i) 4)
        match u5.stop with
        | some x => stopped false u5 x
        | none =>
          if !recordAccepted k n fixed table sig then ({ code := 1, fault := none }, u5.s)
          else
            let (digests, u6) := u5.hashes ((List.range n).map (fun i => (base i, len i * 2 ^ h.esz)))
            match u6.stop with
            | some x => stopped false u6 x
            | none =>
              if digests ≠ (List.range n).map (fun i => (table.drop (40 * i + 8)).take 32) then ({ code := 1, fault := none }, u6.s)
              else if (List.range n).any (fun i => base i % 2 ^ h.esz != 0) then stopped false u6 (.shape 3)
              else
                let ver := o.block.toNat + 0x20
                let u7 := (u6.reach ver 4 Need.store).2
                match u7.stop with
                | some x => stopped false u7 x
                | none =>
                  let u8 := u7.splice h (fieldAt o.req 8 8) 0 ((List.range n).map (fun i => { base := base i, len := len i, share := 1 }))
                  match u8.stop with
                  | some .broken => stopped false { u8 with s := u8.undefine h.va } .broken
                  | some x => stopped true u8 x
                  | none =>
                    let u9 := u8.commit [(ver, leBytes 4 (h.cur + 1))]
                    match u9.stop with
                    | some x => stopped false u9 x
                    | none => ({ code := 0, fault := none }, u9.s.tock)

/-- A status code lands (R214, R267): one count; the first code that is not 0 stays. -/
def Barrier.landStatus (b : Barrier) (code : Nat) : Barrier :=
  { b with landed := b.landed + 1, svalid := true, code := if b.code = 0 then BitVec.ofNat 8 code else b.code }

/-- A status code lands on the operation's barrier, and the operation is over (R214). -/
def State.landSeal (s : State) (o : SealOp) (code : Nat) : State :=
  { s with barriers := onBarrier o.team o.crew o.bar (fun b => b.landStatus code) s.barriers, seals := s.seals.filter (fun x => x.num != o.num) }

/-- The engine runs an operation to its end (R214, R217): `fault`, the landing, the status code; none where an access must wait for a copy that
comes before it. DESIGN CHOICE (log entry 40): where `fault` itself lies on a page that the engine cannot write, the code lands alone. -/
def State.endSeal (s : State) (o : SealOp) : Option State :=
  let (r, s1) := if o.opens then o.open_ s else o.seal s
  if r.waits then none
  else
    match r.fault with
    | none => some (s1.landSeal o r.code)
    | some a =>
      let u := (o.start s1).commit [(o.block.toNat + 0x38, leBytes 8 a)]
      if u.stop = some .wait then none else some (u.s.landSeal o r.code)

/-- KSEAL_COMPLETION (R215, R217). -/
def execKsealCompletion (op : Nat) (s : State) : Out :=
  match s.seals.find? (fun o => o.num == op && !o.opens) with
  | some o => .next ((s.endSeal o).getD s)
  | none => .next s

/-- KOPEN_COMPLETION (R216, R217). -/
def execKopenCompletion (op : Nat) (s : State) : Out :=
  match s.seals.find? (fun o => o.num == op && o.opens) with
  | some o => .next ((s.endSeal o).getD s)
  | none => .next s

end Sys2Proof.Machine
end

