-- ==== Sys2Proof/Machine/Sparse.lean ====
section
/-!
DEFINITION. Sparse and irregular instructions, major 0x35 (R180 to R186).
-/
namespace Sys2Proof.Machine

/-! ## Grouping by key -/

/-- Inserts an index before the first whose key is larger: earlier indices of equal key stay in front (R182). -/
def insertByKey (key : Nat → Int) (i : Nat) : List Nat → List Nat
  | [] => [i]
  | j :: js => if key i < key j then i :: j :: js else j :: insertByKey key i js

/-- A stable sort of indices by key (R182). -/
def sortByKey (key : Nat → Int) (l : List Nat) : List Nat := l.foldl (fun acc i => insertByKey key i acc) []

/-- `vgroup vd, pd, va` (R182): the active indices stably sorted by key, and the heads of the runs of equal keys. DESIGN CHOICE (log entry 70):
for a key with a register-file error, which R90 says poisons the affected elements of the destination, that is the element that receives its
index, and the record names the key's own element. -/
def vgroupDesc (f : FmtV) : Desc :=
  { typeOk := typeIn (fun c => isInt c && 16 ≤ typeWidth c)
    align := groupsOf [(f.va, 0), (f.vd, 2)]
    pipes := [.p]
    sources := fun view t => [sourceOf f.sa 0 f.va view.width view t]
    dst := fun view t => destOf f.vd view.width view t
    segs := fun view _ => segMask (predField f.vb) view.es view.vl
    early := fun _ => true
    allFalse := noneActive f
    run := fun v view a =>
      let t := a.s.cur
      let w := view.width
      let key := fun i => intOf (vtType view.vt) (t.elem f.va.toNat w i)
      let sorted := sortByKey key (activeList t f.guard f.gneg view.es v)
      let step := fun (x : Acc × Option Nat) (k : Nat × Nat) =>
        let (i, r) := k
        let a1 := x.1.setElem f.vd.toNat w (view.es + r) i
        let a2 := a1.setPred (predField f.vb) (view.es + r) (match x.2 with | none => true | some j => key i != key j)
        let a3 := if t.elemBad f.va.toNat w i then (a2.poisonElem f.vd.toNat w (view.es + r)).defer view w i else a2
        (a3, some i)
      let (a1, _) := sorted.zipIdx.foldl step (a, none)
      (List.range (v - (view.es + sorted.length))).foldl (fun a k => a.setPred (predField f.vb) (view.es + sorted.length + k) false) a1 }

/-! ## Intersecting two streams -/

/-- How far an intersection has come: the positions of the streams and the last keys consumed (R183). -/
structure Merge where
  posA : Nat
  posB : Nat
  lastA : Option Int
  lastB : Option Int
  deriving DecidableEq, Repr

/-- The steps of vxsect from step i on (R183), n of them at most. The third result is the step at which an input ran out. -/
def xsectSteps (f : FmtV) (view : View) : Nat → Nat → Merge → Acc → Acc × Merge × Option Nat
  | 0, _, m, a => (a, m, none)
  | n + 1, i, m, a =>
    let qa := f.va.toNat
    let qb := f.vb.toNat
    let ty := vtType view.vt
    if a.s.streamCount (a.s.cur.qread qa) ≤ m.posA ∨ a.s.streamCount (a.s.cur.qread qb) ≤ m.posB then (a, m, some i)
    else
      match a.streamElem view qa i m.posA with
      | (none, a1) => (a1, m, none)
      | (some x, a1) =>
        match a1.streamElem view qb i m.posB with
        | (none, a2) => (a2, m, none)
        | (some y, a2) =>
          let xb := (fromMemory ty (vtMem view.vt) 0 x).1
          let yb := (fromMemory ty (vtMem view.vt) 0 y).1
          let ka := intOf ty xb
          let kb := intOf ty yb
          if m.lastA.any (fun l => decide (ka ≤ l)) then (a2.failElem view.width i 0x0A 0, m, none)
          else if m.lastB.any (fun l => decide (kb ≤ l)) then (a2.failElem view.width i 0x0A 1, m, none)
          else
            let m' : Merge := { posA := if ka ≤ kb then m.posA + 1 else m.posA, posB := if kb ≤ ka then m.posB + 1 else m.posB
                                lastA := if ka ≤ kb then some ka else m.lastA, lastB := if kb ≤ ka then some kb else m.lastB }
            let a3 := if i < view.es then a2
              else (a2.setElem f.vd.toNat view.width i (if ka ≤ kb then xb else yb)).setPred f.guard i (ka == kb)
            xsectSteps f view n (i + 1) m' a3

/-- `vxsect vd, pd, qa, qb` (R183): a queued VL writer. -/
def vxsectDesc (f : FmtV) : Desc :=
  { typeOk := typeIn isInt
    align := groupsOf [(f.vd, 2)]
    pipes := [.p]
    dst := fun view t => destOf f.vd view.width view t
    segs := fun view _ => segMask f.guard view.es view.vl
    below := true
    empty := fun _ view a => streamChecks [f.va.toNat, f.vb.toNat] view a
    run := fun v view a =>
      let a0 := streamChecks [f.va.toNat, f.vb.toNat] view a
      if !a0.ok then a0
      else
        let pa := (a0.s.cur.qread f.va.toNat).pos
        let pb := (a0.s.cur.qread f.vb.toNat).pos
        let (a1, m, out) := xsectSteps f view v 0 { posA := pa, posB := pb, lastA := none, lastB := none } a0
        if !a1.ok then a1
        else { (a1.advance f.va.toNat (m.posA - pa)).advance f.vb.toNat (m.posB - pb) with vlOut := some (out.getD v), ended := out } }

/-! ## Walking the merge path -/

/-- A merge descriptor (R184). -/
structure MergePath where
  ends : Nat
  nrow : Nat
  nnz : Nat
  deriving DecidableEq, Repr

/-- Reads the descriptor and makes the checks of R184. -/
def mergeDescriptor (view : View) (a : Acc) : MergePath × Acc :=
  let lane := a.s.laneOf view.width view.es
  let (bs, a1) := a.readRecord view lane true view.opa.toNat 32 32
  let m : MergePath := { ends := fieldAt bs 0 8, nrow := fieldAt bs 8 8, nnz := fieldAt bs 16 8 }
  if !a1.ok then (m, a1)
  else if 2 ^ 48 ≤ m.nrow + m.nnz ∨ vtHasMem view.vt ∨ fieldAt bs 24 8 ≠ 0 then (m, a1.trap 0x4A view.pc (einfoShape 3 3 0))
  else if m.ends % (view.width / 8) ≠ 0 then
    (m, a1.failAt { elem := view.es, cause := 0x04, sub := 0, addr := m.ends, lane := lane })
  else (m, a1)

/-- Entry x of the row ends, read once per issue for step i (R185): `known` holds the entries read. -/
def readEnd (m : MergePath) (view : View) (i x : Nat) (a : Acc) (known : List (Nat × Nat)) : Option Nat × Acc × List (Nat × Nat) :=
  match known.find? (fun k => k.1 == x) with
  | some k => (some k.2, a, known)
  | none =>
    let n := view.width / 8
    let (r, s1) := a.s.reachElem a.s.cur.ctx oobPlain ((m.ends + n * x : Nat) : Int) n Need.load
    let a1 := ({ a with s := s1 } : Acc).accept view i [r] []
    if !a1.ok then (none, a1, known)
    else
      let a2 := a1.effective a1.s.cur.ctx false [r]
      let e := leNat (a2.read r.pa n)
      (some e, a2, (x, e) :: known)

/-- The search for the row at diagonal d (R185); each pass halves the range, so 64 passes do. -/
def mergeSearch (m : MergePath) (view : View) (d : Nat) : Nat → Nat → Nat → Nat → Nat → Acc → List (Nat × Nat) → Nat × Nat × Acc × List (Nat × Nat)
  | 0, lo, _, lov, _, a, known => (lo, lov, a, known)
  | fuel + 1, lo, hi, lov, hiv, a, known =>
    if hi ≤ lo then (lo, lov, a, known)
    else
      let mid := (lo + hi) / 2
      match readEnd m view 0 mid a known with
      | (none, a1, known1) => (lo, lov, a1, known1)
      | (some e, a1, known1) =>
        if e < lov ∨ hiv < e then (lo, lov, a1.failElem view.width 0 0x0A 3, known1)
        else if mid + e < d then mergeSearch m view d fuel (mid + 1) hi e hiv a1 known1
        else mergeSearch m view d fuel lo mid lov e a1 known1

/-- The steps of vmerge from step i at diagonal d on (R185), n of them at most, with x rows ended and y non-zeros consumed; `last` is the
last row end. The second result is the step at which the path ended. -/
def mergeSteps (f : FmtV) (m : MergePath) (view : View) : Nat → Nat → Nat → Nat → Nat → Nat → Acc → List (Nat × Nat) → Acc × Option Nat
  | 0, _, _, _, _, _, a, _ => (a, none)
  | n + 1, i, d, x, y, last, a, known =>
    if m.nrow + m.nnz ≤ d then (a, some i)
    else
      let write := fun (a : Acc) (k : Nat) (b : Bool) =>
        if i < view.es then a else (a.setElem f.vd.toNat view.width i k).setPred f.guard i b
      if m.nrow ≤ x then (a.failElem view.width i 0x0A 3, none)
      else
        match readEnd m view i x a known with
        | (none, a1, _) => (a1, none)
        | (some e, a1, known1) =>
          if e < last ∨ m.nnz < e then (a1.failElem view.width i 0x0A 3, none)
          else if e ≤ y then mergeSteps f m view n (i + 1) (d + 1) (x + 1) y e (write a1 x true) known1
          else mergeSteps f m view n (i + 1) (d + 1) x (y + 1) last (write a1 y false) known1

/-- `vmerge vd, pd, [ga], gb` (R184, R185): a queued VL writer. -/
def vmergeDesc (f : FmtV) : Desc :=
  { typeOk := typeIn (fun c => c == 0x02 || c == 0x03)
    align := groupsOf [(f.vd, 2)]
    scalars := [(f.va, f.sa, 0), (f.vb, f.sb, 1)]
    pipes := [.p]
    dst := fun view t => destOf f.vd view.width view t
    segs := fun view _ => segMask f.guard view.es view.vl
    below := true
    empty := fun _ view a => (mergeDescriptor view a).2
    run := fun v view a =>
      let (m, a1) := mergeDescriptor view a
      if !a1.ok then a1
      else
        let d := view.opb.toNat
        let (x, last, a2, known) := mergeSearch m view d 64 (d - m.nnz) (min d m.nrow) 0 m.nnz a1 []
        if !a2.ok then a2
        else
          let (a3, out) := mergeSteps f m view v 0 d x (d - x) last a2 known
          if !a3.ok then a3 else { a3 with vlOut := some (out.getD v), ended := out } }

/-! ## Segmented reductions -/

/-- The running values of a segmented scan (R186): `start` says that a segment begins, `acc` is its value so far. -/
def segmentChain (first : Nat → FRes) (op : Nat → Nat → FRes) (ends : Nat → Bool) : Bool → Nat → List Node → List Node × Raised
  | _, _, [] => ([], [])
  | start, acc, x :: xs =>
    let (v, fl) := if start then first x.1 else op acc x.1
    let (vs, rs) := segmentChain first op ends (ends x.2) v xs
    ((v, x.2) :: vs, (x.2, fl) :: rs)

/-- A segment's first value (R186): unchanged, but a signalling NaN becomes canonical and raises NV. -/
def segmentFirst (ty x : Nat) : FRes :=
  if isFloat ty ∧ (floatOf ty x).sig ≠ 0 then ((fmtOf ty).nan, flagNV) else (x, 0)

/-- A segmented reduction (R186); pe is read as it was before the instruction. A register-file error in an element fails it, or after
the trim point poisons the rest of its segment (R90). -/
def segmentDesc (f : FmtV) (op : ElemOp) : Desc :=
  { typeOk := typeIn isNumeric
    align := groupsOf [(f.va, 0), (f.vd, 2)]
    pipes := [.p]
    sources := fun view t => [sourceOf f.sa 0 f.va view.width view t]
    dst := fun view t => destOf f.vd view.width view t
    flagged := fun vt => isFloat (vtType vt)
    early := Thread.trimsAtDispatch
    allFalse := noneActive f
    run := fun v view a =>
      let t := a.s.cur
      let w := view.width
      let ty := vtType view.vt
      let ends := fun i => (t.pread (predField f.vb)).getLsbD i
      let l := activeList t f.guard f.gneg view.es v
      match l.find? (fun i => t.elemBad f.va.toNat w i), t.trimsAtDispatch with
      | some i, false => a.failElem w i 0x07 0
      | _, _ =>
        let (vs, fl) := segmentChain (segmentFirst ty) (stepOf op ty t.rm) ends true 0 (l.map (fun i => (t.elem f.va.toNat w i, i)))
        let a1 := a.raiseAll w fl
        if !a1.ok then a1
        else
          (vs.foldl (fun (x : Acc × Bool) n =>
            let hit := x.2 || t.elemBad f.va.toNat w n.2
            let a2 := x.1.setElem f.vd.toNat w n.2 n.1
            let a3 := if hit then (if t.elemBad f.va.toNat w n.2 then a2.defer view w n.2 else a2).poisonElem f.vd.toNat w n.2 else a2
            (a3, hit && !ends n.2)) (a1, false)).1 }

/-- `vsegsum vd, va, pe` (R186). -/
def vsegsumDesc (f : FmtV) : Desc := segmentDesc f vAddOp

/-- `vsegmax vd, va, pe` (R186). -/
def vsegmaxDesc (f : FmtV) : Desc := segmentDesc f vMaxOp

/-- `vsegmin vd, va, pe` (R186). -/
def vsegminDesc (f : FmtV) : Desc := segmentDesc f vMinOp

end Sys2Proof.Machine
end

