-- ==== Sys2Proof/Machine/Tree.lean ====
section
/-!
DEFINITION. Descending a tree-structured layer, major 0x37 (R218 to R229).
-/
namespace Sys2Proof.Machine

/-- A path-trace register by number, modulo 4. -/
def Thread.kread (t : Thread) (k : Nat) : BitVec 8192 := t.k[k % 4]'(Nat.mod_lt _ (by decide))

/-- Entry i of a path-trace register (R221). -/
def Thread.trace (t : Thread) (k i : Nat) : Nat := ((t.kread k).extractLsb' (32 * (i % 256)) 32).toNat

/-- Writes entry i of a path-trace register, and its DIRTY bit (R307). -/
def Acc.setTrace (a : Acc) (k i x : Nat) : Acc :=
  { a.mod (fun t => { t with k := t.k.set (k % 4) (setField (t.kread k) (32 * (i % 256)) 32 x) (Nat.mod_lt _ (by decide)) }) with
    dirty := a.dirty ||| BitVec.ofNat 64 (2 ^ (40 + k % 4)) }

/-- The path of a path-trace entry (R221). -/
def tracePath (x : Nat) : Nat := bitsOf x 23 0

/-- The steps that a path-trace entry has recorded (R221). -/
def traceLen (x : Nat) : Nat := bitsOf x 28 24

/-- A path-trace entry (R221). -/
def makeTrace (path len : Nat) : Nat := path % 2 ^ 24 + 2 ^ 24 * (len % 32)

/-- A tree record (R219). -/
structure Tree where
  wbase : Nat
  bbase : Nat
  xbase : Nat
  xstride : Int
  nstride : Int
  d : Nat
  depth : Nat
  fmt : Nat
  deriving DecidableEq, Repr

/-- The record that 64 bytes hold. -/
def treeOf (bs : List Byte) : Tree :=
  { wbase := fieldAt bs 0 8, bbase := fieldAt bs 8 8, xbase := fieldAt bs 16 8, xstride := signedOf 64 (fieldAt bs 24 8)
    nstride := signedOf 64 (fieldAt bs 32 8), d := fieldAt bs 40 2, depth := fieldAt bs 42 1, fmt := fieldAt bs 43 1 }

/-- The order number of the first of R223's checks 3 and 4 that fails. -/
def Tree.check (r : Tree) (bs : List Byte) : Option Nat :=
  if (bs.drop 0x2C).any (fun b => b != 0) || r.d % 32 != 0 || r.d < 32 || 16384 < r.d || 24 < r.depth || (r.fmt != 0x09 && r.fmt != 0x0C) ||
      2 ^ 56 ≤ r.wbase || 2 ^ 56 ≤ r.bbase || 2 ^ 56 ≤ r.xbase then some 3
  else
    let unit : Int := if r.fmt = 0x09 then 2 else 34
    if r.xstride % unit ≠ 0 ∨ r.nstride % unit ≠ 0 then some 4 else none

/-- lvl(n) (R218). -/
def levelOfNode (n : Nat) : Nat := Nat.log2 (n + 1)

/-- Reads one span for vdesc: its causes, where 0x03 is one at every position (R224), or its bytes. -/
def Acc.treeRead (a : Acc) (rs : List Reach) : List Cand × List Byte × Acc :=
  let cands := rs.flatMap (fun r => r.cands ++ (if r.ns then [{ cause := 0x03, sub := 0, addr := r.va }] else []))
  if cands.any (fun c => a.s.copyHeals c rs) then ([], [], { a with wait := true })
  else if !cands.isEmpty then (cands, [], a)
  else if rs.any (fun r => a.s.copyMeets r.pa r.size false) then ([], [], { a with wait := true })
  else let a1 := a.effective a.s.cur.ctx false rs; ([], rs.flatMap (fun r => a1.read r.pa r.size), a1)

/-- Values read: bf16 numbers, or exact b8 codes with their exponents, and for each c the causes that its value gives. -/
structure Operand where
  halves : List FVal
  codes : List (Int × Nat)
  cands : List (List Cand)
  deriving Repr

/-- Reads the d values of a node or a row at `va` (R220): bf16 one by one, from the c-th on. -/
def readHalves (va : Int) : Nat → Nat → Acc → Operand × Acc
  | 0, _, a => ({ halves := [], codes := [], cands := [] }, a)
  | n + 1, c, a =>
    let (r, s1) := a.s.reachElem a.s.cur.ctx oobPlain (va + (2 * c : Nat)) 2 Need.load
    let (cands, bs, a1) := ({ a with s := s1 } : Acc).treeRead [r]
    let (rest, a2) := readHalves va n (c + 1) a1
    ({ halves := decodeF (fmtOf 0x09) (leNat bs) :: rest.halves, codes := [], cands := cands :: rest.cands }, a2)

/-- Reads n stored b8 blocks from the b-th on (R220, R224): a reserved code, as every code under an exponent of 0xFF is, is cause 0x05,
subcode 3; the block itself is reached at its first code. -/
def readBlocks (va : Int) : Nat → Nat → Acc → Operand × Acc
  | 0, _, a => ({ halves := [], codes := [], cands := [] }, a)
  | n + 1, b, a =>
    let at_ := va + (34 * b : Nat)
    let (rs, s1) := a.s.reachBlock a.s.cur.ctx at_ 0x0C Need.load
    let (cands, bs, a1) := ({ a with s := s1 } : Acc).treeRead rs
    let vals := (List.range 32).map (fun k => codeValue 0x0C (storedCode 0x0C bs k) (fieldAt bs 0 2))
    let each := if bs.isEmpty then cands :: List.replicate 31 []
      else vals.map (fun v => if v.isSome then [] else [{ cause := 0x05, sub := 3, addr := addrOf at_ }])
    let (rest, a2) := readBlocks va n (b + 1) a1
    ({ halves := [], codes := vals.filterMap id ++ rest.codes, cands := each ++ rest.cands }, a2)

/-- Reads the d values of a node or a row. -/
def Tree.values (r : Tree) (va : Int) (a : Acc) : Operand × Acc :=
  if r.fmt = 0x09 then readHalves va r.d 0 a else readBlocks va (r.d / 32) 0 a

/-- What a node gives to all of its rows (R225): weights, bias, and the causes of reading the bias. -/
structure NodeData where
  node : Nat
  weights : Operand
  bias : Nat
  biasCands : List Cand
  deriving Repr

/-- The causes of a row in the order of R224: weight c and value c in turn, the bias last. -/
def NodeData.causes (d : NodeData) (x : Operand) : List Cand := (List.zipWith (· ++ ·) d.weights.cands x.cands).flatten ++ d.biasCands

/-- The data of a node, read once in one vdesc (R225). -/
def Tree.nodeData (r : Tree) (n : Nat) (a : Acc) (known : List NodeData) : NodeData × Acc × List NodeData :=
  match known.find? (fun x => x.node == n) with
  | some x => (x, a, known)
  | none =>
    let (w, a1) := r.values (r.wbase + r.nstride * n) a
    let (q, s1) := a1.s.reachElem a1.s.cur.ctx oobPlain ((r.bbase + 4 * n : Nat) : Int) 4 Need.load
    let (cands, bs, a2) := ({ a1 with s := s1 } : Acc).treeRead [q]
    let x : NodeData := { node := n, weights := w, bias := leNat bs, biasCands := cands }
    (x, a2, known ++ [x])

/-- s = fl(S + b, RNE) with its flags (R224): the exact sum of the products, special cases as in mmah (R137). -/
def Tree.score (r : Tree) (w x : Operand) (bias : Nat) : FRes :=
  if r.fmt = 0x09 then
    let sum := (w.halves.zip x.halves).foldl (fun (h : HalfSum) p => h.add p.1 p.2)
      { nan := false, nv := false, pos := false, neg := false, sum := 0, allNegZero := true }
    let (s, nv) := sum.value
    let (y, fl) := accumulate bias s
    (y, nv ||| fl)
  else
    accumulate bias (exactValue ((w.codes.zip x.codes).foldl (fun (s : Int) p => s + p.1.1 * p.2.1 * (2 ^ (p.1.2 + p.2.2) : Nat)) 0) (-264))

/-- Whether an f32 is above zero: a NaN and a zero are not (R224). -/
def aboveZero (x : Nat) : Bool := match decodeF f32 x with | .num false m _ => m != 0 | .inf false => true | _ => false

/-- One row of vdesc (R224). DESIGN CHOICE (log entry 42): a row whose node is out of range, or whose vn element holds an error, fails for that
before any of its accesses is made, though R85 ranks a cause of an access higher. -/
def descendRow (f : FmtV) (r : Tree) (i : Nat) (a : Acc) (known : List NodeData) : Acc × List NodeData :=
  let t := a.s.cur
  let k := f.fnx.toNat
  let n := t.elem f.vd.toNat 32 i
  let tr := t.trace k i
  let inner := decide (levelOfNode n < r.depth)
  if t.elemBad f.vd.toNat 32 i then (a.failElem 32 i 0x07 0, known)
  else if 2 ^ (r.depth + 1) - 2 < n ∨ (inner ∧ traceLen tr = 24) then (a.failElem 32 i 0x0A 2, known)
  else
    let (node, a1, known1) := r.nodeData n a known
    let (x, a2) := r.values (r.xbase + r.xstride * i) a1
    match firstCand (node.causes x) with
    | some c => (if a2.wait then a2 else a2.failElem 32 i c.cause c.sub c.addr, known1)
    | none =>
      if !a2.ok then (a2, known1)
      else
        let (s, fl) := r.score node.weights x node.bias
        let a3 := a2.flagFail 32 i [fl]
        if !a3.ok then (a3, known1)
        else
          let a4 := a3.setElem f.va.toNat 32 i s
          if !inner then (a4, known1)
          else
            let dir := if aboveZero s then 1 else 0
            ((a4.setElem f.vd.toNat 32 i (2 * n + 1 + dir)).setTrace k i
              (makeTrace (tracePath tr + dir * 2 ^ traceLen tr) (traceLen tr + 1)), known1)

/-- What the instructions of major 0x37 share (R222): VT.type is z32 with a group of one register. -/
def treeBase (f : FmtV) (scalars : List Source) (pipes : List Pipe) (dst : View → Thread → BitVec 256) (run : Nat → View → Acc → Acc) : Desc :=
  { typeOk := typeSingle (fun c => c == 0x02), scalars := scalars, pipes := pipes, dst := dst, allFalse := noneActive f, run := run }

/-- Reads the tree record and makes the checks of R223. -/
def treeRecord (view : View) (a : Acc) : Tree × Acc :=
  let (bs, a1) := a.readRecord view (a.s.laneOf 32 view.es) false view.opa.toNat 64 64
  let r := treeOf bs
  if !a1.ok then (r, a1)
  else match r.check bs with
    | some order => (r, a1.trap 0x4A view.pc (einfoShape 3 order 0))
    | none => (r, a1)

/-- The first active row fails (R226): a leading failure, also where inactive rows lie below it (DEDUCED, log entry 60). -/
def Acc.leading (a : Acc) (view : View) (first : Option Nat) : Acc :=
  { a with fail := a.fail.map (fun k => if first = some k.elem then { k with elem := view.es } else k) }

/-- `vdesc vn, vs, [gb]` (R223 to R226). With nothing to do it still checks its record (R34, R79). -/
def vdescDesc (f : FmtV) : Desc :=
  { treeBase f [(f.vb, f.sb, 1)] [.l, .x] (fun view t => destOf f.vd 32 view t ||| destOf f.va 32 view t)
      (fun v view a =>
        let (r, a1) := treeRecord view a
        if !a1.ok then a1
        else
          let rows := activeList a1.s.cur f.guard f.gneg view.es v
          ((Acc.walk (descendRow f r) rows a1 []).1).leading view rows.head?) with
    empty := fun _ view a => (treeRecord view a).2 }

/-- The node at level L of a trace that began at the root (R227). -/
def nodeAt (path l : Nat) : Nat :=
  2 ^ l - 1 + ((List.range l).map (fun k => path / 2 ^ k % 2 * 2 ^ (l - 1 - k))).foldl (· + ·) 0

/-- `vpnode vd, k, gb` (R227). -/
def vpnodeDesc (f : FmtV) : Desc :=
  treeBase f [(f.vb, f.sb, 1)] [.p] (fun view t => destOf f.vd 32 view t)
    (fun v view a => forActive f.guard f.gneg v view (fun i a =>
      let tr := a.s.cur.trace f.va.toNat i
      if traceLen tr < view.opa.toNat then a.failElem 32 i 0x0A 1
      else a.setElem f.vd.toNat 32 i (nodeAt (tracePath tr) view.opa.toNat)) a)

/-- `vpget vd, k` (R228). -/
def vpgetDesc (f : FmtV) : Desc :=
  { treeBase f [] [.p] (fun view t => destOf f.vd 32 view t)
      (fun v view a => forActive f.guard f.gneg v view (fun i a => a.setElem f.vd.toNat 32 i (a.s.cur.trace f.va.toNat i)) a) with
    early := fun _ => true }

/-- `vpclr k` (R228). -/
def vpclrDesc (f : FmtV) : Desc :=
  { treeBase f [] [.p] (fun _ _ => 0)
      (fun v view a => forActive f.guard f.gneg v view (fun i a => a.setTrace f.va.toNat i 0) a) with
    early := fun _ => true }

end Sys2Proof.Machine
end

