-- ==== Sys2Proof/Machine/VectorAtomics.lean ====
section
/-!
DEFINITION. Vector atomics, major 0x33 (R251, R260, R261).
-/
namespace Sys2Proof.Machine

/-- A trap deferred to the retirement of an entry, with its record in TRC format (R90, R251); the lowest element's stands. -/
def Acc.deferTrap (a : Acc) (view : View) (i : Nat) (cause : BitVec 8) (sub va : Nat) : Acc :=
  match a.deferred with
  | some _ => a
  | none =>
    let record := trcOf { elem := i, cause := cause, sub := sub, addr := va, lane := a.s.laneOf view.width i } i view.seq
    { a with deferred := some { cause := cause, addr := BitVec.ofNat 64 va, info := record } }

/-- The address of element i (R261): index elements are unsigned words. -/
def atomicPlace (f : FmtV) (view : View) (t : Thread) (i : Nat) : Int :=
  (view.opa.toNat + view.width / 8 * t.elem f.vb.toNat 32 i : Nat)

/-- Checks element i before the trim point (R261): R153 and R155, without the error of the location itself. -/
def atomicCheck (f : FmtV) (view : View) (i : Nat) (a : Acc) (rs : List (Nat × Reach)) : Acc × List (Nat × Reach) :=
  let t := a.s.cur
  let (r, s1) := a.s.reachElem t.ctx oobIndexed (atomicPlace f view t i) (view.width / 8) Need.both
  let r' := { r with cands := r.cands.filter (fun c => c.cause != 0x07) }
  let bad := if t.elemBad f.vb.toNat 32 i || t.elemBad f.vd.toNat view.width i then [{ cause := 0x07, sub := 0, addr := 0 }] else []
  let a1 := ({ a with s := s1 } : Acc).accept view i [r'] bad
  (a1, if a1.ok then rs ++ [(i, r')] else rs)

/-- Element i at its home (R251, R261): a size conflict or an error in the location leaves the location as it is and defers a trap;
otherwise one indivisible update. -/
def atomicApply (f : FmtV) (fetch : Bool) (op : ElemOp) (view : View) (a : Acc) (x : Nat × Reach) : Acc :=
  let (i, r) := x
  let w := view.width
  let n := w / 8
  let a1 := a.effective a.s.cur.ctx true [r]
  if a1.s.sizeTrap r.pa n then a1.deferTrap view i 0x4C 0 r.va
  else if a1.s.poisoned r.pa n then
    let a2 := a1.deferTrap view i 0x07 (a1.s.errorTier r.pa) r.va
    if fetch then a2.poisonElem f.vd.toNat w i else a2
  else
    let d := a1.s.cur.elem f.vd.toNat w i
    let rm := a1.s.cur.rm
    let (old, s2) := a1.s.strongUpdate r.pa n (fun m => some (op (vtType view.vt) rm 0 m d).1)
    let a2 := ({ a1 with s := s2 } : Acc).note i (op (vtType view.vt) rm 0 old d).2
    if fetch then a2.setElem f.vd.toNat w i old else a2

/-- The type check of a vector atomic (R260): its class, no memory type, an index group of at most 8. -/
def atomicTypes (ok : Nat → Bool) (vt : BitVec 13) : Bool :=
  typeIn ok vt && !vtHasMem (vt.extractLsb' 0 12) && decide (indexGroup (vt.extractLsb' 0 12) 32 ≤ 8)

/-- A vector atomic (R260, R261). -/
def atomicDesc (f : FmtV) (fetch : Bool) (ok : Nat → Bool) (op : ElemOp) : Desc :=
  { typeOk := atomicTypes ok
    align := fun _ vt => [(f.vb.toNat, indexGroup vt 32, 1), (f.vd.toNat, vtGroup vt, if fetch then 2 else 3)]
    scalars := [(f.va, f.sa, 0)]
    pipes := if fetch then [.s, .l] else [.s]
    sources := fun view t => [sourceOf f.sb 1 f.vb 32 view t]
    dst := fun view t => if fetch then destOf f.vd view.width view t else 0
    allFalse := noneActive f
    run := fun v view a =>
      let active := activeList a.s.cur f.guard f.gneg view.es v
      let (a1, rs) := Acc.walk (atomicCheck f view) active a []
      if a1.ok then rs.foldl (atomicApply f fetch op view) a1 else a1 }

/-- The new value of a swap (R260). -/
def vSwapOp : ElemOp := fun _ _ _ _ b => (b, 0)

/-- `vamo.add vd, [ga, vb]` (R260, R261). -/
def vamoAddDesc (f : FmtV) : Desc := atomicDesc f false isNumeric vAddOp

/-- `vamo.min vd, [ga, vb]` (R260, R261). -/
def vamoMinDesc (f : FmtV) : Desc := atomicDesc f false isNumeric vMinOp

/-- `vamo.max vd, [ga, vb]` (R260, R261). -/
def vamoMaxDesc (f : FmtV) : Desc := atomicDesc f false isNumeric vMaxOp

/-- `vamo.and vd, [ga, vb]` (R260, R261). -/
def vamoAndDesc (f : FmtV) : Desc := atomicDesc f false isInt vAndOp

/-- `vamo.or vd, [ga, vb]` (R260, R261). -/
def vamoOrDesc (f : FmtV) : Desc := atomicDesc f false isInt vOrOp

/-- `vamo.xor vd, [ga, vb]` (R260, R261). -/
def vamoXorDesc (f : FmtV) : Desc := atomicDesc f false isInt vXorOp

/-- `vamo.swp vd, [ga, vb]` (R260, R261). -/
def vamoSwpDesc (f : FmtV) : Desc := atomicDesc f false isNumeric vSwapOp

/-- `vamof.add vd, [ga, vb]` (R260, R261). -/
def vamofAddDesc (f : FmtV) : Desc := atomicDesc f true isNumeric vAddOp

/-- `vamof.min vd, [ga, vb]` (R260, R261). -/
def vamofMinDesc (f : FmtV) : Desc := atomicDesc f true isNumeric vMinOp

/-- `vamof.max vd, [ga, vb]` (R260, R261). -/
def vamofMaxDesc (f : FmtV) : Desc := atomicDesc f true isNumeric vMaxOp

/-- `vamof.and vd, [ga, vb]` (R260, R261). -/
def vamofAndDesc (f : FmtV) : Desc := atomicDesc f true isInt vAndOp

/-- `vamof.or vd, [ga, vb]` (R260, R261). -/
def vamofOrDesc (f : FmtV) : Desc := atomicDesc f true isInt vOrOp

/-- `vamof.xor vd, [ga, vb]` (R260, R261). -/
def vamofXorDesc (f : FmtV) : Desc := atomicDesc f true isInt vXorOp

/-- `vamof.swp vd, [ga, vb]` (R260, R261). -/
def vamofSwpDesc (f : FmtV) : Desc := atomicDesc f true isNumeric vSwapOp

end Sys2Proof.Machine
end

