-- ==== Sys2Proof/Machine/Queue.lean ====
section
/-!
DEFINITION. The queue as a whole: which description each queued word has, and its progress (R17, R96, R295).
-/
namespace Sys2Proof.Machine

/-- The description of a word that is not queued. -/
def noDesc : Desc := { run := fun _ _ a => a }

/-- The instructions of major 0x1D. -/
def desc1D (w : BitVec 32) : Desc :=
  match fn4Of w with
  | 0x0 => spawnDesc (srOf w)
  | 0x4 => vclaimDesc (srOf w)
  | _ => noDesc

/-- The instructions of major 0x1F. -/
def desc1F (w : BitVec 32) : Desc :=
  vframeDesc (vfOf w)

/-- The instructions of major 0x20. -/
def desc20 (w : BitVec 32) : Desc :=
  match fn4Of w with
  | 0x0 => qbindDesc (vOf w)
  | 0x1 => qfreeDesc (vOf w)
  | 0x2 => vpopDesc (vOf w)
  | 0x3 => hldDesc (vOf w)
  | 0x4 => hstDesc (vOf w)
  | 0x5 => tcopyDesc (vOf w)
  | _ => noDesc

/-- The instructions of major 0x21. -/
def desc21 (w : BitVec 32) : Desc :=
  match fn4Of w with
  | 0x0 => xpinDesc (vOf w)
  | 0x1 => xunpinDesc (vOf w)
  | 0x2 => xrunDesc (vOf w)
  | 0x3 => xspliceDesc (vOf w)
  | 0x4 => xreapDesc (vOf w)
  | 0x5 => xlenDesc (vOf w)
  | _ => noDesc

/-- The instructions of major 0x22. -/
def desc22 (w : BitVec 32) : Desc :=
  match fn4Of w with
  | 0x0 => ringCfgDesc (vOf w)
  | 0x1 => ringPostDesc (vOf w)
  | 0x2 => qbindRingDesc (vOf w)
  | 0x3 => ringHdrDesc (vOf w)
  | 0x4 => ringDoneDesc (vOf w)
  | 0x5 => ringStatDesc (vOf w)
  | 0x6 => ringBrkDesc (vOf w)
  | _ => noDesc

/-- The instructions of major 0x23. -/
def desc23 (w : BitVec 32) : Desc :=
  match fn4Of w with
  | 0x0 => ksealDesc (vOf w)
  | 0x1 => kopenDesc (vOf w)
  | _ => noDesc

/-- The instructions of major 0x28. -/
def desc28 (w : BitVec 32) : Desc :=
  match fn4Of w with
  | 0x0 => vaddDesc (vOf w)
  | 0x1 => vsubDesc (vOf w)
  | 0x2 => vmulDesc (vOf w)
  | 0x3 => vmacDesc (vOf w)
  | 0x4 => vminDesc (vOf w)
  | 0x5 => vmaxDesc (vOf w)
  | 0x6 => vdivDesc (vOf w)
  | 0x7 => vremDesc (vOf w)
  | 0x8 => vandDesc (vOf w)
  | 0x9 => vorDesc (vOf w)
  | 0xA => vxorDesc (vOf w)
  | 0xB => vsllDesc (vOf w)
  | 0xC => vsrlDesc (vOf w)
  | 0xD => vsraDesc (vOf w)
  | 0xE => vaddsDesc (vOf w)
  | 0xF => vsubsDesc (vOf w)
  | _ => noDesc

/-- The instructions of major 0x29. -/
def desc29 (w : BitVec 32) : Desc :=
  match fn4Of w with
  | 0x0 => vsqrtDesc (vOf w)
  | 0x1 => vnmacDesc (vOf w)
  | 0x2 => vabsDesc (vOf w)
  | 0x3 => vnegDesc (vOf w)
  | 0x4 => vsgnjDesc (vOf w)
  | 0x5 => vexp2Desc (vOf w)
  | 0x6 => vlog2Desc (vOf w)
  | 0x7 => vrintDesc (vOf w)
  | 0x8 => vscaleDesc (vOf w)
  | _ => noDesc

/-- The instructions of major 0x2A. -/
def desc2A (w : BitVec 32) : Desc :=
  match fn4Of w with
  | 0x0 => vcmpEqDesc (vcOf w)
  | 0x1 => vcmpNeDesc (vcOf w)
  | 0x2 => vcmpLtDesc (vcOf w)
  | 0x3 => vcmpGeDesc (vcOf w)
  | 0x4 => vcmpLeDesc (vcOf w)
  | 0x5 => vcmpGtDesc (vcOf w)
  | 0x6 => vcmpUnDesc (vcOf w)
  | 0x7 => vcmpOrdDesc (vcOf w)
  | _ => noDesc

/-- The instructions of major 0x2B. -/
def desc2B (w : BitVec 32) : Desc :=
  match fn4Of w with
  | 0x0 => pandDesc (vpOf w)
  | 0x1 => porDesc (vpOf w)
  | 0x2 => pxorDesc (vpOf w)
  | 0x3 => pandnDesc (vpOf w)
  | 0x4 => pnotDesc (vpOf w)
  | 0x5 => psetDesc (vpOf w)
  | 0x6 => pfirstDesc (vpOf w)
  | 0x7 => pbrkbDesc (vpOf w)
  | 0x8 => pbrkaDesc (vpOf w)
  | _ => noDesc

/-- The instructions of major 0x2C. -/
def desc2C (w : BitVec 32) : Desc :=
  match fn4Of w with
  | 0x0 => vmovDesc (vOf w)
  | 0x1 => vslideupDesc (vOf w)
  | 0x2 => vslidednDesc (vOf w)
  | 0x3 => vpermDesc (vOf w)
  | 0x4 => vcompressDesc (vOf w)
  | 0x5 => vexpandDesc (vOf w)
  | 0x6 => vbcastDesc (vOf w)
  | 0x7 => vrevDesc (vOf w)
  | 0x8 => vextDesc (vOf w)
  | 0x9 => vinsDesc (vOf w)
  | _ => noDesc

/-- The instructions of major 0x2D. -/
def desc2D (w : BitVec 32) : Desc :=
  match fn4Of w with
  | 0x0 => vredOsumDesc (vOf w)
  | 0x1 => vredSumDesc (vOf w)
  | 0x2 => vredMaxDesc (vOf w)
  | 0x3 => vredMinDesc (vOf w)
  | 0x4 => vredAndDesc (vOf w)
  | 0x5 => vredOrDesc (vOf w)
  | 0x6 => vredXorDesc (vOf w)
  | 0x7 => vscanSumDesc (vOf w)
  | 0x8 => vscanMaxDesc (vOf w)
  | 0x9 => vscanMinDesc (vOf w)
  | 0xA => vredGsumDesc (vOf w)
  | _ => noDesc

/-- The instructions of major 0x2E. -/
def desc2E (w : BitVec 32) : Desc :=
  match fn4Of w with
  | 0x0 => vcvtDesc (vOf w)
  | 0x1 => vcvtRtzDesc (vOf w)
  | 0x2 => vcvtSatDesc (vOf w)
  | 0x3 => vcvtfDesc (vOf w)
  | 0x4 => vpopcDesc (vOf w)
  | 0x5 => vfirstDesc (vOf w)
  | 0x6 => vfrompDesc (vOf w)
  | 0x7 => vtopDesc (vOf w)
  | _ => noDesc

/-- The instructions of major 0x2F. -/
def desc2F (w : BitVec 32) : Desc :=
  match fn4Of w with
  | 0x0 => vaddVsDesc (vOf w)
  | 0x1 => vsubVsDesc (vOf w)
  | 0x2 => vmulVsDesc (vOf w)
  | 0x3 => vmacVsDesc (vOf w)
  | 0x4 => vminVsDesc (vOf w)
  | 0x5 => vmaxVsDesc (vOf w)
  | 0x6 => vdivVsDesc (vOf w)
  | 0x8 => vandVsDesc (vOf w)
  | 0x9 => vorVsDesc (vOf w)
  | 0xA => vxorVsDesc (vOf w)
  | 0xB => vsllVsDesc (vOf w)
  | 0xC => vsrlVsDesc (vOf w)
  | 0xD => vsraVsDesc (vOf w)
  | 0xE => vaddsVsDesc (vOf w)
  | 0xF => vsubsVsDesc (vOf w)
  | _ => noDesc

/-- The instructions of major 0x30. -/
def desc30 (w : BitVec 32) : Desc :=
  match fn4Of w with
  | 0x0 => vldDesc (vOf w)
  | 0x1 => vldsDesc (vOf w)
  | 0x2 => vldtDesc (vOf w)
  | 0x8 => vldseg2Desc (vOf w)
  | 0x9 => vldseg3Desc (vOf w)
  | 0xA => vldseg4Desc (vOf w)
  | 0xB => vldseg5Desc (vOf w)
  | 0xC => vldseg6Desc (vOf w)
  | 0xD => vldseg7Desc (vOf w)
  | 0xE => vldseg8Desc (vOf w)
  | _ => noDesc

/-- The instructions of major 0x31. -/
def desc31 (w : BitVec 32) : Desc :=
  match fn4Of w with
  | 0x0 => vstDesc (vOf w)
  | 0x1 => vstsDesc (vOf w)
  | 0x2 => vsttDesc (vOf w)
  | 0x8 => vstseg2Desc (vOf w)
  | 0x9 => vstseg3Desc (vOf w)
  | 0xA => vstseg4Desc (vOf w)
  | 0xB => vstseg5Desc (vOf w)
  | 0xC => vstseg6Desc (vOf w)
  | 0xD => vstseg7Desc (vOf w)
  | 0xE => vstseg8Desc (vOf w)
  | _ => noDesc

/-- The instructions of major 0x32. -/
def desc32 (w : BitVec 32) : Desc :=
  match fn4Of w with
  | 0x0 => vgather32Desc (vOf w)
  | 0x1 => vgather64Desc (vOf w)
  | 0x2 => vgatherX32Desc (vOf w)
  | 0x3 => vgatherX64Desc (vOf w)
  | 0x8 => vscatter32Desc (vOf w)
  | 0x9 => vscatter64Desc (vOf w)
  | 0xA => vscatterX32Desc (vOf w)
  | 0xB => vscatterX64Desc (vOf w)
  | _ => noDesc

/-- The instructions of major 0x33. -/
def desc33 (w : BitVec 32) : Desc :=
  match fn4Of w with
  | 0x0 => vamoAddDesc (vOf w)
  | 0x1 => vamoMinDesc (vOf w)
  | 0x2 => vamoMaxDesc (vOf w)
  | 0x3 => vamoAndDesc (vOf w)
  | 0x4 => vamoOrDesc (vOf w)
  | 0x5 => vamoXorDesc (vOf w)
  | 0x6 => vamoSwpDesc (vOf w)
  | 0x8 => vamofAddDesc (vOf w)
  | 0x9 => vamofMinDesc (vOf w)
  | 0xA => vamofMaxDesc (vOf w)
  | 0xB => vamofAndDesc (vOf w)
  | 0xC => vamofOrDesc (vOf w)
  | 0xD => vamofXorDesc (vOf w)
  | 0xE => vamofSwpDesc (vOf w)
  | _ => noDesc

/-- The instructions of major 0x34. -/
def desc34 (w : BitVec 32) : Desc :=
  match fn4Of w with
  | 0x0 => mmabDesc (vOf w)
  | 0x1 => mmahDesc (vOf w)
  | 0x2 => mzeroDesc (vOf w)
  | 0x3 => vwmacDesc (vOf w)
  | 0x4 => vbnormDesc (vOf w)
  | 0x5 => vbexpF32Desc (vOf w)
  | 0x6 => vbexpGetDesc (vOf w)
  | 0x7 => vbexpSetDesc (vOf w)
  | _ => noDesc

/-- The instructions of major 0x35. -/
def desc35 (w : BitVec 32) : Desc :=
  match fn4Of w with
  | 0x0 => vgroupDesc (vOf w)
  | 0x1 => vxsectDesc (vOf w)
  | 0x2 => vmergeDesc (vOf w)
  | 0x3 => vsegsumDesc (vOf w)
  | 0x4 => vsegmaxDesc (vOf w)
  | 0x5 => vsegminDesc (vOf w)
  | _ => noDesc

/-- The instructions of major 0x36. -/
def desc36 (w : BitVec 32) : Desc :=
  match fn4Of w with
  | 0x0 => tconDesc (vOf w)
  | _ => noDesc

/-- The instructions of major 0x37. -/
def desc37 (w : BitVec 32) : Desc :=
  match fn4Of w with
  | 0x0 => vdescDesc (vdescOf w)
  | 0x1 => vdescDesc (vdescOf w)
  | 0x2 => vdescDesc (vdescOf w)
  | 0x3 => vdescDesc (vdescOf w)
  | 0x4 => vpnodeDesc (vOf w)
  | 0x5 => vpgetDesc (vOf w)
  | 0x6 => vpclrDesc (vOf w)
  | _ => noDesc

/-- The description of a queued word (R33). -/
def descOf (w : BitVec 32) : Desc :=
  match majorOf w with
  | 0x1D => desc1D w
  | 0x1F => desc1F w
  | 0x20 => desc20 w
  | 0x21 => desc21 w
  | 0x22 => desc22 w
  | 0x23 => desc23 w
  | 0x28 => desc28 w
  | 0x29 => desc29 w
  | 0x2A => desc2A w
  | 0x2B => desc2B w
  | 0x2C => desc2C w
  | 0x2D => desc2D w
  | 0x2E => desc2E w
  | 0x2F => desc2F w
  | 0x30 => desc30 w
  | 0x31 => desc31 w
  | 0x32 => desc32 w
  | 0x33 => desc33 w
  | 0x34 => desc34 w
  | 0x35 => desc35 w
  | 0x36 => desc36 w
  | 0x37 => desc37 w
  | _ => noDesc

/-- Works the current thread's queue as far as it goes, where the pace says so (log entry 7); what is left over goes on later. -/
def State.work (s : State) : State :=
  match s.pace with
  | .eager => State.settle descOf 256 s
  | .decoupled => s

/-- A queued word at its issue (R17): it is pushed, waits or traps. -/
def issue (w : BitVec 32) (s : State) : Out :=
  match s.push descOf (descOf w) w with
  | .trap s' => .next s'
  | .wait => .next s
  | .done s' => .next s'.work

/-- ENTRY_DISPATCH (R36, R48, R96): what heads the queue dispatches, if it can. -/
def execEntryDispatch (s : State) : Out := .next ((s.dispatchOne descOf 0).getD s)

/-- ENTRY_RETIRE (R36, R90, R91): the oldest dispatched entry retires. -/
def execEntryRetire (s : State) : Out := .next (s.retireOne.getD s)

end Sys2Proof.Machine
end

