-- ==== Sys2Proof/Machine/Special.lean ====
section
/-!
DEFINITION. The special registers (R66 to R69, R72, R73, R78, R304 to R307, R331), mfs and mts, and the configuration instructions
vsetl, vsett and vsetes (R80 to R82).
-/
namespace Sys2Proof.Machine

/-- The entry that VCP names: inside a started frame it is the member that is still being processed, the oldest in the order of their
iterations; else the one that the frame has reached, or the vframe entry where the frame has not begun or is past its last iteration (R18, R78,
R96, R100). -/
def Thread.vcpEntry (t : Thread) : Option Entry :=
  match t.named with
  | none => none
  | some e =>
    if isFrame e.word then
      let pos := bitsOf e.opb.toNat 35 32
      let members := ((t.queue.dropWhile (fun x => x.seq != e.seq)).drop 1).take (frameCount e.word)
      let next := if e.isDone ∨ (bitsOf e.opb.toNat 31 0 = 0 ∧ pos = 0 ∧ !e.held) then e else members.getD pos e
      some (((members.drop pos ++ members.take pos).find? Entry.isRunning).getD next)
    else some e

/-- The element group that VCP shows of an entry (R18, R78): the one that a dispatched entry has reached, else the one that holds its ES. -/
def Entry.groupReached (e : Entry) (es : Nat) : Nat :=
  match e.phase with
  | .done r => min r.reached (r.limit - 1)
  | .unstarted => match e.running with
    | some r => if r.reached < r.limit then r.reached else (destGroup e.word e.vt es).2
    | none => (destGroup e.word e.vt es).2

/-- VCP (R78): sequence number, slot, element group reached, busy. -/
def Thread.vcp (t : Thread) : Word :=
  match t.vcpEntry with
  | none => 0
  | some e =>
    let es := if e.held ∨ t.released ≠ 0 ∨ topLevel t.queue = 0 then t.es.toNat else 0
    BitVec.ofNat 64 (e.seq.toNat + 2 ^ 16 * e.slot.toNat + 2 ^ 24 * (e.groupReached es % 64) + 2 ^ 32)

/-- MODE (R306). -/
def Thread.mode (t : Thread) : Word :=
  BitVec.ofNat 64 ((if t.priv then 1 else 0) + (if t.ppriv then 2 else 0) + (if t.busy then 4 else 0))

/-- PART (R307). -/
def Thread.partReg (t : Thread) : Word := BitVec.ofNat 64 (t.part.toNat + 256 * t.colour.toNat)

/-- ROWP in program order (R69, R92): an older entry past its trim point that will write it at its retirement (R149) decides. -/
def Thread.rowpNow (t : Thread) : BitVec 16 :=
  t.pending.foldl (fun x e => match e.phase with | .done r => r.rowp.getD x | .unstarted => x) t.rowp

/-- The bits of EINFO that its layout under a cause names (R49, R60, R268, R269, R291, R311); the others are reserved and read as 0 (R8). A
cause that both queued and scalar instructions raise has the layout that ECAUSE.queued and ECAUSE.deferred tell. -/
def einfoBits (ecause : BitVec 10) : Word :=
  let word : Word := 0x0000FFFFFFFFFF3F
  let scalar : Word := 0xFF1F
  let either : Word := if ecause.extractLsb' 8 2 = 0 then scalar else BitVec.allOnes 64
  match (ecause.extractLsb' 0 8).toNat with
  | 0x40 => word
  | 0x41 => word
  | 0x42 => word
  | 0x43 => word
  | 0x44 => word
  | 0x45 => word
  | 0x48 => word
  | 0x07 => either
  | 0x0D => either
  | 0x4C => either
  | 0x47 => scalar
  | 0x4D => scalar
  | 0x4E => scalar
  | 0x49 => 0x7
  | 0x4A => 0xFFFF3F
  | 0x4B => 0xFF3F
  | 0x4F => 0x3FCFF
  | _ => BitVec.allOnes 64

/-- What mfs reads of a special register (R67, R305); none where the number names no register. CYC is a free value (R13). -/
def State.special (s : State) (n : Nat) : Option Word :=
  let t := s.cur
  match n with
  | 0x000 => some (t.vl.zeroExtend 64)
  | 0x001 => some (t.vt.zeroExtend 64)
  | 0x002 => some (BitVec.ofNat 64 t.vlmax)
  | 0x003 => some (t.es.zeroExtend 64)
  | 0x004 => some t.trc
  | 0x005 => some t.tra
  | 0x006 => some (t.rowpNow.zeroExtend 64)
  | 0x007 => some (t.trl.zeroExtend 64)
  | 0x008 => some t.vcp
  | 0x010 => some (t.fflags.zeroExtend 64)
  | 0x011 => some (t.fen.zeroExtend 64)
  | 0x012 => some (t.frm.zeroExtend 64)
  | 0x018 => some (t.fx[0].zeroExtend 64)
  | 0x019 => some (t.fx[1].zeroExtend 64)
  | 0x01A => some (t.fx[2].zeroExtend 64)
  | 0x01B => some (t.fx[3].zeroExtend 64)
  | 0x01C => some (t.fx[4].zeroExtend 64)
  | 0x020 => some (BitVec.ofNat 64 (s.qland t.q[0]))
  | 0x021 => some (BitVec.ofNat 64 (s.qland t.q[1]))
  | 0x022 => some (BitVec.ofNat 64 (s.qland t.q[2]))
  | 0x023 => some (BitVec.ofNat 64 (s.qland t.q[3]))
  | 0x024 => some (BitVec.ofNat 64 (s.qland t.q[4]))
  | 0x025 => some (BitVec.ofNat 64 (s.qland t.q[5]))
  | 0x026 => some (BitVec.ofNat 64 (s.qland t.q[6]))
  | 0x027 => some (BitVec.ofNat 64 (s.qland t.q[7]))
  | 0x030 => some (Config.cycleCount s.tick)
  | 0x031 => some t.moved
  | 0x032 => some (t.amode.zeroExtend 64)
  | 0x400 => some t.tvec
  | 0x401 => some t.epc
  | 0x402 => some (t.ecause.zeroExtend 64)
  | 0x403 => some t.eaddr
  | 0x404 => some (t.einfo &&& einfoBits t.ecause)
  | 0x405 => some t.mode
  | 0x406 => some t.ptb
  | 0x407 => some t.partReg
  | 0x408 => some (t.keydef.zeroExtend 64)
  | 0x409 => some t.dirty
  | 0x40A => some t.hsave0
  | 0x40B => some t.hsave1
  | _ => none

/-- Whether an mfs of a register has what it waits for (R69). -/
def Thread.readReady (t : Thread) (n : Nat) : Bool :=
  match n with
  | 0x000 => t.trimPointsPassed
  | 0x004 => t.trimPointsPassed
  | 0x005 => t.trimPointsPassed
  | 0x006 => t.trimPointsPassed
  | 0x010 => t.drained
  | 0x018 => t.drained
  | 0x019 => t.drained
  | 0x01A => t.drained
  | 0x01B => t.drained
  | 0x01C => t.drained
  | _ => true

/-- Whether a number names a register that nothing may write: VLMAX, VCP, QLAND, CYC, MOVED, AMODE and PART (R67, R305). -/
def readOnly (n : Nat) : Bool :=
  n == 0x002 || n == 0x008 || (0x020 ≤ n && n ≤ 0x027) || n == 0x030 || n == 0x031 || n == 0x032 || n == 0x407

/-- The write of a special register that has no constructor of its own; reserved bits are ignored (R8, R68, R78, R104, R306,
R307). -/
def Thread.setSpecial (t : Thread) (n : Nat) (x : Word) : Thread :=
  match n with
  | 0x004 => { t with trc := x }
  | 0x005 => { t with tra := x }
  | 0x006 => { t with rowp := x.setWidth 16 }
  | 0x007 => { t with trl := x.setWidth 16 }
  | 0x010 => { t with fflags := x.setWidth 5 }
  | 0x011 => { t with fen := x.setWidth 5 }
  | 0x012 => if 5 ≤ (x.extractLsb' 0 3).toNat then t else { t with frm := x.extractLsb' 0 3 }
  | 0x018 => { t with fx := t.fx.set 0 (x.setWidth 17) }
  | 0x019 => { t with fx := t.fx.set 1 (x.setWidth 17) }
  | 0x01A => { t with fx := t.fx.set 2 (x.setWidth 17) }
  | 0x01B => { t with fx := t.fx.set 3 (x.setWidth 17) }
  | 0x01C => { t with fx := t.fx.set 4 (x.setWidth 17) }
  | 0x400 => { t with tvec := x &&& 0x00FFFFFFFFFFFFFC }
  | 0x401 => { t with epc := x &&& 0x00FFFFFFFFFFFFFC }
  | 0x402 => { t with ecause := x.setWidth 10 }
  | 0x403 => { t with eaddr := x }
  | 0x404 => { t with einfo := x }
  | 0x405 => { t with ppriv := x.getLsbD 1, busy := x.getLsbD 2 }
  | 0x406 => { t with ptb := x }
  | 0x408 => { t with keydef := x.setWidth 12 }
  | 0x40A => { t with hsave0 := x }
  | 0x40B => { t with hsave1 := x }
  | _ => t

/-- VL := min(x, VLMAX) by a scalar write (R80); older entries keep what they captured, and a trim among them no longer reaches the
entries pushed after it (R87). -/
def Thread.setVl (t : Thread) (x : Word) : Thread :=
  { t with vl := BitVec.ofNat 16 (min x.toNat t.vlmax), epoch := t.epoch + 1 }

/-- The effect of vsett (R81): an accepted value becomes VT; another sets ILL and keeps its other bits. VL := VLMAX. -/
def Thread.setVt (t : Thread) (x : Word) : Thread :=
  let vt : BitVec 13 := (if vtAccepted t.vlen x then 0#1 else 1#1) ++ x.extractLsb' 0 12
  let t' := { t with vt := vt }
  { t' with vl := BitVec.ofNat 16 t'.vlmax, epoch := t.epoch + 1 }

/-- The effect of vsetes (R82): where VCP names a held entry, its ES becomes min(x, its effective VL). -/
def Thread.setEs (t : Thread) (x : Word) : Thread :=
  match t.vcpEntry with
  | some e => if e.held then { t with es := BitVec.ofNat 16 (min x.toNat e.vl) } else t
  | none => t

/-- `mfs` (R66 to R69): in user mode a number of 0x400 or above is privileged; a number that names no register is illegal. The
register's value, zero-extended, is written once its wait is over. -/
def execMfs (f : FmtSI) (s : State) : Out :=
  let n := f.imm.toNat
  if s.cur.user && 0x400 ≤ n then .next (s.wordTrap 0x45)
  else
    match s.special n with
    | none => .next (s.wordTrap 0x40)
    | some x =>
      s.scalar false [] [f.gd] (fun s =>
        if !s.cur.readReady n then s
        else
          let s' := if n = 0x030 then { s with tick := s.tick + 1 } else s
          s'.mod (fun t => (t.gwrite f.gd x).next))

/-- The checks of an mts on its register number (R47, R66): 0x45 in user mode for 0x400 and above and for ES, then 0x40 for a number
that names no register and for a read-only one. -/
def mtsCause (s : State) (n : Nat) : Option (BitVec 8) :=
  if s.cur.user && (0x400 ≤ n || n == 0x003) then some 0x45
  else if (s.special n).isNone || readOnly n then some 0x40
  else none

/-- An mts: its number's checks, the scalar checks, the wait of R69 where the register has one, the write. -/
def mtsWith (n : Nat) (waits : Bool) (f : FmtSI) (write : Thread → Word → Thread) (s : State) : Out :=
  match mtsCause s n with
  | some c => .next (s.wordTrap c)
  | none =>
    s.scalar false [(f.ga, f.sa, 0)] [] (fun s =>
      if waits && !s.cur.drained then s else s.mod (fun t => (write t (t.gread f.ga)).next))

/-- `mts` of a register other than VL, VT, ES and DIRTY (R66, R69): it waits until every older entry has retired. -/
def execMts (f : FmtSI) (s : State) : Out := mtsWith f.imm.toNat true f (fun t x => t.setSpecial f.imm.toNat x) s

/-- `mts VL` (R67): the effect of vsetl, without a result. -/
def execMtsVl (f : FmtSI) (s : State) : Out := mtsWith 0x000 false f Thread.setVl s

/-- `mts VT` (R73): the effect of vsett, without a result. -/
def execMtsVt (f : FmtSI) (s : State) : Out := mtsWith 0x001 false f Thread.setVt s

/-- `mts ES` (R82): the effect of vsetes. -/
def execMtsEs (f : FmtSI) (s : State) : Out := mtsWith 0x003 true f Thread.setEs s

/-- `mts DIRTY` (R307): a bit written as 1 is cleared. -/
def execMtsDirty (f : FmtSI) (s : State) : Out :=
  mtsWith 0x409 true f (fun t x => { t with dirty := t.dirty &&& ~~~x }) s

/-- `vsetl` (R80): VL := min(g(ga), VLMAX); g(gd) := VL. -/
def execVsetl (f : FmtSR) (s : State) : Out :=
  s.scalar false [(f.ga, f.sa, 0)] [f.gd] (fun s => s.mod (fun t =>
    let t' := t.setVl (t.gread f.ga)
    (t'.gwrite f.gd (t'.vl.zeroExtend 64)).next))

/-- `vsett` (R81): sets VT, VLMAX and VL from g(ga); g(gd) := VLMAX. It never traps on its value. -/
def execVsett (f : FmtSR) (s : State) : Out :=
  s.scalar false [(f.ga, f.sa, 0)] [f.gd] (fun s => s.mod (fun t =>
    let t' := t.setVt (t.gread f.ga)
    (t'.gwrite f.gd (BitVec.ofNat 64 t'.vlmax)).next))

/-- `vsetes` (R82): privileged. -/
def execVsetes (f : FmtSR) (s : State) : Out :=
  s.scalar true [(f.ga, f.sa, 0)] [] (fun s => s.mod (fun t => (t.setEs (t.gread f.ga)).next))

end Sys2Proof.Machine
end

