-- ==== Sys2Proof/Machine/Context.lean ====
section
/-!
DEFINITION. Pre-emption (R94, R293), the context image (R329 to R334) and binding a thread to a slot (R283, R292, R293).
-/
namespace Sys2Proof.Machine

/-! ## Acting on a thread by its slot -/

/-- Lets a function of the machine act with the thread of a slot as the current one; every thread keeps its turn. -/
def State.atSlot (s : State) (slot : Nat) (f : State → State) : State :=
  if s.cur.slot = slot ∧ s.cur.status ≠ .unbound then f s
  else
    match s.others.findIdx? (fun t => t.slot == slot && t.status != .unbound) with
    | none => s
    | some i =>
      match s.others[i]? with
      | none => s
      | some t =>
        let s1 := f { s with cur := t, others := s.others.set i s.cur }
        match s1.others[i]? with
        | none => s1
        | some back => { s1 with cur := back, others := s1.others.set i s1.cur }

/-- The bound threads, the current one first. -/
def State.threads (s : State) : List Thread := (s.cur :: s.others).filter (fun t => t.status != .unbound)

/-- The threads without those that left their slots; another thread takes the place of a current one that did. -/
def State.tidy (s : State) : State :=
  let rest := s.others.filter (fun t => t.status != .unbound)
  if s.cur.status ≠ .unbound then { s with others := rest }
  else
    match rest with
    | [] => { s with cur := Thread.start, others := [] }
    | t :: ts => { s with cur := t, others := ts }

/-- The bind record of a slot (R292), if it has ever been written. -/
def State.bindOf (s : State) (slot : Nat) : Option BindRecord := s.binds.find? (fun b => b.slot == slot)

/-- Writes a bind record. -/
def setBind (b : BindRecord) (l : List BindRecord) : List BindRecord := b :: l.filter (fun x => x.slot != b.slot)

/-- Changes a slot's bind record. -/
def onBind (slot : Nat) (f : BindRecord → BindRecord) (l : List BindRecord) : List BindRecord :=
  l.map (fun b => if b.slot = slot then f b else b)

/-- Changes a team. -/
def onTeam (num : Nat) (f : Team → Team) (l : List Team) : List Team := l.map (fun t => if t.num = num then f t else t)

/-! ## What is bound together -/

/-- A launch by partition and number. -/
def State.launch (s : State) (part number : Nat) : Option Launch := s.launches.find? (fun l => l.part == part && l.number == number)

/-- The teams of a launch, in the order of its nodes. -/
def State.teamsOf (s : State) (l : Launch) : List Team := s.teams.filter (fun t => t.part == l.part && t.launch == l.number)

/-- The team that a bind record names by its number within the hub (R292). -/
def State.teamOfBind (s : State) (b : BindRecord) : Option Team := s.teams.find? (fun t => t.hub == some b.team.toNat)

/-- The teams that are bound and pre-empted together with a team, itself among them (R282, R290): the others of a co-resident graph. -/
def State.together (s : State) (t : Team) : List Team :=
  match s.launch t.part t.launch with
  | some l => if l.coresident then (s.teamsOf l).filter (fun x => !x.ended) else [t]
  | none => [t]

/-! ## Pre-emption -/

/-- Entries dispatch, each for `cut` element groups, until the thread has completed an element group in this slice or nothing is ready. -/
def State.untilProgress (cut : Nat) : Nat → State → State
  | 0, s => s
  | fuel + 1, s =>
    if s.cur.progress then s
    else match s.dispatchOne descOf cut with
      | none => s
      | some s' => State.untilProgress cut fuel (s'.retireAll 64)

/-- Pre-emption of the current thread (R94): entries past their trim point complete; an entry that has started goes on for `cut` element
groups, if `cut` is not 0; what has not started stays in the queue. A thread that has completed no element group in this slice does one
first, where an entry is ready (R95, R297). A sleeping thread wakes (R259), and one that has exited leaves its slot. -/
def State.preempt (s : State) (cut : Nat) : State :=
  if s.cur.status = .exited then s.mod (fun t => { t with status := .unbound })
  else if s.cur.status ≠ .running then s
  else
    let s1 := s.retireAll 64
    let s2 := if !s1.cur.progress then State.untilProgress (max 1 cut) 4096 s1
      else if cut = 0 then s1
      else ((s1.dispatchOne descOf cut).getD s1).retireAll 64
    s2.mod (fun t => if t.status = .running then { t with status := .leaving, asleep := none, woken := false, fetched := [], stuck := none } else t)

/-- Pre-empts every thread of a team, and of the teams bound with it, together and clears the valid bits of all their records (R290, R293);
`groups` says for each logical thread how many element groups a started entry goes on for. -/
def State.preemptTeam (s : State) (team : Team) (groups : List Nat) : State :=
  let all := s.together team
  let mine := s.threads.filter (fun t => all.any (fun x => x.num == t.team))
  let s1 := mine.foldl (fun s t => s.atSlot t.slot (fun s => s.preempt (groups.getD t.lthread 0))) s
  ({ s1 with binds := s1.binds.map (fun b => if all.any (fun x => x.hub == some b.team.toNat) then { b with valid := false } else b) } : State).tidy

/-- The team of a slot's valid bind record. -/
def State.boundTeam (s : State) (slot : Nat) : Option Team :=
  match s.bindOf slot with
  | some b => if b.valid then s.teamOfBind b else none
  | none => none

/-- SLICE_EXPIRY (R293): the slice count of a slot reaches 0, and the firmware pre-empts the whole team. -/
def execSliceExpiry (slot : Nat) (groups : List Nat) (s : State) : Out :=
  match s.boundTeam slot with
  | some t => .next (({ s with binds := onBind slot (fun b => { b with left := 0 }) s.binds } : State).preemptTeam t groups)
  | none => .next s

/-- SLOT_UNBIND (R293): the firmware clears the valid bit; it pre-empts every thread of the team together. -/
def execSlotUnbind (slot : Nat) (groups : List Nat) (s : State) : Out :=
  match s.boundTeam slot with
  | some t => .next (s.preemptTeam t groups)
  | none => .next s

/-! ## The context image -/

/-- The special registers of the image, at 0x200 + 8i (R331). -/
def imageSpecials : List Nat :=
  [0x000, 0x001, 0x004, 0x005, 0x006, 0x007, 0x010, 0x011, 0x012, 0x018, 0x019, 0x01A, 0x01B, 0x01C, 0x031, 0xFFF, 0x400, 0x401, 0x402,
   0x403, 0x404, 0x405, 0x406, 0x408, 0x409, 0x40A, 0x40B]

/-- The header (R330). -/
def Thread.imageHead (t : Thread) : List Byte :=
  leBytes 2 1 ++ leBytes 1 t.lg ++ leBytes 1 t.queue.length ++ leBytes 2 t.seq.toNat ++ leBytes 2 t.es.toNat ++ leBytes 8 t.pc.toNat ++
    leBytes 8 t.vcp.toNat ++ leBytes 1 t.hill.toNat ++ leBytes 7 0 ++ t.dlen.toList.flatMap (leBytes 1) ++ leBytes 192 0

/-- A stream register's 32 bytes (R332). -/
def State.imageStream (s : State) (q : Stream) : List Byte :=
  let r := s.ring q.engine.toNat
  let base := match q.kind with
    | .memory => q.base.toNat
    | .ring => if r.current then r.next else 2 ^ 64 - 1
    | .unbound => 0
  let kind := match q.kind with | .unbound => 0 | .memory => 1 | .ring => 2
  leBytes 8 base ++ leBytes 8 (if q.kind = .memory then q.count else 0) ++ leBytes 8 q.pos ++ leBytes 6 (s.qland q) ++
    leBytes 2 (q.vt.toNat + 4096 * kind + 16384 * q.engine.toNat)

/-- A barrier token's 4 bytes (R332). -/
def Token.image (k : Token) : List Byte := leBytes 4 (k.phase.toNat + (if k.valid then 65536 else 0))

/-- A queue entry's 32 bytes (R333). -/
def Entry.image (e : Entry) : List Byte :=
  leBytes 4 e.word.toNat ++
    leBytes 4 (e.vt.toNat + 2 ^ 12 * (e.vl % 4096) + (if e.held then 2 ^ 24 else 0) + (if e.frame then 2 ^ 25 else 0) + 2 ^ 26 * e.level.toNat) ++
    leBytes 8 e.pc.toNat ++ leBytes 8 e.opa.toNat ++ leBytes 8 e.opb.toNat

/-- Bytes 0x0000 to 0x18FF of the current thread's image (R329). EINFO is saved as it stands, since what mfs masks hangs on ECAUSE. -/
def State.imageLow (s : State) : List Byte :=
  let t := s.cur
  t.imageHead ++ (List.range 32).flatMap (fun r => leBytes 8 (t.gread (BitVec.ofNat 5 r)).toNat) ++
    imageSpecials.flatMap (fun n => leBytes 8 (if n = 0x404 then t.einfo.toNat else match s.special n with | some x => x.toNat | none => 0)) ++ leBytes 40 0 ++
    t.q.toList.flatMap s.imageStream ++ t.tokens.toList.flatMap Token.image ++ leBytes 64 0 ++
    t.h.toList.flatMap (fun h => leBytes 128 h.toNat) ++ t.p.toList.flatMap (fun p => leBytes 256 p.toNat) ++
    t.queue.flatMap Entry.image ++ leBytes (32 * (64 - t.queue.length)) 0

/-- A line of an image is accessed under a key slot (R334; log entry 4): where it was written under another one its bytes are unpredictable. -/
def State.keyLine (s : State) (key line : Nat) : State :=
  let tag : LineTag := { line := line, key := key, seen := none }
  match s.lines.find? (fun t => t.line == line) with
  | none => { s with lines := tag :: s.lines }
  | some t =>
    if t.key = key then s
    else { s.addWild (128 * line) 128 with lines := tag :: s.lines.filter (fun x => x.line != line) }

/-- The lines of a span of DRAM are accessed under a key slot. -/
def State.keyLines (s : State) (key pa n : Nat) : State :=
  if n = 0 ∨ !isDram pa then s
  else ((List.range ((pa + n - 1) / 128 - pa / 128 + 1)).map (fun i => pa / 128 + i)).foldl (fun s line => s.keyLine key line) s

/-- The physical address of an offset in an area that lies on these frames, page by page (R285). -/
def frameAt (frames : List Nat) (off : Nat) : Nat := 4096 * frames.getD (off / 4096) 0 + off % 4096

/-- Writes bytes at an offset of an area, under a key slot. -/
def State.putArea (s : State) (key : Nat) (frames : List Nat) (off : Nat) (bs : List Byte) : State :=
  (partsOf off bs.length).foldl (fun s p =>
    let pa := frameAt frames p.1
    (s.keyLines key pa p.2).put pa ((bs.drop (p.1 - off)).take p.2)) s

/-- Reads bytes at an offset of an area, under a key slot. -/
def State.readArea (s : State) (key : Nat) (frames : List Nat) (off n : Nat) : List Byte :=
  (partsOf off n).flatMap (fun p => let pa := frameAt frames p.1; (s.keyLines key pa p.2).read pa p.2)

/-- Which of n bits, in runs of `w`, are set somewhere in their run. -/
def runsSet {m : Nat} (x : BitVec m) (w n : Nat) : List Nat := (List.range n).filter (fun k => x.extractLsb' (w * k) w != 0)

/-- Writes the first `n` groups of vector register r at its place in the image, with its side-file (R334); what an error in the register
file reached is poisoned in memory too (R90, R157). -/
def State.saveVector (s : State) (key : Nat) (frames : List Nat) (r n : Nat) : State :=
  if n = 0 then s
  else
    let at_ := 0x8000 + 1024 * r
    let s1 := s.putArea key frames at_ (leBytes (128 * n) (s.cur.vread r).toNat)
    let s2 := s1.putArea key frames (0x1900 + 64 * r) (leBytes 64 (s.cur.sideRead r).toNat)
    let bad := s.cur.bad[r % 32]'(Nat.mod_lt _ (by decide))
    let sideBad := s.cur.sideBad[r % 32]'(Nat.mod_lt _ (by decide))
    let s3 := (runsSet bad 256 (4 * n)).foldl (fun s k => s.poisonBytes (frameAt frames (at_ + 32 * k)) 32) s2
    (runsSet sideBad 16 2).foldl (fun s k => s.poisonBytes (frameAt frames (0x1900 + 64 * r + 32 * k)) 32) s3

/-- Writes the current thread's image on its frames (R329, R334); every register then counts as unwritten. -/
def State.saveImage (s : State) (frames : List Nat) : State :=
  let key := s.cur.keydef.toNat
  let s1 := s.putArea key frames 0 s.imageLow
  let s2 := s1.putArea key frames 0x2100 (s.cur.k.toList.flatMap (fun k => leBytes 1024 k.toNat))
  let s3 := s2.putArea key frames 0x3100 (leBytes 0x4F00 0)
  let s4 := (List.range 32).foldl (fun s r => s.saveVector key frames r ((s.cur.dlen.toList)[r]?.getD 0)) s3
  s4.mod (fun t => { t with dlen := Vector.replicate 32 0 })

/-- The model's own marks of an entry (log entry 6). -/
def Entry.marks (e : Entry) : EntryMarks :=
  { epoch := e.epoch, seq := e.seq, trl := e.trl, lateA := e.lateA, lateB := e.lateB, dirty := e.dirty, deferred := e.deferred }

/-- The model's own marks of a thread (log entry 6). -/
def Thread.marks (t : Thread) : Marks :=
  { key := t.keydef.toNat, epoch := t.epoch, epochs := t.epochs, entries := t.queue.map Entry.marks, released := t.released, syncing := t.syncing }

/-- A list with its n-th element set, filled up where it is shorter. -/
def putNth {α : Type} (n : Nat) (x d : α) (l : List α) : List α := (l ++ List.replicate (n + 1 - l.length) d).set n x

/-- The marks of a thread that has none. -/
def Marks.none : Marks := { key := 0, epoch := 0, epochs := [], entries := [], released := 0, syncing := Option.none }

/-- Whether frames are granted to a partition as they stand, vault windows in addressed mode among them (R4, R160). -/
def State.framesUsable (s : State) (part : Nat) (frames : List Nat) : Bool :=
  frames.all (fun f => s.frameGranted part (4096 * f) 4096 && (!inAperture (4096 * f) || s.vaultOpen part (4096 * f)))

/-- The frames of a thread's image in its team's save area (R285). -/
def Team.imageFrames (t : Team) (n : Nat) : List Nat := (t.pages.drop (16 * n)).take 16

/-- The frame of a team's team block (R285). -/
def Team.blockFrame (t : Team) : List Nat := t.pages.drop (16 * t.record.threads)

/-- The value of a partition's grant of a type that it has once, by a field. -/
def State.grantField (s : State) (type part : Nat) (f : Grant → Nat) : Nat := ((s.grantsOf type part).head?.map f).getD 0

/-- PTB as the layout gives it to a partition's threads (R369, type 10). -/
def State.layoutPtb (s : State) (part : Nat) : Word := BitVec.ofNat 64 (s.grantField 10 part (·.extra))

/-- KEYDEF as the layout gives it to a partition's threads (R369, type 10). -/
def State.layoutKey (s : State) (part : Nat) : Nat := s.grantField 10 part (·.value) % 4096

/-- The translation of the hub's own accesses for a partition (R286, R299). -/
def State.layoutCtx (s : State) (part : Nat) : Ctx := { part := part, ptb := s.layoutPtb part, key := s.layoutKey part, user := false }

/-! ### The team block -/

/-- A barrier's 32 bytes in the team block (R270); their layout is a DESIGN CHOICE (log entry 43). -/
def Barrier.image (b : Barrier) : List Byte :=
  leBytes 2 b.crew ++ leBytes 1 b.num.toNat ++ leBytes 1 (b.kind.toNat + 4 * b.scope.toNat + 32 * (b.count % 8)) ++ leBytes 2 b.phase.toNat ++
    leBytes 1 b.arrivals ++ leBytes 1 ((if b.err then 1 else 0) + (if b.svalid then 2 else 0)) ++ leBytes 4 b.expected ++ leBytes 4 b.landed ++
    leBytes 1 b.code.toNat ++ leBytes 1 0 ++ leBytes 2 b.elem.toNat ++ leBytes 4 b.land ++ leBytes 8 0

/-- What a barrier's 32 bytes hold. -/
def barrierOfImage (team : Nat) (bs : List Byte) : Barrier :=
  let x := fieldAt bs 3 1
  { team := team, crew := fieldAt bs 0 2, num := BitVec.ofNat 6 (fieldAt bs 2 1), kind := BitVec.ofNat 2 x, scope := BitVec.ofNat 3 (x / 4)
    count := x / 32, phase := BitVec.ofNat 16 (fieldAt bs 4 2), arrivals := fieldAt bs 6 1, expected := fieldAt bs 8 4, landed := fieldAt bs 12 4
    err := (fieldAt bs 7 1).testBit 0, svalid := (fieldAt bs 7 1).testBit 1, code := BitVec.ofNat 8 (fieldAt bs 16 1)
    elem := BitVec.ofNat 16 (fieldAt bs 18 2), land := fieldAt bs 20 4 }

/-- The barriers that a team block holds; what a team has beyond them stays with the hub (log entry 43). -/
def blockBarriers : Nat := 127

/-- A team whose every thread is saved leaves its barrier and combiner state in its team block (R270, R285), under the partition's key slot,
which the team keeps (log entry 4). The combiner's reports are the arrivals that have reached their count. -/
def State.saveTeamBlock (s : State) (t : Team) : State :=
  let mine := s.barriers.filter (fun b => b.team == t.num)
  let held := mine.take blockBarriers
  let key := s.layoutKey t.part
  if !s.framesUsable t.part t.blockFrame then s
  else
    let s1 := s.putArea key t.blockFrame 0 (leBytes 2 1 ++ leBytes 2 held.length ++ leBytes 28 0 ++ held.flatMap Barrier.image)
    { s1 with barriers := s1.barriers.filter (fun b => b.team != t.num) ++ mine.drop blockBarriers
              teams := onTeam t.num (fun x => { x with blockKey := key }) s1.teams }

/-- A team that is bound again takes its barriers from its team block (R270), read under the key slot that it was written under. -/
def State.loadTeamBlock (s : State) (t : Team) : State :=
  let bs := s.readArea t.blockKey t.blockFrame 0 4096
  let held := (List.range (min blockBarriers (fieldAt bs 2 2))).map (fun i => barrierOfImage t.num ((bs.drop (32 + 32 * i)).take 32))
  if t.saved.any id then { s with barriers := held ++ s.barriers } else s

/-- The current thread leaves its slot (R293, R334): its image is written, on frames that are still its partition's (R4), its record says so, and
the firmware hears of it. -/
def State.saveCurrent (s : State) : State :=
  let t := s.cur
  match s.bindOf t.slot, s.team t.team with
  | some _, some x =>
    let s1 := if s.framesUsable x.part (x.imageFrames t.lthread) then s.saveImage (x.imageFrames t.lthread) else s
    let s2 := { s1.mod (fun t => { t with status := .unbound }) with
      binds := onBind t.slot (fun b => { b with saved := true }) s1.binds
      teams := onTeam t.team (fun x => { x with
        saved := putNth t.lthread true false x.saved
        lastSlot := putNth t.lthread (some t.slot) none x.lastSlot
        marks := putNth t.lthread t.marks Marks.none x.marks }) s1.teams }
    if s2.threads.any (fun y => y.team == t.team) then s2 else s2.saveTeamBlock x
  | _, _ => s

/-- Whether the current thread may be saved (R94, R179): pre-empted, every entry retired, held or unstarted, and its copies and sealed
operations landed. -/
def State.maySave (s : State) : Bool :=
  s.cur.status == .leaving && s.cur.queue.all (fun e => !e.isDone) && !s.engineBusy s.cur.team s.cur.lthread

/-- CONTEXT_SAVE (R334). -/
def execContextSave (slot : Nat) (s : State) : Out :=
  .next (s.atSlot slot (fun s => let s1 := s.retireAll 64; if s1.maySave then s1.saveCurrent else s1)).tidy

/-! ## Binding -/

/-- What a stream register's 32 bytes hold (R332); landed data is fetched again (R167). A ring's stream is restored only where the engine is
the partition's and still bound to the register (R4, R248). -/
def State.streamOf (s : State) (part : Nat) (me : Nat × Nat × Nat) (bs : List Byte) : Stream :=
  let cfg := fieldAt bs 30 2
  let engine := BitVec.ofNat 2 (cfg / 16384)
  let r := s.ring engine.toNat
  let kind : StreamKind := match bitsOf cfg 13 12 with
    | 1 => .memory
    | 2 => if r.user = some me ∧ r.part = part then .ring else .unbound
    | _ => .unbound
  if kind = .unbound then Stream.unboundReset
  else
    { kind := kind, live := kind == .memory, base := if kind = .memory then BitVec.ofNat 64 (fieldAt bs 0 8) else 0
      count := if kind = .memory then fieldAt bs 8 8 else 0, pos := fieldAt bs 16 8, vt := BitVec.ofNat 12 cfg
      landed := if kind = .memory then fieldAt bs 24 6 else 0, ahead := [], stop := none, engine := engine }

/-- What an entry's 32 bytes hold (R333), with the model's marks: every restored entry is unstarted; the oldest takes slot 0 (R78). -/
def entryOf (bs : List Byte) (i : Nat) (m : EntryMarks) : Entry :=
  let state := fieldAt bs 4 4
  { word := BitVec.ofNat 32 (fieldAt bs 0 4), pc := BitVec.ofNat 64 (fieldAt bs 8 8), seq := m.seq, slot := BitVec.ofNat 6 i
    vt := BitVec.ofNat 12 state, vl := bitsOf state 23 12, trl := m.trl, opa := BitVec.ofNat 64 (fieldAt bs 16 8)
    opb := BitVec.ofNat 64 (fieldAt bs 24 8), lateA := m.lateA, lateB := m.lateB, dirty := m.dirty, deferred := m.deferred, running := none
    level := if state.testBit 24 then BitVec.ofNat 4 (bitsOf state 29 26) else 0, frame := state.testBit 25, epoch := m.epoch, phase := .unstarted }

/-- The lane groups of a core that are in service, by number (R77). -/
def State.enabledLanes (s : State) (core : Nat) : List Nat := (List.range 8).filter (fun g => !s.units.lanesOff.contains (core, g))

/-- How many lane groups of a core are in service (R77). -/
def State.laneGroups (s : State) (core : Nat) : Nat := (s.enabledLanes core).length

/-- The pipes that a partition owns on a core (R292, R369). -/
def State.pipesOn (s : State) (part core : Nat) : BitVec 7 :=
  BitVec.ofNat 7 (((s.grantsOf 1 part).filter (fun g => decide (g.first ≤ core ∧ core < g.first + g.count))).foldl (fun m g => m ||| g.value % 128) 0)

/-- What the partition gives to a thread whenever it is bound: its number, AMODE, LLC colour (R68, R307, R369). -/
def State.partitioned (s : State) (part : Nat) (t : Thread) : Thread :=
  { t with part := BitVec.ofNat 6 part, amode := BitVec.ofNat 2 (s.grantField 9 part (·.value)), colour := BitVec.ofNat 5 (s.grantField 3 part (·.value)) }

/-- A thread at its start (R283, R305) on a core with `lg` lane groups. -/
def State.startThread (s : State) (team : Team) (lthread lg : Nat) : Thread :=
  s.partitioned team.part
    { Thread.start with
      team := team.num, lthread := lthread, lg := lg, pc := team.record.entry, g := Thread.start.g.set 1 team.record.param
      dlen := Vector.replicate 32 lg, tvec := BitVec.ofNat 64 (s.grantField 10 team.part (·.first)) &&& 0x00FFFFFFFFFFFFFC
      ptb := s.layoutPtb team.part, keydef := BitVec.ofNat 12 (s.layoutKey team.part) }

/-- A thread as its image holds it (R329 to R334); `k` are the model's marks. A sector of the image with an uncorrected error leaves its
elements bad (R157). -/
def State.restoreThread (s : State) (team : Team) (lthread : Nat) (k : Marks) : Thread :=
  let frames := team.imageFrames lthread
  let bytes := s.readArea k.key frames
  let num := fun (off n : Nat) => leNat (bytes off n)
  let word := fun (off : Nat) => BitVec.ofNat 64 (num off 8)
  let bad := fun (off : Nat) => s.poisoned (frameAt frames off) 32
  let count := min 64 (num 3 1)
  let t0 := s.partitioned team.part
    { Thread.start with
      team := team.num, lthread := lthread, lg := num 2 1, pc := word 8, seq := BitVec.ofNat 16 (num 4 2), es := BitVec.ofNat 16 (num 6 2)
      hill := BitVec.ofNat 8 (num 0x18 1), dlen := Vector.replicate 32 0
      g := Vector.ofFn (fun i : Fin 32 => if i.val = 0 then 0 else word (0x100 + 8 * i.val))
      q := Vector.ofFn (fun i : Fin 8 => s.streamOf team.part (team.num, lthread, i.val) (bytes (0x300 + 32 * i.val) 32))
      tokens := Vector.ofFn (fun i : Fin 48 => let x := num (0x400 + 4 * i.val) 4; { phase := BitVec.ofNat 16 x, valid := x.testBit 16 })
      h := Vector.ofFn (fun i : Fin 8 => BitVec.ofNat 1024 (num (0x500 + 128 * i.val) 128))
      p := Vector.ofFn (fun i : Fin 8 => if i.val = 0 then 0 else BitVec.ofNat 2048 (num (0x900 + 256 * i.val) 256))
      side := Vector.ofFn (fun i : Fin 32 => BitVec.ofNat 512 (num (0x1900 + 64 * i.val) 64))
      sideBad := Vector.ofFn (fun i : Fin 32 => BitVec.ofNat 32 (((List.range 2).map (fun c =>
        if bad (0x1900 + 64 * i.val + 32 * c) then (2 ^ 16 - 1) * 2 ^ (16 * c) else 0)).foldl (· + ·) 0))
      k := Vector.ofFn (fun i : Fin 4 => BitVec.ofNat 8192 (num (0x2100 + 1024 * i.val) 1024))
      v := Vector.ofFn (fun i : Fin 32 => BitVec.ofNat 8192 (num (0x8000 + 1024 * i.val) 1024))
      bad := Vector.ofFn (fun i : Fin 32 => BitVec.ofNat 8192 (((List.range 32).map (fun c =>
        if bad (0x8000 + 1024 * i.val + 32 * c) then (2 ^ 256 - 1) * 2 ^ (256 * c) else 0)).foldl (· + ·) 0))
      queue := (List.range count).map (fun i =>
        entryOf (bytes (0x1100 + 32 * i) 32) i (k.entries.getD i
          { epoch := 0, seq := BitVec.ofNat 16 (num 4 2 + 65536 - count + i), trl := BitVec.ofNat 16 (num 0x228 8), lateA := none, lateB := none
            dirty := 0, deferred := none }))
      nextSlot := BitVec.ofNat 6 count, epoch := k.epoch, epochs := k.epochs, released := k.released, syncing := k.syncing }
  let t1 := [(0x004, 0x210), (0x005, 0x218), (0x006, 0x220), (0x007, 0x228), (0x010, 0x230), (0x011, 0x238), (0x012, 0x240), (0x018, 0x248),
    (0x019, 0x250), (0x01A, 0x258), (0x01B, 0x260), (0x01C, 0x268), (0x400, 0x280), (0x401, 0x288), (0x402, 0x290), (0x403, 0x298),
    (0x404, 0x2A0), (0x405, 0x2A8), (0x406, 0x2B0), (0x408, 0x2B8), (0x40A, 0x2C8), (0x40B, 0x2D0)].foldl
      (fun (t : Thread) x => t.setSpecial x.1 (word x.2)) t0
  { t1 with vl := BitVec.ofNat 16 (num 0x200 8), vt := BitVec.ofNat 13 (num 0x208 8), moved := word 0x270
            priv := (word 0x2A8).getLsbD 0, dirty := word 0x2C0 }

/-- A thread joins the bound ones. -/
def State.join (s : State) (t : Thread) : State :=
  if s.cur.status = .unbound then { s with cur := t } else { s with others := s.others ++ [t] }

/-- The counts of a mask's pipes of each kind (R294). -/
def kindsOf (mask : BitVec 7) : List Nat := [pipesOwned mask .m, pipesOwned mask .l, pipesOwned mask .s, pipesOwned mask .p, pipesOwned mask .x]

/-- Whether a team's barrier numbers are free of other teams on a core (R283). -/
def State.barsFree (s : State) (t : Team) (core : Nat) : Bool :=
  s.teams.all (fun x => x.num == t.num || x.ended || x.record.bars &&& t.record.bars == 0 || !x.cores.contains core)

/-- Whether the firmware may set a slot's valid bit (R283, R293, R294): the part is not in minimal mode (R379), the record names a thread of a started team that is placed there and
has not exited, no thread of the team is bound or on its way out, nothing runs on the slot, and the core is in service and offers what
the thread needs. -/
def State.mayBind (s : State) (b : BindRecord) (t : Team) : Bool :=
  let n := b.lthread.toNat
  let core := coreOf b.slot
  !b.valid && !b.exited && t.started && !t.ended && !t.exited.getD n false && t.placement[n]? == some b.slot &&
    !s.layout.heldTeams.contains t.num && s.layout.shadow.isNone && s.boot.minimal.isNone && s.coreUsable t.part core && s.barsFree t core &&
    s.threads.all (fun x => x.slot != b.slot && x.team != t.num) &&
    (t.kinds.getD n [] == [] || t.kinds.getD n [] == kindsOf (s.pipesOn t.part core)) && decide (t.lanes.getD n 0 ≤ s.laneGroups core)

/-- The bind records of a team's threads that have not exited. -/
def State.recordsOf (s : State) (t : Team) : List BindRecord := s.binds.filter (fun b => t.hub == some b.team.toNat && !t.exited.getD b.lthread.toNat false)

/-- Whether every thread of a team that has not exited may be bound now (R282, R297). -/
def State.teamReady (s : State) (t : Team) : Bool :=
  (s.recordsOf t).all (fun b => s.mayBind b t) &&
    (List.range t.record.threads).all (fun n => t.exited.getD n false || (s.recordsOf t).any (fun b => b.lthread.toNat == n))

/-- Whether a thread's image can be restored on a core (R334): its frames are still its partition's (R4), and the core has the lane groups. -/
def State.restorable (s : State) (t : Team) (n core : Nat) : Bool :=
  let bytes := s.readArea (t.marks.getD n Marks.none).key (t.imageFrames n)
  s.framesUsable t.part (t.imageFrames n ++ t.blockFrame) && leNat (bytes 0 2) == 1 && decide (leNat (bytes 2 1) ≤ s.laneGroups core)

/-- The fair-share weight that the layout gives a partition (R294, R369, type 9): 1 to 65,535. -/
def State.weightOf (s : State) (part : Nat) : Nat := max 1 (s.grantField 9 part (fun g => bitsOf g.value 31 16))

/-- The slice that the firmware gives a partition's threads (R292): as many cycles for each unit of its weight as for every other partition's,
so that shares are fair by weight (R294). How many is a free value of 1 to 65,537, one for each layout (log entry 7). -/
def State.sliceOf (s : State) (part : Nat) : BitVec 32 :=
  BitVec.ofNat 32 (s.weightOf part * (1 + Config.sliceUnit s.layout.generation % 65537))

/-- Binds a thread to its slot (R293): it starts, or its image is loaded. It uses the lowest enabled lane groups of the core (R77, R334). MOVED
counts a resumption on another slot (R296). The team's barrier numbers belong to it on the core from now on (R283). -/
def State.bindThread (s : State) (b : BindRecord) (t : Team) : State :=
  let n := b.lthread.toNat
  let core := coreOf b.slot
  let pipes := s.pipesOn t.part core
  let saved := t.saved.getD n false
  let th := if saved then s.restoreThread t n (t.marks.getD n Marks.none) else s.startThread t n (s.laneGroups core)
  let moved := saved && (t.lastSlot.getD n none).any (fun x => x != b.slot)
  let th' := { th with status := .running, slot := b.slot, pipes := pipes, laneSet := (s.enabledLanes core).take th.lg, progress := false
                       moved := if moved then th.moved + 1 else th.moved }
  let budget := s.sliceOf t.part
  { s.join th' with
    binds := onBind b.slot (fun b => { b with valid := true, saved := false, pipes := pipes, budget := budget, left := budget }) s.binds
    teams := onTeam t.num (fun x => { x with
      saved := putNth n false false x.saved, lanes := putNth n th.lg 0 x.lanes, cores := insertNat core x.cores
      kinds := if t.kinds.getD n [] = [] then putNth n (kindsOf pipes) [] x.kinds else x.kinds }) s.teams
    tick := s.tick + 1 }

end Sys2Proof.Machine
end

