-- ==== Sys2Proof/Machine/Frames.lean ====
section
/-!
DEFINITION. Frames that change place: which frames and leaves a partition uses, and how the firmware moves frames (R384) and vault windows
(R160, R294) with everything that names them.
-/
namespace Sys2Proof.Machine

/-- Whether the firmware acts and serves the mailbox: the package has power, the firmware runs, and minimal mode is off (R379). -/
def State.served (s : State) : Bool := s.boot.powered && s.boot.running && s.boot.minimal.isNone

/-! ## The tables of a partition -/

/-- The valid entries of a table and of those below it, read under a key slot (R315 to R318): level, place, doubleword. -/
def State.entriesFrom (s : State) (part key : Nat) : Nat → Nat → List (Nat × Nat × Word)
  | level, table =>
    let bits := levelBits level
    let base := table / 2 ^ (bits + 3) * 2 ^ (bits + 3)
    (List.range (2 ^ bits)).flatMap (fun k =>
      let e := base + 8 * k
      let w := s.tableWord key e
      if !s.inDram part e 8 || !leafBit w 0 then []
      else if leafBit w 1 then [(level, e, w)]
      else match level with
        | 0 => []
        | l + 1 => if bitsOf w.toNat 15 2 ≠ 0 ∨ bitsOf w.toNat 63 52 ≠ 0 then [] else (level, e, w) :: s.entriesFrom part key l (leafFrame w))

/-- The roots of the page tables that a partition uses, each with the key slot it is read under: the layout's, its threads', and those of
its saved threads (R331: PTB and KEYDEF in the image). -/
def State.rootsOf (s : State) (part : Nat) : List (Nat × Nat) :=
  let ofImage := fun (t : Team) (n : Nat) =>
    let key := (t.marks.getD n Marks.none).key
    let reg := fun off => leNat (s.readArea key (t.imageFrames n) off 8)
    (rootOf (BitVec.ofNat 64 (reg 0x2B0)), reg 0x2B8 % 4096)
  ((rootOf (s.layoutPtb part), s.layoutKey part) :: (s.threads.filter (fun t => t.part.toNat == part)).map (fun t => (rootOf t.ptb, t.keydef.toNat)) ++
    (s.teams.filter (fun t => t.part == part && !t.ended)).flatMap (fun t =>
      ((List.range t.record.threads).filter (fun n => t.saved.getD n false && s.framesUsable part (t.imageFrames n))).map (ofImage t))).eraseDups

/-- Every valid entry of the tables that a partition uses. -/
def State.entriesOf (s : State) (part : Nat) : List (Nat × Nat × Word) := (s.rootsOf part).flatMap (fun r => s.entriesFrom part r.2 3 r.1)

/-- The leaves of the tables that a partition uses: level, place, doubleword. -/
def State.leavesOf (s : State) (part : Nat) : List (Nat × Nat × Word) := (s.entriesOf part).filter (fun x => leafBit x.2.2 1)

/-- Whether a leaf's page covers a frame. -/
def leafCovers (frame : Nat) (x : Nat × Nat × Word) : Bool :=
  decide (leafFrame x.2.2 ≤ 4096 * frame ∧ 4096 * frame < leafFrame x.2.2 + 2 ^ levelShift x.1)

/-- Whether two ranges share a number. -/
def rangesMeet (a n b m : Nat) : Bool := decide (max a b < min (a + n) (b + m))

/-- Whether `n` bytes from `pa` hold part of a table: of a root, or of a table that an entry of a higher level names. -/
def State.tablesMeet (s : State) (part pa n : Nat) : Bool :=
  let meets := fun (level table : Nat) =>
    let size := 2 ^ (levelBits level + 3)
    rangesMeet (table / size * size) size pa n
  (s.rootsOf part).any (fun r => meets 3 r.1) ||
    (s.entriesOf part).any (fun x => !leafBit x.2.2 1 && meets (x.1 - 1) (leafFrame x.2.2))

/-! ## Moving -/

/-- Whether a pin covers part of `n` bytes from `pa` (R175, R238). -/
def State.pinsMeet (s : State) (pa n : Nat) : Bool :=
  s.pins.any (fun p => rangesMeet p.pa (2 ^ p.bits) pa n)

/-- Whether `n` bytes from `pa` must stay where they are: a pin covers some (R175, R384), or a page table lies there, or a format region, whose
controller decodes by physical address (R125, log entry 17). -/
def State.fixedAt (s : State) (part pa n : Nat) : Bool :=
  s.pinsMeet pa n || s.tablesMeet part pa n || s.regions.any (fun r => rangesMeet r.base r.size pa n)

/-- Whether a frame belongs to a save area or a notification queue. -/
def State.inArea (s : State) (frame : Nat) : Bool :=
  s.teams.any (fun t => !t.ended && t.pages.contains frame) ||
    s.pageQueues.any (fun q => decide (q.queue / 4096 ≤ frame ∧ frame < q.queue / 4096 + 16) || q.tail / 4096 == frame)

/-- Whether a frame must stay where it is for now: it cannot move, or a save area or a notification queue lies in it. -/
def State.frameHeld (s : State) (part frame : Nat) : Bool := s.fixedAt part (4096 * frame) 4096 || s.inArea frame

/-- Where a byte lies after a move of frames. -/
def moveAddr (dest : Nat → Option Nat) (pa : Nat) : Option Nat := (dest (pa / 4096)).map (fun f => 4096 * f + pa % 4096)

/-- What stands at a place after a move: what came there, and what stood there before where nothing came. -/
def moveAll (dest : Nat → Option Nat) (fills : Nat → Bool) (l : List Nat) : List Nat :=
  (l.filterMap (moveAddr dest)).foldl (fun l x => insertNat x l) (l.filter (fun x => !fills (x / 4096)))

/-- A thread whose landed stream data and words fetched ahead are fetched again, and which wakes, where it concerns a frame that moves (R384). -/
def Thread.afterMove (dest : Nat → Option Nat) (t : Thread) : Thread :=
  { t with
    q := t.q.map (fun q => { q with ahead := q.ahead.filter (fun x => (dest (x.pa / 4096)).isNone) })
    fetched := t.fetched.filter (fun x => (dest (x.1 / 4096)).isNone)
    asleep := if t.asleep.any (fun k => (dest (k / 1024)).isSome) then none else t.asleep }

/-- Frames move (R160, R384): `dest` says where each goes and `fills` which frames they fill. Their bytes go with what is known of them
(errors, unpredictable bytes, strong accesses, key slots); every leaf of the partition that maps one names its new place, as its save areas, its
notification queue and the engines do; their translations are invalidated. -/
def State.relocate (s : State) (part : Nat) (dest : Nat → Option Nat) (fills : Nat → Bool) : State :=
  let kept := s.mem.cells.filter (fun c => !fills (c.1 / 4096))
  let moved := s.mem.cells.filterMap (fun c => (moveAddr dest c.1).map (fun a => (a, c.2)))
  let spans := s.wild.flatMap (fun w => partsOf w.1 w.2)
  let s1 := { s with
    mem := moved.foldl (fun m c => m.set c.1 c.2) { cells := kept }
    poison := (moveAll dest fills (s.poison.map (fun x => 32 * x))).map (fun x => x / 32)
    badBytes := moveAll dest fills s.badBytes
    wild := spans.filterMap (fun w => (moveAddr dest w.1).map (fun a => (a, w.2))) ++ spans.filter (fun w => !fills (w.1 / 4096))
    strong := s.strong.filterMap (fun x => (moveAddr dest x.1).map (fun a => (a, x.2))) ++ s.strong.filter (fun x => !fills (x.1 / 4096))
    sizes := s.sizes.filterMap (fun r => (moveAddr dest r.addr).map (fun a => { r with addr := a, sector := a / 32 })) ++
      s.sizes.filter (fun r => !fills (r.addr / 4096))
    lines := s.lines.filterMap (fun x => (moveAddr dest (128 * x.line)).map (fun a => { x with line := a / 128 })) ++
      s.lines.filter (fun x => !fills (128 * x.line / 4096))
    tlb := s.tlb.filter (fun e => !(e.part == part && (dest (leafFrame e.leaf / 4096)).isSome))
    rings := s.rings.map (fun r => { r with pins := r.pins.map (fun p => { p with pa := (moveAddr dest p.pa).getD p.pa }) })
    teams := s.teams.map (fun t => if t.part = part then { t with pages := t.pages.map (fun f => (dest f).getD f) } else t)
    binds := s.binds.map (fun b => if b.part.toNat = part then { b with save := BitVec.ofNat 36 ((dest b.save.toNat).getD b.save.toNat) } else b)
    pageQueues := s.pageQueues.map (fun q => if q.part = part then
      { q with queue := (moveAddr dest q.queue).getD q.queue, tail := (moveAddr dest q.tail).getD q.tail } else q)
    cur := s.cur.afterMove dest, others := s.others.map (Thread.afterMove dest) }
  (s.leavesOf part).foldl (fun s x =>
    match dest (leafFrame x.2.2 / 4096) with
    | none => s
    | some f => { s with mem := s.mem.write x.2.1 (leBytes 8 (x.2.2.toNat - bitsOf x.2.2.toNat 51 16 * 2 ^ 16 + f * 2 ^ 16)) }) s1

/-- A page of 4 KiB moves to another frame (R384). -/
def State.moveFrame (s : State) (part old new : Nat) : State := s.relocate part (fun f => if f = old then some new else none) (fun f => f == new)

/-! ## Vault windows -/

/-- A permutation of vaults that takes each pair's first to its second; vaults that only receive give theirs to those that only give. -/
def permuted (pairs : List (Nat × Nat)) : List (Nat × Nat) :=
  let gives := pairs.map (·.1)
  let takes := pairs.map (·.2)
  pairs ++ (takes.filter (fun x => !gives.contains x)).zip (gives.filter (fun x => !takes.contains x))

/-- Whether a vault window may move (R160, R248, R294): the vault is the partition's, in addressed mode and in service, and neither a pin nor
a configured ring is in its window. -/
def State.windowMoves (s : State) (part v : Nat) : Bool :=
  s.vaultOpen part (apertureBase + 2 ^ 24 * v) && !s.units.gone (apertureBase + 2 ^ 24 * v) && !s.pinsMeet (apertureBase + 2 ^ 24 * v) (2 ^ 24) &&
    s.rings.toList.all (fun r => r.state == .unconfigured || !r.pins.any (fun p => rangesMeet p.pa (2 ^ p.bits) (apertureBase + 2 ^ 24 * v) (2 ^ 24)))

/-- Where each frame of the vault windows goes when vaults change places. -/
def windowTo (perm : List (Nat × Nat)) (frame : Nat) : Option Nat :=
  let base := apertureBase / 4096
  if frame < base then none
  else (perm.find? (fun x => x.1 == (frame - base) / 4096)).map (fun x => base + 4096 * x.2 + (frame - base) % 4096)

/-- A team is placed elsewhere than it last ran: the windows of its stands' vaults follow it (R160; log entry 59). -/
def State.moveWindows (s : State) (t : Team) : State :=
  let pairs := (((List.range t.record.threads).filter (fun n => !t.exited.getD n false)).filterMap (fun n =>
    match t.lastSlot.getD n none, t.placement[n]? with
    | some a, some b => if a / 32 = b / 32 then none else some (a / 32, b / 32)
    | _, _ => none)).eraseDups
  let perm := permuted pairs
  if perm.isEmpty ∨ !(perm.all (fun x => s.windowMoves t.part x.1)) then s
  else s.relocate t.part (windowTo perm) (fun f => (windowTo perm f).isSome)

end Sys2Proof.Machine
end

