-- ==== Sys2Proof/Machine/Schedule.lean ====
section
/-!
DEFINITION. Starting, completing and tearing down launches (R282, R286, R287, R290, R293, R310), and the launch ports (R372).
-/
namespace Sys2Proof.Machine

/-! ## Completion -/

/-- Thread records of a team that leave their slots. -/
def unbindTeam (team : Nat) (t : Thread) : Thread := if t.team = team ∧ t.status ≠ .unbound then { t with status := .unbound } else t

/-- The bind records of every team but one. -/
def State.bindsWithout (s : State) (team : Nat) : List BindRecord :=
  s.binds.filter (fun b => !((s.teamOfBind b).any (fun t => t.num == team)))

/-- A team is over (R286, R300): the firmware releases its slots, its number within the hub and its barriers. -/
def State.finishTeam (s : State) (team : Nat) : State :=
  ({ s with
    cur := unbindTeam team s.cur, others := s.others.map (unbindTeam team), binds := s.bindsWithout team
    barriers := s.barriers.filter (fun b => b.team != team)
    teams := onTeam team (fun t => { t with ended := true, hub := none }) s.teams } : State).tidy

/-- The write of a launch's number to `done` (R286): translated under the layout's PTB and checked for W; where it cannot be made it is
skipped and counted. -/
def State.writeDone (s : State) (l : Launch) (torn : Bool) : State :=
  if l.done = 0 then s
  else
    let c := s.layoutCtx l.part
    let (r, s1) := s.reachPart c (l.done.toNat : Nat) 8 Need.store none (oobPlain (l.done.toNat : Nat))
    if !r.cands.isEmpty ∨ r.ns then
      { s1 with counts := bumpCount l.part (fun k => { k with lost := k.lost + 1 }) s1.counts }
    else (s1.touch c r.va r.leaf true).write r.pa (leBytes 8 (l.number + (if torn then 2 ^ 63 else 0)))

/-- A launch completes (R286); its teams' numbers are free again. -/
def State.finishLaunch (s : State) (l : Launch) (torn : Bool) : State :=
  let s1 := s.writeDone l torn
  { s1 with launches := s1.launches.map (fun x => if x.part = l.part ∧ x.number = l.number then { x with complete := true, torn := torn } else x)
            teams := s1.teams.filter (fun t => !(t.part == l.part && t.launch == l.number)) }

/-- What system software tears down (R286, R310): the launch's threads stop where they are, with what their engines still had to do, and
the launch completes with bit 63 set. -/
def State.tearDown (s : State) (l : Launch) : State :=
  let nums := (s.teamsOf l).map (·.num)
  let s1 := { s with
    copies := s.copies.filter (fun c => !nums.contains c.team), seals := s.seals.filter (fun o => !nums.contains o.team)
    rings := s.rings.map (fun r => if r.user.any (fun u => nums.contains u.1) then r.unbound else r) }
  (nums.foldl State.finishTeam s1).finishLaunch l true

/-- The first team whose every thread has exited. -/
def State.exitedTeam (s : State) : Option Team := s.teams.find? (fun t => t.started && !t.ended && t.exited.all id)

/-- The first launch that is not complete although its every team is over. -/
def State.endedLaunch (s : State) : Option Launch := s.launches.find? (fun l => !l.complete && (s.teamsOf l).all (·.ended))

/-- The launch of a thread that a double trap stopped (R310). -/
def State.stoppedLaunch (s : State) : Option Launch :=
  (s.threads.filter (fun t => t.status == .stopped)).findSome? (fun t =>
    match s.team t.team with
    | some x => if x.ended then none else s.launch x.part x.launch
    | none => none)

/-! ## Starting -/

/-- Whether what a launch depends on has completed, and every earlier instance of its graph that it must wait for (R286, R290). -/
def State.launchReady (s : State) (l : Launch) : Bool :=
  l.deps.all (fun d => (s.launch l.part d).any (·.complete)) &&
    (l.graph.isNone || l.concurrent ||
      s.launches.all (fun x => !(x.part == l.part && x.graph == l.graph && decide (x.number < l.number)) || x.complete))

/-- Whether the nodes that a team's node depends on are over (R290). -/
def State.nodeReady (s : State) (l : Launch) (t : Team) : Bool :=
  l.graph.isNone || t.record.deps.all (fun d => (s.teamsOf l).any (fun x => x.node + 1 == d && x.ended))

/-- Whether a thread of a team is bound. -/
def State.teamBound (s : State) (team : Nat) : Bool := s.threads.any (fun y => y.team == team && y.status != .exited)

/-- Whether the firmware binds another team first (R294; that a larger number is a higher class is DEDUCED, log entry 48): none of the team's
threads is bound, and neither is any of a team of a higher class of its partition that may start and is not bound together with it. -/
def State.outranked (s : State) (t : Team) : Bool :=
  !s.teamBound t.num && s.teams.any (fun x =>
    x.part == t.part && decide (t.record.prio < x.record.prio) && !x.ended && !x.exited.all id && !s.teamBound x.num &&
      !s.layout.heldTeams.contains x.num && !(s.together t).any (fun y => y.num == x.num) &&
      (match s.launch x.part x.launch with
       | some l => s.launchReady l && s.nodeReady l x
       | none => false))

/-- The seats that a placement gives a team's threads. -/
def Team.seats (t : Team) (placement : List Nat) : List Seat :=
  (List.range t.record.threads).map (fun n => { team := t.num, record := t.record, n := n, slot := placement.getD n 0 })

/-- The seats of every team that is bound. -/
def State.takenSeats (s : State) : List Seat :=
  (s.teams.filter (fun t => s.threads.any (fun y => y.team == t.num))).flatMap (fun t => t.seats t.placement)

/-- Whether each seat agrees with every other and with those taken. -/
def seatsAgree : List Seat → List Seat → Bool
  | _, [] => true
  | taken, x :: xs => taken.all x.agrees && seatsAgree (x :: taken) xs

/-- Whether the cores of a placement offer what a team's threads need (R283, R294): pipes of the partition, as many of each kind as on the
first core, the lane groups, and barrier numbers free of other teams. -/
def State.coresFit (s : State) (t : Team) (placement : List Nat) : Bool :=
  placement.zipIdx.all (fun x =>
    let core := coreOf x.1
    decide (x.1 < 4096) && s.coreUsable t.part core && s.barsFree t core && decide (t.lanes.getD x.2 0 ≤ s.laneGroups core) &&
      (t.kinds.getD x.2 [] == [] || t.kinds.getD x.2 [] == kindsOf (s.pipesOn t.part core)))

/-- A bind record for a thread on its slot, not valid yet (R292). -/
def newBind (t : Team) (hub n slot : Nat) : BindRecord :=
  { slot := slot, valid := false, part := BitVec.ofNat 6 t.part, team := BitVec.ofNat 16 hub, lthread := BitVec.ofNat 12 n, pipes := 0
    prio := BitVec.ofNat 2 t.record.prio, save := BitVec.ofNat 36 (t.pages.getD (16 * n) 0), budget := 0, left := 0
    saved := t.saved.getD n false, exited := false }

/-- The lowest team number within the hub that no team bears (R292). -/
def State.freshHub (s : State) : Nat :=
  ((List.range (s.teams.length + 1)).find? (fun k => s.teams.all (fun t => t.hub != some k))).getD 0

/-- A team gives up its placement; it is placed again before it is bound again. -/
def State.displace (s : State) (team : Nat) : State :=
  { s with binds := s.bindsWithout team, teams := onTeam team (fun x => { x with hub := none, placement := [] }) s.teams }

/-- The firmware places a team (R282, R292): teams that are not bound give up slots it takes; its threads that have not exited receive bind
records on the slots. -/
def State.placeTeam (s : State) (t : Team) (placement : List Nat) : State :=
  let losers := s.teams.filter (fun x => x.num != t.num && x.placement.any placement.contains && !s.threads.any (fun y => y.team == x.num))
  let s1 := losers.foldl (fun s x => s.displace x.num) (s.displace t.num)
  let hub := s1.freshHub
  let fresh := (placement.zipIdx.filter (fun x => !t.exited.getD x.2 false)).map (fun x => newBind t hub x.2 x.1)
  { s1 with
    teams := onTeam t.num (fun x => { x with started := true, placement := placement, hub := some hub }) s1.teams
    binds := fresh.foldl (fun l b => setBind b l) s1.binds }

/-- Splits a placement over teams. -/
def splitPlacement : List Team → List Nat → List (Team × List Nat)
  | [], _ => []
  | t :: ts, p => (t, p.take t.record.threads) :: splitPlacement ts (p.drop t.record.threads)

/-- LAUNCH_START (R282, R286, R290, R294): the firmware places a team whose launch may start, or one whose threads have all been saved;
the teams of a co-resident graph are placed together, `placement` naming their slots one team after the other. -/
def execLaunchStart (team : Nat) (placement : List Nat) (s : State) : Out :=
  match s.team team with
  | none => .next s
  | some t =>
    match s.launch t.part t.launch with
    | none => .next s
    | some l =>
      let group := s.together t
      let split := splitPlacement group placement
      let others := s.takenSeats.filter (fun x => !group.any (fun g => g.num == x.team))
      let seats := split.flatMap (fun x => x.1.seats x.2)
      if s.launchReady l && group.all (fun g => s.nodeReady l g && !g.ended && !s.layout.heldTeams.contains g.num) &&
          s.threads.all (fun x => !group.any (fun g => g.num == x.team)) &&
          placement.length == (group.map (fun g => g.record.threads)).foldl (· + ·) 0 && seatsAgree others seats &&
          split.all (fun x => s.coresFit x.1 x.2) then
        .next (split.foldl (fun s x => s.placeTeam x.1 x.2) s)
      else .next s

/-- The teams that the firmware would bind with the thread of a record, if it may bind them now (R282, R290, R294, R297): every thread of the
team, and of the teams that are bound together with it, or none. -/
def State.readyGroup (s : State) (b : BindRecord) : Option (List Team) :=
  match s.teamOfBind b with
  | none => none
  | some t =>
    let group := s.together t
    if s.mayBind b t && !s.outranked t && group.all s.teamReady then some group else none

/-- Whether the image of every saved thread of a team can be restored where it is placed (R334). -/
def State.teamRestorable (s : State) (t : Team) : Bool :=
  (s.recordsOf t).all (fun b => !t.saved.getD b.lthread.toNat false || s.restorable t b.lthread.toNat (coreOf b.slot))

/-- Binds every thread of a team that has not exited (R282, R293): its vault windows follow it, and its barriers come back. -/
def State.bindTeam (s : State) (t : Team) : State := (s.recordsOf t).foldl (fun s b => s.bindThread b t) ((s.moveWindows t).loadTeamBlock t)

/-- Binds the thread that a record names, with all that are bound together with it, if that may be now; where an image cannot be restored
the launch is torn down (R334). -/
def State.bindSlot (s : State) (slot : Nat) : State :=
  match (s.bindOf slot).bind s.readyGroup with
  | none => s
  | some group =>
    match group.find? (fun t => !s.teamRestorable t) with
    | none => group.foldl State.bindTeam s
    | some t => match s.launch t.part t.launch with | some l => s.tearDown l | none => s

/-- SLOT_BIND (R293). -/
def execSlotBind (slot : Nat) (s : State) : Out := .next (s.bindSlot slot)

/-- The first slot whose thread may be bound. -/
def State.slotToBind (s : State) : Option Nat := (s.binds.find? (fun b => (s.readyGroup b).isSome)).map (·.slot)

/-! ## Launch ports -/

/-- The status of a launch port (R372). -/
def State.port (s : State) (part : Nat) : PortStatus :=
  (s.ports.find? (fun p => p.part == part)).getD { part := part, number := 0, reason := 0, index := 0, pend := false, valid := false }

/-- The status doubleword of a launch port (R372). -/
def PortStatus.word (p : PortStatus) : Word :=
  BitVec.ofNat 64 (p.number % 2 ^ 32 + 2 ^ 32 * (p.reason % 256) + 2 ^ 40 * (p.index % 256) + (if p.pend then 2 ^ 62 else 0) +
    (if p.valid then 2 ^ 63 else 0))

/-- Sets a launch port's status. -/
def setPort (p : PortStatus) (l : List PortStatus) : List PortStatus := p :: l.filter (fun x => x.part != p.part)

/-- Reads 64 bytes for the hub at a multiple of 64. -/
def UnitRun.read64 (u : UnitRun) (va : Nat) : List Byte × UnitRun := if va % 64 ≠ 0 then ([], u.fail 0x04 0 va) else u.read va 64

/-- Reads n nodes from `va` on. -/
def UnitRun.nodes (u : UnitRun) (va : Nat) : Nat → Nat → List (List Byte) × UnitRun
  | 0, _ => ([], u)
  | n + 1, i =>
    let (bs, u1) := u.read64 (va + 64 * i)
    if u1.stop.isSome then ([], u1)
    else
      let (rest, u2) := UnitRun.nodes u1 va n (i + 1)
      (bs :: rest, u2)

/-- LAUNCH_PORT_WRITE (R364, R372): the host's record is taken, unless one is pending, and decided; a check of orders 2 and 3 of R299 is
reason 7. The hub translates under the layout's PTB. -/
def execLaunchPortWrite (part : BitVec 6) (record : List Byte) (s : State) : Out :=
  let p := part.toNat
  let bs := sized 64 record
  let c := s.layoutCtx p
  let decided := fun (s : State) (number reason index : Nat) =>
    { s with ports := setPort { part := p, number := number, reason := reason, index := index, pend := false, valid := true } s.ports }
  if (s.port p).pend then .next s
  else
    let u0 : UnitRun := { s := s, c := c, core := false, issuer := none, stop := none }
    let (head, u1) := if isGraph bs then u0.read64 (fieldAt bs 0x20 8) else ([], u0)
    let (nodes, u2) := if isGraph bs ∧ u1.stop.isNone then
        u1.nodes (graphOf head).nodes (if 256 < (graphOf head).count then 0 else (graphOf head).count) 0
      else ([], u1)
    if u2.stop.isSome then .next (decided u2.s 0 7 0)
    else
      match askOf p c bs head nodes with
      | .error i => .next (decided u2.s 0 7 i)
      | .ok k =>
        match u2.s.refuseLaunch k with
        | .error (reason, i) => .next (decided u2.s 0 reason i)
        | .ok pages => (let (number, s1) := u2.s.acceptLaunch k pages; .next (decided s1 number 0 0))

end Sys2Proof.Machine
end

