-- ==== Sys2Proof/Machine/Background.lean ====
section
/-!
DEFINITION. What the engines, the hub and the firmware do next when the agenda names nothing: one order among those that the manual
allows (log entry 1). Each piece is the event that the agenda could have named.
-/
namespace Sys2Proof.Machine

/-- The queue of the current thread moves on (R17, R295), where the pace says so (log entry 7) and no island differs from the others (R374). -/
def State.queueMoves (s : State) : Option State :=
  if s.cur.status = .running ∧ s.pace = .eager ∧ !s.layout.mixed then s.retireOne.orElse (fun _ => s.dispatchOne descOf 0) else none

/-- The next element of the first copy that may land (R176). -/
def State.copyMoves (s : State) : Option State := (s.copies.find? s.mayLand).map s.landNext

/-- The first sealed-record operation in flight that need not wait ends (R214). -/
def State.sealMoves (s : State) : Option State := s.seals.findSome? s.endSeal

/-- The first engine that may forward an arrival does (R235). -/
def State.ringMoves (s : State) : Option State :=
  (s.rings.toList.findIdx? (fun e => s.portUp e.down && e.mayForward)).map (fun n => let e := s.ring n; s.setRing n ({ e with forwarded := e.forwarded + 1 } : Ring).follow)

/-- A barrier phase that every crew has reported completes (R264). -/
def State.phaseMoves (s : State) : Option State :=
  s.barriers.findSome? (fun b => (s.completeCrews b.team b.num b.crew).map (s.completePhase b.team b.num))

/-- A thread on its way out is saved (R334). -/
def State.saveMoves (s : State) : Option State :=
  (s.threads.find? (fun t =>
      t.status == .leaving && t.queue.all (fun e => !e.isDone) && !s.engineBusy t.team t.lthread && (s.bindOf t.slot).isSome)).map
    (fun t => (s.atSlot t.slot State.saveCurrent).tidy)

/-- The firmware, where it runs (R379), completes a team, completes or tears down a launch (R286, R310), or binds a thread (R293). -/
def State.firmwareMoves (s : State) : Option State :=
  if !s.served then none
  else match s.exitedTeam with
  | some t => some (s.finishTeam t.num)
  | none =>
    match s.endedLaunch with
    | some l => some (s.finishLaunch l false)
    | none =>
      match s.stoppedLaunch with
      | some l => some (s.tearDown l)
      | none => s.slotToBind.map s.bindSlot

/-- The next thing that happens by itself, if any. -/
def State.background (s : State) : Option State :=
  s.queueMoves.orElse (fun _ => s.copyMoves.orElse (fun _ => s.sealMoves.orElse (fun _ => s.ringMoves.orElse (fun _ =>
    s.phaseMoves.orElse (fun _ => s.saveMoves.orElse (fun _ => s.firmwareMoves))))))

/-- The engine of a stream register lands one more element of the current thread (R163), where its landing buffer of 16 KiB has room. -/
def State.fetchOne (s : State) (q : BitVec 3) : State :=
  let r := s.cur.qread q.toNat
  if r.kind = .memory ∧ (r.ahead.length + 1) * r.size ≤ 16384 then
    match execStreamEngineFetch q s with
    | .next s' => s'
    | .fault _ => s
    | .refused _ => s
  else s

/-- The next bound thread takes its turn (R295). -/
def State.rotate (s : State) : State :=
  match s.others with
  | [] => s
  | t :: ts => { s with cur := t, others := ts ++ [s.cur] }

/-- The current thread's turn ends: its stream engines have worked beside its scalar part (R295), and the next thread goes on. -/
def State.endTurn (s : State) : State :=
  ((List.range 8).foldl (fun s n => s.fetchOne (BitVec.ofNat 3 n)) s).rotate

/-- The outcome of a turn. -/
def endTurnOut : Out → Out
  | .next s => .next s.endTurn
  | .fault f => .fault f
  | .refused r => .refused r

end Sys2Proof.Machine
end

