-- ==== Sys2Proof/Machine/Migrate.lean ====
section
/-!
DEFINITION. Pages and vault windows that the firmware moves: promotion's frames (R384), and what leaves a unit before it is removed (R381).
-/
namespace Sys2Proof.Machine

/-! ## Frames -/

/-- Whether a frame is part of a page of more than 4 KiB. -/
def State.inLargerPage (s : State) (part frame : Nat) : Bool := (s.leavesOf part).any (fun x => x.1 != 0 && leafCovers frame x)

/-- Whether a frame of a partition cannot move now: it is not the partition's any more, it is held, or it is part of a larger page. -/
def State.frameStays (s : State) (part frame : Nat) : Bool :=
  !s.inDram part (4096 * frame) 4096 || s.frameHeld part frame || s.inLargerPage part frame

/-- Whether a frame may receive a promoted one: it lies in the partition's grant in the target tract, in service, and no leaf maps it. -/
def State.frameFree (s : State) (part frame tract : Nat) : Bool :=
  s.inDram part (4096 * frame) 4096 && tractOf (4096 * frame) == tract && !s.units.gone (4096 * frame) && !s.frameHeld part frame &&
    !(s.leavesOf part).any (leafCovers frame)

/-! ## Pages that leave a unit -/

/-- Whether a DRAM frame lies in a unit that waits to be removed (R381): its tract, or its channel. -/
def Units.leaving (u : Units) (frame : Nat) : Bool :=
  u.removing.any (fun x => match x with
    | .tract n => tractOf (4096 * frame) == n
    | .channel n => channelAt (4096 * frame) == n
    | _ => false)

/-- Whether a vault waits to be removed (R381), itself or with its tract. -/
def Units.vaultLeaving (u : Units) (v : Nat) : Bool := u.removing.contains (.vault v) || u.removing.contains (.tract (v / 16))

/-- Whether any of `n` frames satisfies a test. -/
def anyFrame (first n : Nat) (f : Nat → Bool) : Bool := (List.range n).any (fun k => f (first + k))

/-- The frames that move as one with a frame (first, how many): the largest page that covers it, or the 16 frames of a notification queue, or
itself. -/
def State.spanOf (s : State) (part frame : Nat) : Nat × Nat :=
  let pages := ((s.leavesOf part).filter (leafCovers frame)).map (fun x => (leafFrame x.2.2 / 4096, 2 ^ (levelShift x.1 - 12)))
  let queues := (s.pageQueues.filter (fun q => decide (q.queue / 4096 ≤ frame ∧ frame < q.queue / 4096 + 16))).map (fun q => (q.queue / 4096, 16))
  (pages ++ queues).foldl (fun best x => if best.2 < x.2 then x else best) (frame, 1)

/-- Whether `n` frames of a partition may move together (R381): they are its own, none is fixed, and no page or queue lies across their end. -/
def State.spanMoves (s : State) (part first n : Nat) : Bool :=
  let inside := fun (a m : Nat) => decide (first ≤ a ∧ a + m ≤ first + n)
  s.inDram part (4096 * first) (4096 * n) && !s.fixedAt part (4096 * first) (4096 * n) &&
    (s.leavesOf part).all (fun x =>
      let f := leafFrame x.2.2 / 4096
      let m := 2 ^ (levelShift x.1 - 12)
      !rangesMeet f m first n || inside f m) &&
    s.pageQueues.all (fun q => !rangesMeet (q.queue / 4096) 16 first n || inside (q.queue / 4096) 16)

/-- The partition that a list of grants gives a DRAM frame to. -/
def dramHolder (gs : List Grant) (frame : Nat) : Option Nat :=
  (gs.find? (fun g => g.type == 4 && decide (g.first ≤ frame ∧ frame < g.first + g.count))).map (·.part)

/-- Whether `n` frames from `target` on may receive a page of a partition under the grants to come (R381): they are, or become, its own, they
stay in service, and nothing uses them. -/
def State.spanFree (s : State) (gs : List Grant) (part target n : Nat) : Bool :=
  let later := { s with layout := { s.layout with grants := gs } }
  target % n == 0 && later.inDram part (4096 * target) (4096 * n) && !s.fixedAt part (4096 * target) (4096 * n) &&
    later.regions.all (fun r => !rangesMeet r.base r.size (4096 * target) (4096 * n)) &&
    !anyFrame target n (fun f => s.units.leaving f || s.units.gone (4096 * f) || s.inArea f ||
      (dramHolder s.layout.grants f).any (fun p => p != part)) &&
    (s.leavesOf part).all (fun x => !rangesMeet (leafFrame x.2.2 / 4096) (2 ^ (levelShift x.1 - 12)) target n)

/-- `n` frames of a partition move. -/
def State.moveSpan (s : State) (part first n target : Nat) : State :=
  s.relocate part (fun f => if first ≤ f ∧ f < first + n then some (target + (f - first)) else none) (fun f => decide (target ≤ f ∧ f < target + n))

/-- The firmware migrates the page that holds a frame of a partition off a unit that is to be removed, as a promotion moves one (R381, R384). -/
def State.migrate (s : State) (part frame target : Nat) : State :=
  let (first, n) := s.spanOf part frame
  if s.served && anyFrame first n s.units.leaving && s.spanMoves part first n && s.spanFree s.layout.grants part target n then
    s.moveSpan part first n target
  else s

/-- The first place from a frame on, in steps of `n`, that is free for a page of `n` frames. -/
def State.firstFree (s : State) (gs : List Grant) (part n : Nat) : Nat → Nat → Option Nat
  | 0, _ => none
  | fuel + 1, f => if s.spanFree gs part f n then some f else s.firstFree gs part n fuel (f + n)

/-- The lowest place that is free for a page of `n` frames of a partition. -/
def State.freePlace (s : State) (gs : List Grant) (part n : Nat) : Option Nat :=
  (gs.filter (fun g => g.type == 4 && g.part == part)).findSome? (fun g => s.firstFree gs part n (g.count / n + 1) ((g.first + n - 1) / n * n))

/-- The frames of a partition that hold something: a page, a save area, a notification queue. -/
def State.usedFrames (s : State) (part : Nat) : List Nat :=
  let pages := (s.leavesOf part).map (fun x => leafFrame x.2.2 / 4096)
  let areas := (s.teams.filter (fun t => t.part == part && !t.ended)).flatMap (fun t => t.pages)
  let queues := (s.pageQueues.filter (fun q => q.part == part)).flatMap (fun q => [q.queue / 4096, q.tail / 4096])
  (pages ++ areas ++ queues).eraseDups

/-! ## Vault windows that leave a unit -/

/-- Whether a vault window may receive another's contents under the grants to come: it is, or becomes, the partition's in addressed mode, it
stays in service, it may move, and no leaf maps it. -/
def State.windowFree (s : State) (gs : List Grant) (part v : Nat) : Bool :=
  let base := apertureBase + 2 ^ 24 * v
  ({ s with layout := { s.layout with grants := gs } } : State).vaultOpen part base && s.windowMoves part v && !s.units.vaultLeaving v &&
    (s.leavesOf part).all (fun x => !rangesMeet (leafFrame x.2.2) (2 ^ levelShift x.1) base (2 ^ 24))

/-- The windows of two vaults of a partition change places. -/
def State.swapWindows (s : State) (part v target : Nat) : State :=
  let perm := permuted [(v, target)]
  s.relocate part (windowTo perm) (fun f => (windowTo perm f).isSome)

/-- The firmware migrates a vault window of a partition off a vault, or a tract, that is to be removed, to a free window of another vault of
the partition's (R160, R381). -/
def State.migrateVault (s : State) (part vault target : Nat) : State :=
  if s.served && s.units.vaultLeaving vault && s.windowMoves part vault && s.windowFree s.layout.grants part target then
    s.swapWindows part vault target
  else s

/-! ## All that is left, at a commit -/

/-- What a partition still has in the units that the commit of a layout removes is migrated first (R381): pages, save areas and notification
queues, then vault windows, each to the lowest place that is free. DESIGN CHOICE (log entry 27): R381 does not say where to; what is pinned, the
tables and format regions stay, and what finds no place. -/
def State.evacuatePart (s : State) (gs : List Grant) (part : Nat) : State :=
  let s1 := (s.usedFrames part).foldl (fun s f =>
    let (first, n) := s.spanOf part f
    if (s.usedFrames part).contains f && anyFrame first n s.units.leaving && s.spanMoves part first n then
      match s.freePlace gs part n with
      | some target => s.moveSpan part first n target
      | none => s
    else s) s
  (List.range 128).foldl (fun s v =>
    if s.units.vaultLeaving v && s.windowMoves part v then
      match (List.range 128).find? (s.windowFree gs part) with
      | some target => s.swapWindows part v target
      | none => s
    else s) s1

/-- The same for every partition of the layout that stands. -/
def State.evacuate (s : State) (gs : List Grant) : State :=
  if s.units.removing.isEmpty then s
  else ((s.layout.grants.filter (fun g => g.type == 9)).map (·.part)).eraseDups.foldl (fun s p => s.evacuatePart gs p) s

end Sys2Proof.Machine
end

