-- ==== Sys2Proof/Machine/Layouts.lean ====
section
/-!
DEFINITION. The mailbox (R365 to R367), the partition layout with its checks and its commit (R368, R369, R374), and the watchdog.
-/
namespace Sys2Proof.Machine

/-! ## The mailbox -/

/-- What a request answers: its code (R366) and the bytes of its response. -/
abbrev Answer := Nat × List Byte

/-- The mailbox's status doubleword (R366). -/
def Mailbox.status (m : Mailbox) : Word :=
  BitVec.ofNat 64 (m.tag.toNat + 2 ^ 16 * m.code.toNat + 2 ^ 32 * m.rlen.toNat + (if m.busy then 2 ^ 62 else 0) + (if m.done then 2 ^ 63 else 0))

/-- Writes a decided request's answer (R365, R366). -/
def State.answer (s : State) (d : Doorbell) (a : Answer) : State :=
  let m := s.mailbox
  { s with mailbox := { m with tag := d.door.setWidth 16, code := BitVec.ofNat 8 a.1, rlen := BitVec.ofNat 16 a.2.length, busy := false, done := true
                               response := a.2 ++ m.response.drop a.2.length } }

/-- What the host has written for a request stands in the mailbox window (R365); the firmware takes it up. -/
def State.ring_ (s : State) (code : Nat) (d : Doorbell) : State :=
  let head := leBytes 2 code ++ leBytes 2 d.len.toNat ++ leBytes 4 d.rsv.toNat
  let new := (head ++ d.body).take 4096
  let staged := d.staging.take 49152
  let m := s.mailbox
  { s with mailbox := { m with request := new ++ m.request.drop new.length, staging := staged ++ m.staging.drop staged.length, done := false } }

/-- A request (R365, R367): ignored while one is carried out, or where neither firmware nor ROM runs; in minimal mode only those marked for
it; a reserved field that is not 0 or a body of the wrong length is malformed. -/
def State.request (s : State) (code : Nat) (d : Doorbell) (len : Nat) (minimal : Bool) (act : State → List Byte → Answer × State) : Out :=
  if s.mailbox.busy ∨ !s.boot.powered ∨ (!s.served ∧ s.boot.minimal.isNone) then .next s
  else
    let s1 := s.ring_ code d
    if !s.served ∧ !minimal then .next (s1.answer d (3, []))
    else if d.door.toNat / 65536 ≠ 0 ∨ d.rsv ≠ 0 ∨ d.len.toNat ≠ len then .next (s1.answer d (1, []))
    else
      let (a, s2) := act s1 (sized len d.body)
      .next (s2.answer d a)

/-- UNKNOWN_REQUEST_CODE (R367): any code that the table does not list. -/
def execUnknownRequestCode (code : BitVec 16) (d : Doorbell) (s : State) : Out :=
  if 1 ≤ code.toNat ∧ code.toNat ≤ 14 then .next s
  else s.request code.toNat d d.len.toNat false (fun s _ => ((6, []), s))

/-- Whether a partition exists: it has its parameters entry (R368). -/
def State.partition (s : State) (part : Nat) : Bool := !(s.grantsOf 9 part).isEmpty

/-! ## Checking a layout -/

/-- A grant entry and whether its reserved bytes are 0 (R369). -/
def grantOf (bs : List Byte) : Grant × Bool :=
  ({ type := fieldAt bs 0 1, part := fieldAt bs 1 1, value := fieldAt bs 4 4, first := fieldAt bs 8 8, count := fieldAt bs 16 8
     extra := fieldAt bs 24 8 }, fieldAt bs 2 2 == 0)

/-- The numbers of a grant's range satisfy a test. -/
def Grant.each (g : Grant) (ok : Nat → Bool) : Bool := (List.range g.count).all (fun k => ok (g.first + k))

/-- Whether a grant's range lies below a limit and is not empty. -/
def Grant.below (g : Grant) (limit : Nat) : Bool := decide (0 < g.count ∧ g.first + g.count ≤ limit)

/-- Whether a tract's DRAM is out of service (R381): the tract itself, or every channel of it. -/
def Units.dramOut (u : Units) (t : Nat) : Bool := u.tractsOff.contains t || (List.range 64).all (fun c => u.channelsOff.contains (64 * t + c))

/-- Whether the fields of a grant are what its type allows (R369), and its units are in service (R368, R381): of DRAM frames their tracts and
channels. Host frames lie outside package DRAM and the vault aperture (log entry 16). -/
def grantOk (u : Units) (g : Grant) : Bool :=
  decide (g.part < 64) &&
  match g.type with
  | 1 => g.below 1024 && decide (1 ≤ g.value ∧ g.value < 128) && g.extra == 0 && g.each (fun c => !u.coresOff.contains c && !u.tractsOff.contains (c / 128))
  | 2 => g.below 128 && decide (g.value ≤ 1) && decide (g.extra < 2 ^ 16) && (g.value == 1 || g.extra == 0) &&
      g.each (fun v => !u.vaultsOff.contains v && !u.tractsOff.contains (v / 16))
  | 3 => decide (g.value ≤ 31) && g.first == 0 && g.count == 0
  | 4 => g.below (2 ^ 27) && g.value == 0 && g.extra == 0 &&
      (List.range 8).all (fun t => !u.dramOut t || decide (g.first + g.count ≤ 2 ^ 24 * t ∨ 2 ^ 24 * (t + 1) ≤ g.first)) &&
      (u.channelsOff.isEmpty || g.each (fun f => !u.channelsOff.contains (channelAt (4096 * f))))
  | 5 => g.below (2 ^ 36) && g.value == 0 && g.extra == 0 && decide (2 ^ 27 ≤ g.first) &&
      !rangesMeet g.first g.count (apertureBase / 4096) (apertureSize / 4096)
  | 6 => g.below 4096 && g.value == 0 && g.extra == 0
  | 7 => decide (g.first < 8 ∧ g.count < 16) && bitsOf g.value 30 29 == 0 && g.extra % 4096 == 0 && decide (g.extra < 2 ^ 48) &&
      !u.dramOut g.first &&
      (match regionOf g with
       | some r => decide (2 ^ 36 * r.tract ≤ r.base ∧ r.base + r.size ≤ 2 ^ 36 * (r.tract + 1))
       | none => true)
  | 8 => decide (g.first < 4) && g.count == 0 && decide (g.value < 256) && g.extra == 0
  | 9 => bitsOf g.value 7 2 == 0 && g.value / 65536 != 0 && g.first == 0 && g.count == 0 && g.extra == 0
  | 10 => decide (g.value < 4096) && g.count == 0
  | _ => false

/-- Whether two grants give one resource twice, or one partition two entries of a type that it has once (R368, R373, R125). -/
def grantsClash (a b : Grant) : Bool :=
  a.type == b.type &&
  match a.type with
  | 1 => rangesMeet a.first a.count b.first b.count && a.value &&& b.value != 0
  | 3 => a.part == b.part || a.value == b.value
  | 7 =>
    (a.first == b.first && a.count == b.count) ||
      (match regionOf a, regionOf b with
       | some r, some q => rangesMeet r.base r.size q.base q.size
       | _, _ => false)
  | 8 => a.first == b.first || (a.part != b.part && a.value &&& b.value != 0)
  | 9 => a.part == b.part
  | 10 => a.part == b.part
  | _ => rangesMeet a.first a.count b.first b.count

/-- Whether no two of a list clash. -/
def noClash : List Grant → Bool
  | [] => true
  | g :: gs => !gs.any (grantsClash g) && noClash gs

/-- The grants of a layout record (R368), if step 1 of R374 accepts it. -/
def State.checkLayout (s : State) (bs : List Byte) : Option (List Grant) :=
  let n := fieldAt bs 4 4
  let raw := (List.range (if 1534 < n then 0 else n)).map (fun i => (bs.drop (64 + 32 * i)).take 32)
  let entries := raw.map grantOf
  let grants := entries.map (·.1)
  if fieldAt bs 0 2 == 1 && fieldAt bs 2 2 == 0 && fieldAt bs 8 56 == 0 && decide (1 ≤ n ∧ n ≤ 1534) && entries.all (·.2) &&
      grants.all (grantOk s.units) && noClash grants &&
      grants.all (fun g => grants.any (fun p => p.type == 9 && p.part == g.part)) && Config.layoutPowerFits raw then some grants
  else none

/-! ## Committing -/

/-- Lands everything that the copies of a list of teams still have to move (R176), in the order of the copies. -/
def State.landAll : Nat → List Nat → State → State
  | 0, _, s => s
  | fuel + 1, nums, s =>
    match s.copies.find? (fun c => nums.contains c.team && s.mayLand c) with
    | some c => State.landAll fuel nums (s.landNext c)
    | none => s

/-- Ends every sealed operation of a list of teams (R214). -/
def State.sealAll (nums : List Nat) (s : State) : State :=
  (s.seals.filter (fun o => nums.contains o.team)).foldl (fun s o => (s.endSeal o).getD s) s

/-- What a list of grants configures of a core, of the vaults that serve its stand and of the slices it uses (R20, R125, R369): pipes, vaults,
LLC colours and ways, the format regions of its tract. -/
def configOf (gs : List Grant) (core : Nat) : List Grant :=
  let stand := core / 8
  gs.filter (fun g =>
    match g.type with
    | 1 => decide (g.first ≤ core ∧ core < g.first + g.count)
    | 2 => decide (g.first ≤ stand ∧ stand < g.first + g.count) || (g.value == 1 && g.first / 16 == stand / 16 && g.extra.testBit (stand % 16))
    | 3 => true
    | 7 => g.first == core / 128
    | _ => false)

/-- What a list of grants gives a partition of memory and keys. -/
def memoryOf (gs : List Grant) (part : Nat) : List Grant :=
  gs.filter (fun g => g.part == part && (g.type == 2 || g.type == 4 || g.type == 5 || g.type == 6))

/-- Whether two lists of grants hold the same ones. -/
def sameGrants (a b : List Grant) : Bool := a.all b.contains && b.all a.contains

/-- Whether a layout changes the configuration of a core, vault or slice that a bound team is on (R374, step 2); a change of its partition's
frames, vaults or key slots is taken for one (log entry 45). -/
def State.disturbs (s : State) (gs : List Grant) (t : Team) : Bool :=
  (s.threads.any (fun x => x.team == t.num && !sameGrants (configOf s.layout.grants (coreOf x.slot)) (configOf gs (coreOf x.slot)))) ||
    !sameGrants (memoryOf s.layout.grants t.part) (memoryOf gs t.part)

/-- Pre-empts and saves every thread of the bound teams that a layout disturbs, and of those bound together with them (R374, step 2): their
engines finish first (R179). The teams held are the second component. -/
def State.quiesce (s : State) (gs : List Grant) : State × List Nat :=
  let bound := s.teams.filter (fun t => s.threads.any (fun x => x.team == t.num))
  let hit := ((bound.filter (s.disturbs gs)).flatMap s.together).eraseDups
  let nums := hit.map (·.num)
  let s1 := hit.foldl (fun s t => s.preemptTeam t []) s
  let s2 := State.landAll (((s1.copies.map (fun c => c.moves.length + 1)).foldl (· + ·) 0)) nums s1
  let s3 := State.sealAll nums s2
  (((s3.threads.filter (fun t => nums.contains t.team)).foldl (fun s t =>
    s.atSlot t.slot (fun s => let s1 := s.retireAll 64; if s1.maySave then s1.saveCurrent else s1)) s3).tidy, nums)

/-- A measurement register extended by a digest (R379; the hash of the two, log entry 13). -/
def extend (reg digest : List Byte) : List Byte := sha3 (reg ++ digest)

/-- A unit leaves service (R381). -/
def Units.leave (u : Units) : ServiceUnit → Units
  | .vault n => { u with vaultsOff := n :: u.vaultsOff }
  | .channel n => { u with channelsOff := n :: u.channelsOff }
  | .slice n => { u with slicesOff := n :: u.slicesOff }
  | .tract n => { u with tractsOff := n :: u.tractsOff }

/-- The units that were waiting to be removed leave service with a layout's commit (R381). -/
def Units.retire (u : Units) : Units := u.removing.foldl Units.leave { u with removing := [] }

/-- The numbers of the key slots that a layout grants; the firmware loads a key into each (log entry 13). -/
def keysOf (gs : List Grant) : List Nat :=
  ((gs.filter (fun g => g.type == 6)).flatMap (fun g => (List.range g.count).map (fun k => g.first + k)))

/-- Energy accounts exist for the partitions of a layout and for the operator (R376, R377). -/
def withAccounts (gs : List Grant) (l : List Account) : List Account :=
  (255 :: (gs.filter (fun g => g.type == 9)).map (·.part)).foldl (fun l p =>
    if l.any (fun a => a.id == p) then l
    else l ++ [{ id := p, cats := List.replicate 8 0, readings := 0, cls := 1, gap := 0, gen := 0 }]) l

/-- An engine whose partition has lost it or its memory (R4, R245): its revolution breaks without a current block, and it keeps no place. -/
def Ring.lost (r : Ring) : Ring := { r.break false with current := false, heads := [], pins := [], pinned := false }

/-- A ring engine under the grants that are active (R4, R245): one that is no longer its partition's breaks, and its consumer keeps it only where
the engine is now its own; one whose ports were taken breaks; one whose memory was taken breaks without a current block. -/
def State.ringUnder (s : State) (n : Nat) (r : Ring) : Ring :=
  match (s.grantsOf 8 r.part).find? (fun g => g.first == n) with
  | none =>
    { r.lost with
      user := r.user.filter (fun u => (s.team u.1).any (fun t => (s.grantsOf 8 t.part).any (fun g => g.first == n))) }
  | some g =>
    let r1 := if g.value.testBit r.up && g.value.testBit r.down then r else r.break false
    let window := fun (v : Nat) => apertureBase + 2 ^ 24 * v
    if r1.pins.all (fun p => s.frameGranted r.part p.pa (2 ^ p.bits)) && (r1.spans r1.slots.toNat (r1.s * r1.ssize)).all (fun w =>
        (List.range 128).all (fun v => !rangesMeet (window v) (2 ^ 24) w.1 w.2 || s.vaultOpen r.part (window v))) then r1
    else r1.lost

/-- A stream register that was bound to an engine which its partition has lost is unbound (R4, R240). -/
def State.streamUnder (s : State) (part : Nat) (q : Stream) : Stream :=
  if q.kind = .ring ∧ !(s.grantsOf 8 part).any (fun g => g.first == q.engine.toNat) then Stream.unboundReset else q

/-- A thread's stream registers under the layout that stands. -/
def State.threadUnder (s : State) (t : Thread) : Thread := { t with q := t.q.map (s.streamUnder t.part.toNat) }

/-- The partition that a list of grants gives a key slot to. -/
def keyOwner (gs : List Grant) (key : Nat) : Option Nat :=
  (gs.find? (fun g => g.type == 6 && decide (g.first ≤ key ∧ key < g.first + g.count))).map (·.part)

/-- The partition that a list of grants gives a byte to: of DRAM, of host memory or of a vault window. -/
def byteHolder (gs : List Grant) (pa : Nat) : Option Nat :=
  (gs.find? (fun g =>
    ((g.type == 4 || g.type == 5) && decide (g.first ≤ pa / 4096 ∧ pa / 4096 < g.first + g.count)) ||
      (g.type == 2 && inAperture pa && decide (g.first ≤ vaultOf pa ∧ vaultOf pa < g.first + g.count)))).map (·.part)

/-- What the islands do as other grants become active (R4, R125, R127, R245): translations to frames, or from tables, that are granted
no more are gone; the rings and the streams bound to them follow; the lines of a region that changes or ends leave every cache; what is known of
strong accesses to a byte ends where it changes hands; an error stays with its bytes where a format region begins or ends. -/
def State.rebank (s : State) (old : List Grant) : State :=
  let now := s.layout.grants
  let ended := (old.filterMap regionOf).filter (fun r => !s.regions.contains r)
  let same := fun (pa : Nat) => byteHolder old pa == byteHolder now pa
  let s1 := { s with
    tlb := s.tlb.filter (fun e => s.frameGranted e.part (leafFrame e.leaf) (2 ^ e.bits) && s.inDram e.part e.at_ 8)
    rings := Vector.ofFn (fun n : Fin 4 => s.ringUnder n.val s.rings[n])
    cur := s.threadUnder s.cur, others := s.others.map s.threadUnder
    lines := s.lines.map (fun x =>
      { x with seen := if ended.any (fun r => rangesMeet r.base r.size (128 * x.line) 128) then none else x.seen })
    sizes := s.sizes.filter (fun r => same r.addr), strong := s.strong.filter (fun x => same x.1)
    poison := s.poison.filter (fun x => (s.regionAt (32 * x)).isNone), badBytes := [] }
  let s2 := (s.poison.filter (fun x => (s.regionAt (32 * x)).isSome)).foldl (fun s x => s.damage (32 * x) 32) s1
  s.badBytes.foldl (fun s b => s.damage b 1) s2

/-- What a layout that stands does beyond that (R318, R383): notification queues in frames that are granted no more are gone, and a line written
under a key slot that changes hands was written under another key. -/
def State.regrant (s : State) (old : List Grant) : State :=
  let s1 := s.rebank old
  { s1 with
    pageQueues := s1.pageQueues.filter (fun q => s1.inDram q.part q.queue 65536 && s1.inDram q.part q.tail 8)
    lines := s1.lines.map (fun x => { x with key := if keyOwner old x.key = keyOwner s.layout.grants x.key then x.key else 4096 + x.key }) }

/-- A prepared layout becomes the one that stands (R374, steps 4 and 5). -/
def State.adopt (s : State) (gs : List Grant) (record : List Byte) : State :=
  let gen := s.layout.generation + 1
  ({ s with
    layout := { s.layout with generation := gen, grants := gs, shadow := none, flipped := 0, journal := .committed gen, heldTeams := [] }
    units := s.units.retire, keys := keysOf gs, accounts := withAccounts gs s.accounts
    boot := { s.boot with mr1 := extend s.boot.mr1 (sha3 record) } } : State).regrant s.layout.grants

/-- Every island has flipped and the commit is not journalled yet (R374, step 4): the new grants are active everywhere, and the shadow keeps the
old ones. -/
def State.flipAll (s : State) (gs : List Grant) : State :=
  ({ s with layout := { s.layout with grants := gs, shadow := some s.layout.grants } } : State).rebank s.layout.grants

/-- COMMIT_LAYOUT (R374). What is left in units that leave with it is migrated first (R381). Where the watchdog cuts it short the request stays
under way, and the teams stay held, until the watchdog's reset. -/
def execCommitLayout (d : Doorbell) (cut : CommitCut) (s : State) : Out :=
  if s.mailbox.busy ∨ !s.served ∨ d.door.toNat / 65536 ≠ 0 ∨ d.rsv ≠ 0 ∨ d.len ≠ 0 then
    s.request 1 d 0 false (fun s _ => ((1, []), s))
  else
    let s1 := s.ring_ 1 d
    let record := s1.mailbox.staging
    -- a unit that waits to be removed may not be granted again (R381)
    match ({ s1 with units := s1.units.retire } : State).checkLayout record with
    | none => .next (s1.answer d (2, leBytes 8 s1.layout.generation))
    | some gs =>
      let (s1', held) := s1.quiesce gs
      let s2 := s1'.evacuate gs
      let cutAt := fun (shadow : Option (List Grant)) (flipped : Nat) (journal : Journal) =>
        { s2 with layout := { s2.layout with shadow := shadow, flipped := flipped, journal := journal, heldTeams := held }
                  mailbox := { s2.mailbox with busy := true } }
      match cut with
      | .whole =>
        let s3 := s2.adopt gs (record.take (64 + 32 * gs.length))
        .next (s3.answer d (0, leBytes 8 s3.layout.generation))
      | .held => .next (cutAt none 0 s2.layout.journal)
      | .prepared => .next (cutAt (some gs) 0 (.prepared (s2.layout.generation + 1)))
      | .flipped n =>
        let t := cutAt (some gs) (min 512 n) (.prepared (s2.layout.generation + 1))
        .next (if n < 512 then t else t.flipAll gs)
      | .committed =>
        let s3 := s2.adopt gs (record.take (64 + 32 * gs.length))
        .next { s3 with layout := { s3.layout with heldTeams := held }, mailbox := { s3.mailbox with busy := true } }

/-- Every island is set back to its old bank (R374): where all had flipped, the shadow's grants are active again. -/
def State.flipBack (s : State) : State :=
  match s.layout.shadow with
  | some old => if s.layout.flipped < 512 then s else ({ s with layout := { s.layout with grants := old } } : State).rebank s.layout.grants
  | none => s

/-- What the firmware finds in the journal after a reset of the management core (R374): a prepared commit is abandoned, and counted for
each partition. -/
def State.recover (s0 : State) : State :=
  match s0.layout.journal with
  | .prepared _ =>
    let s := s0.flipBack
    { s with
      layout := { s.layout with shadow := none, flipped := 0, journal := .committed s.layout.generation, abandoned := true, heldTeams := [] }
      counts := ((s.layout.grants.filter (fun g => g.type == 9)).map (·.part)).foldl
        (fun l p => bumpCount p (fun k => { k with abandoned := k.abandoned + 1 }) l) s.counts }
  | _ => { s0 with layout := { s0.layout with heldTeams := [] } }

/-- READ_LAYOUT_STATE (R367): the generation, and whether an abandoned commit was reported since the last such read. -/
def execReadLayoutState (d : Doorbell) (s : State) : Out :=
  s.request 2 d 0 false (fun s _ =>
    ((0, leBytes 8 s.layout.generation ++ leBytes 1 (if s.layout.abandoned then 1 else 0)), { s with layout := { s.layout with abandoned := false } }))

end Sys2Proof.Machine
end

