-- ==== Sys2Proof/Machine/Services.lean ====
section
/-!
DEFINITION. The other requests of the mailbox: sessions, energy, attestation, counts, enabled units, page counters and promotions,
tear-down (R367, R370, R376, R377, R380 to R384).
-/
namespace Sys2Proof.Machine

/-- Whether the listed bytes of a request's body are 0. -/
def zeroAt (bs : List Byte) (o n : Nat) : Bool := fieldAt bs o n == 0

/-- REGISTER_SESSION (R370, R380): it replaces the partition's earlier session. -/
def execRegisterSession (d : Doorbell) (s : State) : Out :=
  s.request 3 d 3952 false (fun s bs =>
    let part := fieldAt bs 0 1
    if 64 ≤ part ∨ !zeroAt bs 1 7 then ((1, []), s)
    else if !s.partition part then ((4, []), s)
    else
      let k : Session :=
        { part := part, tenant := (bs.drop 8).take 8, model := (bs.drop 0x10).take 32, wdigest := (bs.drop 0x30).take 32
          publicKey := (bs.drop 0x50).take 1312, privateKey := (bs.drop 0x570).take 2560 }
      ((0, []), { s with sessions := k :: s.sessions.filter (fun x => x.part != part) }))

/-! ## Enabled units, attestation, counts -/

/-- A list of truth values as bits, eight to a byte (R5). -/
def bitBytes (n : Nat) (f : Nat → Bool) : List Byte :=
  (List.range (n / 8)).map (fun b => BitVec.ofNat 8 (((List.range 8).map (fun k => if f (8 * b + k) then 2 ^ k else 0)).foldl (· + ·) 0))

/-- The enabled-unit map (R370, R381). -/
def Units.map (u : Units) : List Byte :=
  let tract := fun t => !u.tractsOff.contains t
  (List.range 1024).map (fun c => BitVec.ofNat 8 (((List.range 8).map (fun g => if u.lanesOff.contains (c, g) then 0 else 2 ^ g)).foldl (· + ·) 0)) ++
    bitBytes 1024 (fun c => !u.coresOff.contains c && tract (c / 128)) ++ bitBytes 128 (fun v => !u.vaultsOff.contains v && tract (v / 16)) ++
    bitBytes 512 (fun c => !u.channelsOff.contains c && tract (c / 64)) ++ bitBytes 32 (fun c => !u.slicesOff.contains c && tract (c / 4)) ++
    bitBytes 8 tract ++ leBytes 11 0

/-- READ_ENABLED_UNITS (R370). -/
def execReadEnabledUnits (d : Doorbell) (s : State) : Out := s.request 7 d 0 true (fun s _ => ((0, s.units.map), s))

/-- The attestation report without its signature (R370). -/
def State.report (s : State) (nonce : List Byte) : List Byte :=
  leBytes 2 1 ++ [Config.stepping] ++ leBytes 5 0 ++ leBytes 8 s.layout.generation ++ sized 32 nonce ++ sized 32 s.boot.mr0 ++
    sized 32 s.boot.mr1 ++ s.units.map

/-- A signature under the part's identity key (R377, R380). -/
def State.signed (s : State) (bs : List Byte) : List Byte × State :=
  (bs ++ MlDsa.sign Config.identityKey bs (Config.signRandom s.tick), { s with tick := s.tick + 1 })

/-- ATTESTATION (R370, R380). -/
def execAttestation (d : Doorbell) (s : State) : Out :=
  s.request 5 d 32 true (fun s bs => let (r, s1) := s.signed (s.report bs); ((0, r), s1))

/-- READ_COUNTS (R367, R382). -/
def execReadCounts (d : Doorbell) (s : State) : Out :=
  s.request 6 d 1 false (fun s bs =>
    let part := fieldAt bs 0 1
    if 64 ≤ part then ((1, []), s)
    else if !s.partition part then ((4, []), s)
    else
      let k := (s.counts.find? (fun c => c.part == part)).getD
        { part := part, corrected := 0, demotions := 0, abandoned := 0, late := 0, overflows := 0, lost := 0 }
      ((0, [k.corrected, k.demotions, k.abandoned, k.late, k.overflows, k.lost].flatMap (fun x => leBytes 8 x.toNat)), s))

/-! ## Energy -/

/-- The kinds of islands (R21). -/
inductive IslandKind where
  | core
  | vault
  | llc
  | dram
  | fabric
  | hub
  deriving DecidableEq, Repr

/-- An island's kind, and its number among those of its kind: core island n has cores 4n to 4n + 3, vault island n is vault n. The order of
the 512 numbers is a DESIGN CHOICE (log entry 62): 60 to a tract, as R21 lists them, then the hub's. -/
def islandOf (id : Nat) : IslandKind × Nat :=
  let t := id / 60
  let k := id % 60
  if 480 ≤ id then (.hub, id - 480)
  else if k < 32 then (.core, 32 * t + k)
  else if k < 48 then (.vault, 16 * t + (k - 32))
  else if k < 52 then (.llc, 4 * t + (k - 48))
  else if k < 56 then (.dram, 4 * t + (k - 52))
  else (.fabric, 4 * t + (k - 56))

/-- Part of an energy reading: account, category, microjoules. -/
abbrev Share := Nat × Nat × Nat

/-- Energy divided by weights over a total; what is left over goes to the operator (R376). -/
def divided (cat energy total : Nat) (weights : List (Nat × Nat)) : List Share :=
  let given := weights.map (fun w => (w.1, cat, energy * w.2 / total))
  given ++ [(255, cat, energy - (given.map (fun x => x.2.2)).foldl (· + ·) 0)]

/-- The owner of a pipe: the partition whose grant of the core holds its bit (R292, R369). -/
def pipeOwner (gs : List Grant) (core pipe : Nat) : Option Nat :=
  (gs.find? (fun g => g.type == 1 && decide (g.first ≤ core ∧ core < g.first + g.count) && g.value.testBit pipe)).map (·.part)

/-- The partition that owns every pipe of a core island. -/
def islandOwner (gs : List Grant) (island : Nat) : Option Nat :=
  match pipeOwner gs (4 * island) 0 with
  | none => none
  | some p => if (List.range 28).all (fun i => pipeOwner gs (4 * island + i / 7) (i % 7) == some p) then some p else none

/-- By the shares that a layout reserves (R369, type 9), in 256ths. -/
def byReserve (gs : List Grant) (cat energy : Nat) : List Share :=
  let weights := (gs.filter (fun g => g.type == 9)).map (fun g => (g.part, bitsOf g.value 15 8))
  divided cat energy (max 256 ((weights.map (·.2)).foldl (· + ·) 0)) weights

/-- By counts; where there are none the operator bears it (log entry 62). -/
def byCounts (cat energy : Nat) (counts : List (Nat × Nat)) : List Share :=
  divided cat energy (max 1 ((counts.map (·.2)).foldl (· + ·) 0)) counts

/-- How the energy of one island in an interval is split (R376). -/
def IslandMeasure.shares (gs : List Grant) (m : IslandMeasure) : List Share :=
  match islandOf m.id with
  | (.core, n) =>
    (match islandOwner gs n with
     | some p => [(p, 0, m.dynamic + m.idle)]
     | none =>
       byCounts 1 m.dynamic (m.activity.map (fun x => ((pipeOwner gs (4 * n + x.1 / 7) (x.1 % 7)).getD 255, x.2))) ++ byReserve gs 6 m.idle)
  | (.vault, n) =>
    [(((gs.find? (fun g => g.type == 2 && decide (g.first ≤ n ∧ n < g.first + g.count))).map (·.part)).getD 255, 2, m.dynamic + m.idle)]
  | (.llc, _) => byCounts 3 m.dynamic m.moved ++ byReserve gs 6 m.idle
  | (.fabric, _) => byCounts 4 m.dynamic m.moved ++ byReserve gs 6 m.idle
  | (.dram, _) => byCounts 5 m.dynamic m.moved ++ byReserve gs 6 m.idle
  | (.hub, _) => byReserve gs 7 (m.dynamic + m.idle)

/-- Adds shares to an account whose energy now includes a generation's; each accumulator has 64 bits. -/
def Account.gain (gen : Nat) (shares : List Share) (a : Account) : Account :=
  let mine := shares.filter (fun x => x.1 == a.id)
  { a with
    cats := (List.range 8).map (fun c =>
      (a.cats.getD c 0 + ((mine.filter (fun x => x.2.1 == c)).map (fun x => x.2.2)).foldl (· + ·) 0) % 2 ^ 64)
    gen := gen }

/-- An island's counter and integrator go on (R375). -/
def Island.measured (l : List Island) (m : IslandMeasure) : List Island :=
  let i := (l.find? (fun x => x.id == m.id)).getD { id := m.id, cycles := 0, energy := 0 }
  { i with cycles := i.cycles + BitVec.ofNat 64 m.cycles, energy := i.energy + m.dynamic + m.idle } :: l.filter (fun x => x.id != m.id)

/-- The attribution of an interval of 2^20 hub cycles (R376), which the counts of corrected errors go by too (R381): under the generation in force when it began; the next one's is the generation in force now. -/
def State.attribute (s : State) (m : EnergyMeasure) : State :=
  let shares := m.islands.flatMap (IslandMeasure.shares s.layout.energyGrants)
  { s with
    units := { s.units with interval := s.units.interval + 1 }
    accounts := s.accounts.map (Account.gain s.layout.energyGen shares)
    islands := m.islands.foldl Island.measured s.islands
    layout := { s.layout with energyGen := s.layout.generation, energyGrants := s.layout.grants } }

/-- ENERGY_ATTRIBUTION (R376): every 2^20 hub cycles. -/
def execEnergyAttribution (m : EnergyMeasure) (s : State) : Out := .next (s.attribute m)

/-- A reading's record without its signature (R377). -/
def Account.record (a : Account) : List Byte :=
  leBytes 2 1 ++ leBytes 1 a.id ++ leBytes 1 a.cls ++ leBytes 4 a.gap ++ leBytes 8 (a.readings + 1) ++ leBytes 8 a.gen ++ leBytes 8 0 ++
    (List.range 8).flatMap (fun c => leBytes 8 (a.cats.getD c 0)) ++ leBytes 8 (a.cats.foldl (· + ·) 0) ++ leBytes 24 0

/-- ENERGY_READING (R377): the reading number rises with each reading. -/
def execEnergyReading (d : Doorbell) (s : State) : Out :=
  s.request 4 d 1 false (fun s bs =>
    let id := fieldAt bs 0 1
    if 64 ≤ id ∧ id ≠ 255 then ((1, []), s)
    else if id ≠ 255 ∧ !s.partition id then ((4, []), s)
    else
      match s.accounts.find? (fun a => a.id == id) with
      | none => ((4, []), s)
      | some a =>
        let (r, s1) := s.signed a.record
        ((0, r), { s1 with accounts := s1.accounts.map (fun x => if x.id = id then { x with readings := x.readings + 1 } else x) }))

/-! ## Page counters and promotions -/

/-- CONFIGURE_PAGE_COUNTERS (R367, R383). -/
def execConfigurePageCounters (d : Doorbell) (s : State) : Out :=
  s.request 8 d 24 false (fun s bs =>
    let part := fieldAt bs 0 1
    let queue := fieldAt bs 8 8
    let tail := fieldAt bs 16 8
    if 64 ≤ part ∨ !zeroAt bs 1 1 ∨ fieldAt bs 2 2 = 0 ∨ !zeroAt bs 4 4 ∨ queue % 65536 ≠ 0 ∨ tail % 8 ≠ 0 then ((1, []), s)
    else if !s.partition part then ((4, []), s)
    else if !s.inDram part queue 65536 ∨ !s.inDram part tail 8 then ((2, []), s)
    else
      let q : PageQueue := { part := part, threshold := fieldAt bs 2 2, queue := queue, tail := tail, written := 0 }
      ((0, []), { s with pageQueues := q :: s.pageQueues.filter (fun x => x.part != part) }))

/-- PROMOTE (R367, R384): queues a promotion and answers its number. -/
def execPromote (d : Doorbell) (s : State) : Out :=
  s.request 9 d 16 false (fun s bs =>
    let part := fieldAt bs 0 1
    let target := fieldAt bs 1 1
    let frame := fieldAt bs 8 8
    if 64 ≤ part ∨ 8 ≤ target ∨ !zeroAt bs 2 6 ∨ 2 ^ 36 ≤ frame ∨ (s.partition part ∧ !s.inDram part (4096 * frame) 4096) then ((1, []), s)
    else if !s.partition part then ((4, []), s)
    else
      let p : Promotion := { number := s.nextPromotion, part := part, frame := frame, target := target, state := .queued }
      ((0, leBytes 8 p.number), { s with promotions := s.promotions ++ [p], nextPromotion := s.nextPromotion + 1 }))

/-- CANCEL_PROMOTION (R367, R384). -/
def execCancelPromotion (d : Doorbell) (s : State) : Out :=
  s.request 0x0A d 8 false (fun s bs =>
    match s.promotions.find? (fun p => p.number == fieldAt bs 0 8) with
    | none => ((4, []), s)
    | some p =>
      match p.state with
      | .queued => ((0, []), { s with promotions := s.promotions.map (fun x => if x.number = p.number then { x with state := .cancelled } else x) })
      | .started => ((5, []), s)
      | .finished => ((4, []), s)
      | .cancelled => ((4, []), s))

/-- PAGE_PROMOTION (R384): the firmware starts a queued promotion, and then completes it into the frame `target`; a pinned frame waits. It
comes late where no launch of the partition is left (R382; log entry 17). Nothing moves where the firmware does not run (R379). -/
def execPagePromotion (number target : Nat) (s : State) : Out :=
  let setState := fun (s : State) (x : PromotionState) =>
    { s with promotions := s.promotions.map (fun p => if p.number = number then { p with state := x } else p) }
  match if s.served then s.promotions.find? (fun p => p.number == number) else none with
  | none => .next s
  | some p =>
    match p.state with
    | .queued => .next (setState s .started)
    | .started =>
      if s.frameStays p.part p.frame ∨ !s.frameFree p.part target p.target then .next s
      else
        let s1 := setState (s.moveFrame p.part p.frame target) .finished
        let late := s.launches.all (fun l => l.part != p.part || l.complete)
        .next (if late then { s1 with counts := bumpCount p.part (fun k => { k with late := k.late + 1 }) s1.counts } else s1)
    | .finished => .next s
    | .cancelled => .next s

/-! ## Tear-down -/

/-- TEAR_DOWN_LAUNCH (R367, R286): a launch that runs; code 4 for any other number. -/
def execTearDownLaunch (d : Doorbell) (s : State) : Out :=
  s.request 0x0E d 8 false (fun s bs =>
    let part := fieldAt bs 0 1
    if 64 ≤ part ∨ !zeroAt bs 1 3 then ((1, []), s)
    else
      match s.launch part (fieldAt bs 4 4) with
      | none => ((4, []), s)
      | some l => if l.complete ∨ !(s.teamsOf l).any (·.started) then ((4, []), s) else ((0, []), s.tearDown l))

end Sys2Proof.Machine
end

