-- ==== Sys2Proof/Machine/Boot.lean ====
section
/-!
DEFINITION. Boot, minimal mode and image loading (R379), resets and loss of power (R374, R376, R378) and units that leave service (R381).
-/
namespace Sys2Proof.Machine

/-- CLEAR_START_COUNT (R367, R379). -/
def execClearStartCount (d : Doorbell) (s : State) : Out :=
  s.request 0x0B d 0 true (fun s _ => ((0, []), { s with boot := { s.boot with startCount := 0 } }))

/-- IMAGE_CHUNK (R367): bytes of the staging area enter the image store. A chunk beyond the store is refused by its entry's check; one that is
longer than the staging area is malformed (log entry 13). -/
def execImageChunk (d : Doorbell) (s : State) : Out :=
  s.request 0x0C d 8 true (fun s bs =>
    let offset := fieldAt bs 0 4
    let n := fieldAt bs 4 4
    if 2 ^ 22 < offset + n then ((2, []), s)
    else if 49152 < n then ((1, []), s)
    else ((0, []), { s with boot := { s.boot with store := s.boot.store.write offset (sized n (s.mailbox.staging.take n)), length := max s.boot.length (offset + n) } }))

/-- COMMIT_IMAGE (R367, R379): the digest and the signature are checked; the image takes effect at the next reset. -/
def execCommitImage (d : Doorbell) (s : State) : Out :=
  s.request 0x0D d 32 true (fun s bs =>
    let image := s.boot.store.bytes 0 s.boot.length
    let digest := sha3 image
    if digest ≠ bs ∨ !MlDsa.verify Config.imageKey digest (Config.imageSignature image) then ((2, []), s)
    else ((0, []), { s with boot := { s.boot with pending := some image, length := 0 } }))

/-- What survives a reset of the package: retention storage, the image, the journal and the units (R374, R376, R379); `mem` is what memory
holds then. -/
def State.afterReset (s : State) (mem : Memory) (poison : List Nat) : State :=
  { State.reset with
    mem := mem, poison := poison, accounts := s.accounts, units := s.units, tick := s.tick
    layout := { State.reset.layout with generation := s.layout.generation, journal := s.layout.journal, abandoned := s.layout.abandoned,
                                        energyGen := s.layout.generation, energyGrants := [] }
    boot := { State.reset.boot with startCount := s.boot.startCount, store := s.boot.store, length := s.boot.length, pending := s.boot.pending } }

/-- The ROM starts (R379): it counts the start, and with a count of 3 or more, or without readable storage, it enters minimal mode. What it
refused stays known until the next start (log entry 13). -/
def Boot.rom (b : Boot) (image : List Byte) (trained readable : Bool) : Boot :=
  let count := b.startCount + 1
  let digest := sha3 image
  let good := MlDsa.verify Config.imageKey digest (Config.imageSignature image)
  let refused : Option (BitVec 8) := if !good then some 1 else if !trained then some 3 else none
  let reason : BitVec 8 := if !readable then 4 else refused.getD 2
  let b1 := { b with powered := true, ready := false, startCount := if readable then count else b.startCount, refused := refused }
  if !readable ∨ 3 ≤ count then { b1 with running := false, minimal := some reason }
  else { b1 with running := good && trained, minimal := none, mr0 := if good then extend b.mr0 digest else b.mr0 }

/-- The tracts are held in reset (R379): no thread, no engine and no Thrumez link runs, and no translation is cached; what DRAM and the vaults
hold stays. -/
def State.tractsInReset (s : State) : State :=
  { s with
    cur := Thread.start, others := [], copies := [], seals := [], tlb := [], barriers := [], linkUp := 0
    rings := s.rings.map (fun r => r.break false), binds := s.binds.map (fun b => { b with valid := false }) }

/-- POWER_UP (R379): the ROM runs the image that was committed last, if one was. A prepared layout is abandoned (R374). -/
def execPowerUp (b : BootInput) (s : State) : Out :=
  if s.boot.powered then .next s
  else
    let s1 := s.recover
    .next { s1 with boot := s1.boot.rom (s.boot.pending.getD b.image) b.trained b.storageReadable }

/-- FIRMWARE_READY (R379): the start count returns to 0. -/
def execFirmwareReady (s : State) : Out :=
  .next (if s.boot.running ∧ s.boot.minimal.isNone then { s with boot := { s.boot with ready := true, startCount := 0 } } else s)

/-- An account after an unrecorded interval (R378): class 2 from now on, the bound raised by 2,600 W for 2^20 hub cycles. -/
def Account.lose (a : Account) : Account := { a with cls := 2, gap := a.gap + 2730000 }

/-- POWER_LOSS (R378): memory and every register are lost; the energy of the unfinished interval is lost with them. -/
def execPowerLoss (s : State) : Out :=
  if !s.boot.powered then .next s
  else .next { s.afterReset { cells := [] } [] with accounts := s.accounts.map Account.lose }

/-- PACKAGE_RESET (R376, R379): energy is attributed at its entry; the ROM runs next. -/
def execPackageReset (m : EnergyMeasure) (s : State) : Out :=
  if !s.boot.powered then .next s
  else .next ((s.attribute m).afterReset s.mem s.poison)

/-- WATCHDOG_RESET (R374, R376, R379): energy is attributed at its entry; only the management core restarts, with the image that its ROM
accepted at the last start, or not at all; it recovers the layout from the journal. With a start count of 3 or more it enters minimal mode,
and the tracts are held in reset. -/
def execWatchdogReset (m : EnergyMeasure) (s : State) : Out :=
  if !s.boot.powered then .next s
  else
    let s1 := (s.attribute m).recover
    let count := s1.boot.startCount + 1
    let s2 := { s1 with mailbox := { s1.mailbox with busy := false } }
    if s1.boot.minimal.isSome then .next { s2 with boot := { s1.boot with startCount := count } }
    else if 3 ≤ count then
      .next { s2.tractsInReset with
        boot := { s1.boot with startCount := count, running := false, ready := false, minimal := some (s1.boot.refused.getD 2) } }
    else .next { s2 with boot := { s1.boot with startCount := count, running := s1.boot.refused.isNone, ready := false } }

/-- The partitions that hold data in a unit: the owner of a vault; those with DRAM frames in a channel, or in a tract, which its slices serve; of
a tract the owners of its vaults too. -/
def State.holders (s : State) (u : ServiceUnit) : List Nat :=
  let dram := fun (ok : Grant → Bool) => ((s.layout.grants.filter (fun g => g.type == 4 && ok g)).map (·.part)).eraseDups
  let inTract := fun (t : Nat) (g : Grant) => decide (g.first < 2 ^ 24 * (t + 1) ∧ 2 ^ 24 * t < g.first + g.count)
  match u with
  | .vault n => (s.layout.grants.filter (fun g => g.type == 2 && decide (g.first ≤ n ∧ n < g.first + g.count))).map (·.part)
  | .channel n => dram (fun g => inTract (n / 64) g && !g.each (fun f => channelAt (4096 * f) != n))
  | .slice n => dram (inTract (n / 4))
  | .tract n => (dram (inTract n) ++ (s.layout.grants.filter (fun g => g.type == 2 && rangesMeet g.first g.count (16 * n) 16)).map (·.part)).eraseDups

/-- The partitions with pipes of a core (R369). -/
def State.pipeOwners (s : State) (core : Nat) : List Nat :=
  ((s.layout.grants.filter (fun g => g.type == 1 && decide (g.first ≤ core ∧ core < g.first + g.count))).map (·.part)).eraseDups

/-- The partitions whose unit a counted one is (R381, R382): those with pipes of the core, or with data in the unit. -/
def State.ownersOf (s : State) : CountedUnit → List Nat
  | .laneGroup core _ => s.pipeOwners core
  | .x0 core => s.pipeOwners core
  | .vault n => s.holders (.vault n)
  | .slice n => s.holders (.slice n)
  | .channel n => s.holders (.channel n)

/-- LANE_GROUP_DISABLE (R77, R381): a lane group with an uncorrected error, or with 16 or more corrected ones in 2^30 hub cycles, is disabled;
the mask acts on each thread at its first bind after the write. It is the firmware that writes it (R379). -/
def execLaneGroupDisable (core lg : Nat) (uncorrected : Bool) (s : State) : Out :=
  if !s.served ∨ 1024 ≤ core ∨ 8 ≤ lg ∨ (!uncorrected ∧ s.units.recent (.laneGroup core lg) < 16) then .next s
  else
    .next { s with
      units := { s.units with lanesOff := if s.units.lanesOff.contains (core, lg) then s.units.lanesOff else (core, lg) :: s.units.lanesOff } }

/-- The counted units of a unit (R381): itself, or of a tract its vaults, slices and channels (log entry 27). -/
def countedIn : ServiceUnit → List CountedUnit
  | .vault n => [.vault n]
  | .channel n => [.channel n]
  | .slice n => [.slice n]
  | .tract n => (List.range 16).map (fun k => .vault (16 * n + k)) ++ (List.range 4).map (fun k => .slice (4 * n + k)) ++
      (List.range 64).map (fun k => .channel (64 * n + k))

/-- A unit whose data cannot be read is removed at once (R381): what a slice alone held is lost, in lines that are free (log entry 27); launches
with a thread on a core of the tract end (R12); the partitions that held data in it receive a report. -/
def State.removeNow (s : State) (u : ServiceUnit) : State :=
  let s1 := { s with units := s.units.leave u, reports := s.reports ++ (s.holders u).map (fun p => (p, u)) }
  match u with
  | .slice n =>
    ((s.lines.filter (fun x => isDram (128 * x.line) && tractOf (128 * x.line) == n / 4 && Config.lineLost s.tick x.line)).foldl
      (fun s x => s.damage (128 * x.line) 128) s1).tock
  | .tract n =>
    let hit := (s.threads.filter (fun t => coreOf t.slot / 128 == n)).filterMap (fun t => (s.team t.team).bind (fun x => s.launch x.part x.launch))
    hit.eraseDups.foldl State.tearDown s1
  | _ => s1

/-- UNIT_REMOVAL (R381): a unit with an uncorrected error, or with 16 or more corrected ones in 2^30 hub cycles, leaves with the next layout
commit; one whose data cannot be read leaves at once. -/
def execUnitRemoval (u : ServiceUnit) (why : RemovalCause) (s : State) : Out :=
  let waits : State := { s with units := { s.units with removing := s.units.removing ++ [u] } }
  if !s.served then .next s
  else match why with
  | .corrected => .next (if (countedIn u).any (fun x => decide (16 ≤ s.units.recent x)) then waits else s)
  | .uncorrected => .next waits
  | .unreadable => .next (s.removeNow u)

end Sys2Proof.Machine
end

