-- ==== Sys2Proof/Machine/Fetch.lean ====
section
/-!
DEFINITION. Fetching an instruction word (R29, R71), and the two events that are failed fetches and words that are no instruction
(R47).
-/
namespace Sys2Proof.Machine

/-- The buffered word of a physical address, if the thread fetched one since its last ifence (R71, R325). -/
def Thread.buffered (t : Thread) (pa : Nat) : Option (BitVec 32) := (t.fetched.find? (fun x => x.1 == pa)).map (·.2)

/-- The thread keeps a word that it has fetched. -/
def Thread.buffer (t : Thread) (pa : Nat) (w : BitVec 32) : Thread := { t with fetched := (pa, w) :: t.fetched.filter (fun x => x.1 != pa) }

/-- The current thread fetches the word at an address ahead of its use (R71, R325), where the address passes the checks of a fetch: an access
that takes no effect yet sets no A bit (R320), and a page with NS is not read ahead (R156). -/
def State.prefetch (s : State) (va : Nat) : State :=
  match s.scalarCheck s.cur.ctx va 4 Need.exec with
  | (.error _, _) => s
  | (.ok (pa, l), s') =>
    if s.cur.status ≠ .running ∨ va % 4 ≠ 0 ∨ leafBit l.word 6 then s else s'.mod (fun t => t.buffer pa (BitVec.ofNat 32 (leNat (s'.read pa 4))))

/-- Fetches the word at PC (R29): the checks of a 4-byte scalar load with X in place of R. A word fetched before, or ahead, may be
used although memory has changed, until an ifence (R71; log entry 9). The model's counter goes on with each fetched word. -/
def State.fetchWord (s : State) : Except ScalarFail (BitVec 32) × State :=
  let va := s.cur.pc.toNat
  match s.scalarCheck s.cur.ctx va 4 Need.exec with
  | (.error f, s') => (.error f, s')
  | (.ok (pa, l), s') =>
    let s1 := s'.touch s.cur.ctx va l false
    let now := BitVec.ofNat 32 (leNat (s1.read pa 4))
    let w := match s.cur.buffered pa with
      | none => now
      | some old => if Config.staleChoice s1.tick pa then old else now
    (.ok w, if s.cur.buffered pa = some w then s1.tock else s1.tock.mod (fun t => t.buffer pa w))

/-- A fetch that failed traps precisely: EPC and EADDR hold the PC of the word, EINFO follows R60 (R29). -/
def State.fetchTrap (s : State) (f : ScalarFail) : State :=
  s.issueTrap f.1 s.cur.pc (einfoScalar 2 false true s.cur.user f.2) false

/-- INSTRUCTION_FETCH (R29): the fetch at PC, where it fails its checks. Where it does not fail there is no such event. -/
def execInstructionFetch (s : State) : Out :=
  match s.fetchWord with
  | (.error f, s') => .next (s'.fetchTrap f)
  | (.ok _, _) => .next s

/-- ILLEGAL_INSTRUCTION (R47): a word that is no instruction traps with 0x40, EADDR the word's PC. -/
def execIllegalInstruction (_word : BitVec 32) (s : State) : Out := .next (s.wordTrap 0x40)

end Sys2Proof.Machine
end

