-- ==== Sys2Proof/Machine/Host.lean ====
section
/-!
DEFINITION. The host's own accesses through its four windows (R364 to R366, R371, R372).
-/
namespace Sys2Proof.Machine

/-- The frames that a span of bytes touches. -/
def framesOf (pa n : Nat) : List Nat := (partsOf pa n).map (fun p => p.1 / 4096)

/-- The bytes of the mailbox window (R365): requests, responses, the doorbell, which reads as 0 (log entry 63), the status, a reserved part
that reads as 0, the staging area. -/
def Mailbox.window (m : Mailbox) : List Byte :=
  sized 4096 m.request ++ sized 4096 m.response ++ leBytes 8 0 ++ leBytes 8 m.status.toNat ++ leBytes 8176 0 ++ sized 49152 m.staging

/-- The bytes of the launch-port window from an offset on (R364): a port's status doubleword lies at offset 64 of its 4 KiB; the rest reads
as 0 (log entry 63). -/
def State.portBytes (s : State) (offset n : Nat) : List Byte :=
  (List.range n).map (fun i =>
    let a := offset + i
    if a < 2 ^ 18 ∧ 64 ≤ a % 4096 ∧ a % 4096 < 72 then BitVec.ofNat 8 ((s.port (a / 4096)).word.toNat / 256 ^ (a % 8)) else 0)

/-- The boot-status window (R364, R379): the start count at offset 0, the minimal-mode reason, or 0, at offset 8 (log entry 63). -/
def Boot.window (b : Boot) : List Byte := leBytes 8 b.startCount ++ leBytes 8 ((b.minimal.map (·.toNat)).getD 0) ++ leBytes 4080 0

/-- What the host reads in a window: nothing where the span does not lie in it, or not in the frames that the process was granted. -/
def State.windowRead (s : State) (place : HostAddress) (n : Nat) : List Byte :=
  let offset := place.offset
  match place.window with
  | .memory part => if s.inDram part.toNat offset n then s.read offset n else []
  | .ports => s.portBytes offset n
  | .mailbox => (s.mailbox.window.drop offset).take n
  | .boot => (s.boot.window.drop offset).take n

/-- HOST_MEMORY_READ (R364, R371): the host reads one of its windows; accesses to memory count (R383). -/
def execHostMemoryRead (cls : HostClass) (place : HostAddress) (n : Nat) (s : State) : Out :=
  if cls = .orderedWrite then .next s
  else
    let s1 := { s with hostRead := s.windowRead place n }
    match place.window with
    | .memory part =>
      if s.inDram part.toNat place.offset n then .next (((framesOf place.offset n).foldl (fun s f => s.countRemote f 1) s1).tock) else .next s1
    | .ports => .next s1
    | .mailbox => .next s1
    | .boot => .next s1

/-- The firmware or the ROM takes up the request that stands in the request buffer (R365): `tag` is what the doorbell holds. -/
def State.doorbell (tag : Word) (s : State) : Out :=
  let m := s.mailbox
  let bs := sized 4096 m.request
  let d : Doorbell := { door := tag, len := BitVec.ofNat 16 (fieldAt bs 2 2), rsv := BitVec.ofNat 32 (fieldAt bs 4 4), body := bs.drop 8, staging := m.staging }
  match fieldAt bs 0 2 with
  | 0x01 => execCommitLayout d .whole s
  | 0x02 => execReadLayoutState d s
  | 0x03 => execRegisterSession d s
  | 0x04 => execEnergyReading d s
  | 0x05 => execAttestation d s
  | 0x06 => execReadCounts d s
  | 0x07 => execReadEnabledUnits d s
  | 0x08 => execConfigurePageCounters d s
  | 0x09 => execPromote d s
  | 0x0A => execCancelPromotion d s
  | 0x0B => execClearStartCount d s
  | 0x0C => execImageChunk d s
  | 0x0D => execCommitImage d s
  | 0x0E => execTearDownLaunch d s
  | code => execUnknownRequestCode (BitVec.ofNat 16 code) d s

/-- A write inside the mailbox window (R365): into the request buffer or the staging area, or of the doorbell by a class 1 request; writes to
the rest are ignored. -/
def State.mailboxWrite (s : State) (cls : HostClass) (offset : Nat) (bytes : List Byte) : Out :=
  let m := s.mailbox
  let laid := fun (size at_ : Nat) (old : List Byte) => let o := sized size old; (o.take at_ ++ bytes ++ o.drop (at_ + bytes.length)).take size
  if offset + bytes.length ≤ 0x1000 then .next { s with mailbox := { m with request := laid 4096 offset m.request } }
  else if offset = 0x2000 ∧ bytes.length = 8 ∧ cls = .orderedWrite then s.doorbell (BitVec.ofNat 64 (leNat bytes))
  else if 0x4000 ≤ offset ∧ offset + bytes.length ≤ 0x10000 then
    .next { s with mailbox := { m with staging := laid 49152 (offset - 0x4000) m.staging } }
  else .next s

/-- HOST_MEMORY_WRITE (R364, R371): the host writes one of its windows. Memory takes it in the frames that the process was granted; 64 bytes
at the start of a launch port, which is always class 1, submit a record (R372); the boot status takes nothing. -/
def execHostMemoryWrite (cls : HostClass) (place : HostAddress) (bytes : List Byte) (s : State) : Out :=
  if cls = .orderedRead then .next s
  else
    let offset := place.offset
    match place.window with
    | .memory part =>
      if s.inDram part.toNat offset bytes.length then
        .next ((framesOf offset bytes.length).foldl (fun s f => s.countRemote f 1) ((s.put offset bytes).spoilRings offset bytes.length))
      else .next s
    | .ports =>
      if offset % 4096 = 0 ∧ offset < 2 ^ 18 ∧ bytes.length = 64 ∧ cls = .orderedWrite then execLaunchPortWrite (BitVec.ofNat 6 (offset / 4096)) bytes s
      else .next s
    | .mailbox => s.mailboxWrite cls offset bytes
    | .boot => .next s

end Sys2Proof.Machine
end

