-- ==== Sys2Proof/Machine/Issue.lean ====
section
/-!
DEFINITION. The meaning of every queued instruction at its issue (R17): each pushes its own word; what it does is its description.
-/
namespace Sys2Proof.Machine

/-- `spawn` (R299): its push, and what the queue then does. -/
def execSpawn (f : FmtSR) (s : State) : Out := issue (packSR 0x1D 0x0 f) s

/-- `vclaim` (R303): its push, and what the queue then does. -/
def execVclaim (f : FmtSR) (s : State) : Out := issue (packSR 0x1D 0x4 f) s

/-- `vframe` (R44): its push, and what the queue then does. -/
def execVframe (f : FmtVF) (s : State) : Out := issue (packVF 0x1F f) s

/-- `qbind` (R162): its push, and what the queue then does. -/
def execQbind (f : FmtV) (s : State) : Out := issue (packV 0x20 0x0 f) s

/-- `qfree` (R165): its push, and what the queue then does. -/
def execQfree (f : FmtV) (s : State) : Out := issue (packV 0x20 0x1 f) s

/-- `vpop` (R164): its push, and what the queue then does. -/
def execVpop (f : FmtV) (s : State) : Out := issue (packV 0x20 0x2 f) s

/-- `hld` (R170): its push, and what the queue then does. -/
def execHld (f : FmtV) (s : State) : Out := issue (packV 0x20 0x3 f) s

/-- `hst` (R171): its push, and what the queue then does. -/
def execHst (f : FmtV) (s : State) : Out := issue (packV 0x20 0x4 f) s

/-- `tcopy` (R174): its push, and what the queue then does. -/
def execTcopy (f : FmtV) (s : State) : Out := issue (packV 0x20 0x5 f) s

/-- `xpin` (R204): its push, and what the queue then does. -/
def execXpin (f : FmtV) (s : State) : Out := issue (packV 0x21 0x0 f) s

/-- `xunpin` (R205): its push, and what the queue then does. -/
def execXunpin (f : FmtV) (s : State) : Out := issue (packV 0x21 0x1 f) s

/-- `xrun` (R206): its push, and what the queue then does. -/
def execXrun (f : FmtV) (s : State) : Out := issue (packV 0x21 0x2 f) s

/-- `xsplice` (R208): its push, and what the queue then does. -/
def execXsplice (f : FmtV) (s : State) : Out := issue (packV 0x21 0x3 f) s

/-- `xreap` (R209): its push, and what the queue then does. -/
def execXreap (f : FmtV) (s : State) : Out := issue (packV 0x21 0x4 f) s

/-- `xlen` (R205): its push, and what the queue then does. -/
def execXlen (f : FmtV) (s : State) : Out := issue (packV 0x21 0x5 f) s

/-- `ring.cfg` (R238): its push, and what the queue then does. -/
def execRingCfg (f : FmtV) (s : State) : Out := issue (packV 0x22 0x0 f) s

/-- `ring.post` (R239): its push, and what the queue then does. -/
def execRingPost (f : FmtV) (s : State) : Out := issue (packV 0x22 0x1 f) s

/-- `qbind.ring` (R240): its push, and what the queue then does. -/
def execQbindRing (f : FmtV) (s : State) : Out := issue (packV 0x22 0x2 f) s

/-- `ring.hdr` (R241): its push, and what the queue then does. -/
def execRingHdr (f : FmtV) (s : State) : Out := issue (packV 0x22 0x3 f) s

/-- `ring.done` (R242): its push, and what the queue then does. -/
def execRingDone (f : FmtV) (s : State) : Out := issue (packV 0x22 0x4 f) s

/-- `ring.stat` (R243): its push, and what the queue then does. -/
def execRingStat (f : FmtV) (s : State) : Out := issue (packV 0x22 0x5 f) s

/-- `ring.brk` (R386): its push, and what the queue then does. -/
def execRingBrk (f : FmtV) (s : State) : Out := issue (packV 0x22 0x6 f) s

/-- `kseal` (R214): its push, and what the queue then does. -/
def execKseal (f : FmtV) (s : State) : Out := issue (packV 0x23 0x0 f) s

/-- `kopen` (R214): its push, and what the queue then does. -/
def execKopen (f : FmtV) (s : State) : Out := issue (packV 0x23 0x1 f) s

/-- `vadd` (R107): its push, and what the queue then does. -/
def execVadd (f : FmtV) (s : State) : Out := issue (packV 0x28 0x0 f) s

/-- `vsub` (R107): its push, and what the queue then does. -/
def execVsub (f : FmtV) (s : State) : Out := issue (packV 0x28 0x1 f) s

/-- `vmul` (R107): its push, and what the queue then does. -/
def execVmul (f : FmtV) (s : State) : Out := issue (packV 0x28 0x2 f) s

/-- `vmac` (R107): its push, and what the queue then does. -/
def execVmac (f : FmtV) (s : State) : Out := issue (packV 0x28 0x3 f) s

/-- `vmin` (R107): its push, and what the queue then does. -/
def execVmin (f : FmtV) (s : State) : Out := issue (packV 0x28 0x4 f) s

/-- `vmax` (R107): its push, and what the queue then does. -/
def execVmax (f : FmtV) (s : State) : Out := issue (packV 0x28 0x5 f) s

/-- `vdiv` (R107): its push, and what the queue then does. -/
def execVdiv (f : FmtV) (s : State) : Out := issue (packV 0x28 0x6 f) s

/-- `vrem` (R107): its push, and what the queue then does. -/
def execVrem (f : FmtV) (s : State) : Out := issue (packV 0x28 0x7 f) s

/-- `vand` (R107): its push, and what the queue then does. -/
def execVand (f : FmtV) (s : State) : Out := issue (packV 0x28 0x8 f) s

/-- `vor` (R107): its push, and what the queue then does. -/
def execVor (f : FmtV) (s : State) : Out := issue (packV 0x28 0x9 f) s

/-- `vxor` (R107): its push, and what the queue then does. -/
def execVxor (f : FmtV) (s : State) : Out := issue (packV 0x28 0xA f) s

/-- `vsll` (R107): its push, and what the queue then does. -/
def execVsll (f : FmtV) (s : State) : Out := issue (packV 0x28 0xB f) s

/-- `vsrl` (R107): its push, and what the queue then does. -/
def execVsrl (f : FmtV) (s : State) : Out := issue (packV 0x28 0xC f) s

/-- `vsra` (R107): its push, and what the queue then does. -/
def execVsra (f : FmtV) (s : State) : Out := issue (packV 0x28 0xD f) s

/-- `vadds` (R107): its push, and what the queue then does. -/
def execVadds (f : FmtV) (s : State) : Out := issue (packV 0x28 0xE f) s

/-- `vsubs` (R107): its push, and what the queue then does. -/
def execVsubs (f : FmtV) (s : State) : Out := issue (packV 0x28 0xF f) s

/-- `vsqrt` (R109): its push, and what the queue then does. -/
def execVsqrt (f : FmtV) (s : State) : Out := issue (packV 0x29 0x0 f) s

/-- `vnmac` (R109): its push, and what the queue then does. -/
def execVnmac (f : FmtV) (s : State) : Out := issue (packV 0x29 0x1 f) s

/-- `vabs` (R109): its push, and what the queue then does. -/
def execVabs (f : FmtV) (s : State) : Out := issue (packV 0x29 0x2 f) s

/-- `vneg` (R109): its push, and what the queue then does. -/
def execVneg (f : FmtV) (s : State) : Out := issue (packV 0x29 0x3 f) s

/-- `vsgnj` (R109): its push, and what the queue then does. -/
def execVsgnj (f : FmtV) (s : State) : Out := issue (packV 0x29 0x4 f) s

/-- `vexp2` (R109): its push, and what the queue then does. -/
def execVexp2 (f : FmtV) (s : State) : Out := issue (packV 0x29 0x5 f) s

/-- `vlog2` (R109): its push, and what the queue then does. -/
def execVlog2 (f : FmtV) (s : State) : Out := issue (packV 0x29 0x6 f) s

/-- `vrint` (R109): its push, and what the queue then does. -/
def execVrint (f : FmtV) (s : State) : Out := issue (packV 0x29 0x7 f) s

/-- `vscale` (R109): its push, and what the queue then does. -/
def execVscale (f : FmtV) (s : State) : Out := issue (packV 0x29 0x8 f) s

/-- `vcmp.eq` (R110): its push, and what the queue then does. -/
def execVcmpEq (f : FmtVC) (s : State) : Out := issue (packVC 0x2A 0x0 f) s

/-- `vcmp.ne` (R110): its push, and what the queue then does. -/
def execVcmpNe (f : FmtVC) (s : State) : Out := issue (packVC 0x2A 0x1 f) s

/-- `vcmp.lt` (R110): its push, and what the queue then does. -/
def execVcmpLt (f : FmtVC) (s : State) : Out := issue (packVC 0x2A 0x2 f) s

/-- `vcmp.ge` (R110): its push, and what the queue then does. -/
def execVcmpGe (f : FmtVC) (s : State) : Out := issue (packVC 0x2A 0x3 f) s

/-- `vcmp.le` (R110): its push, and what the queue then does. -/
def execVcmpLe (f : FmtVC) (s : State) : Out := issue (packVC 0x2A 0x4 f) s

/-- `vcmp.gt` (R110): its push, and what the queue then does. -/
def execVcmpGt (f : FmtVC) (s : State) : Out := issue (packVC 0x2A 0x5 f) s

/-- `vcmp.un` (R110): its push, and what the queue then does. -/
def execVcmpUn (f : FmtVC) (s : State) : Out := issue (packVC 0x2A 0x6 f) s

/-- `vcmp.ord` (R110): its push, and what the queue then does. -/
def execVcmpOrd (f : FmtVC) (s : State) : Out := issue (packVC 0x2A 0x7 f) s

/-- `pand` (R111): its push, and what the queue then does. -/
def execPand (f : FmtVP) (s : State) : Out := issue (packVP 0x2B 0x0 f) s

/-- `por` (R111): its push, and what the queue then does. -/
def execPor (f : FmtVP) (s : State) : Out := issue (packVP 0x2B 0x1 f) s

/-- `pxor` (R111): its push, and what the queue then does. -/
def execPxor (f : FmtVP) (s : State) : Out := issue (packVP 0x2B 0x2 f) s

/-- `pandn` (R111): its push, and what the queue then does. -/
def execPandn (f : FmtVP) (s : State) : Out := issue (packVP 0x2B 0x3 f) s

/-- `pnot` (R111): its push, and what the queue then does. -/
def execPnot (f : FmtVP) (s : State) : Out := issue (packVP 0x2B 0x4 f) s

/-- `pset` (R111): its push, and what the queue then does. -/
def execPset (f : FmtVP) (s : State) : Out := issue (packVP 0x2B 0x5 f) s

/-- `pfirst` (R111): its push, and what the queue then does. -/
def execPfirst (f : FmtVP) (s : State) : Out := issue (packVP 0x2B 0x6 f) s

/-- `pbrkb` (R111): its push, and what the queue then does. -/
def execPbrkb (f : FmtVP) (s : State) : Out := issue (packVP 0x2B 0x7 f) s

/-- `pbrka` (R111): its push, and what the queue then does. -/
def execPbrka (f : FmtVP) (s : State) : Out := issue (packVP 0x2B 0x8 f) s

/-- `vmov` (R112): its push, and what the queue then does. -/
def execVmov (f : FmtV) (s : State) : Out := issue (packV 0x2C 0x0 f) s

/-- `vslideup` (R112): its push, and what the queue then does. -/
def execVslideup (f : FmtV) (s : State) : Out := issue (packV 0x2C 0x1 f) s

/-- `vslidedn` (R112): its push, and what the queue then does. -/
def execVslidedn (f : FmtV) (s : State) : Out := issue (packV 0x2C 0x2 f) s

/-- `vperm` (R112): its push, and what the queue then does. -/
def execVperm (f : FmtV) (s : State) : Out := issue (packV 0x2C 0x3 f) s

/-- `vcompress` (R113): its push, and what the queue then does. -/
def execVcompress (f : FmtV) (s : State) : Out := issue (packV 0x2C 0x4 f) s

/-- `vexpand` (R113): its push, and what the queue then does. -/
def execVexpand (f : FmtV) (s : State) : Out := issue (packV 0x2C 0x5 f) s

/-- `vbcast` (R112): its push, and what the queue then does. -/
def execVbcast (f : FmtV) (s : State) : Out := issue (packV 0x2C 0x6 f) s

/-- `vrev` (R112): its push, and what the queue then does. -/
def execVrev (f : FmtV) (s : State) : Out := issue (packV 0x2C 0x7 f) s

/-- `vext` (R114): its push, and what the queue then does. -/
def execVext (f : FmtV) (s : State) : Out := issue (packV 0x2C 0x8 f) s

/-- `vins` (R114): its push, and what the queue then does. -/
def execVins (f : FmtV) (s : State) : Out := issue (packV 0x2C 0x9 f) s

/-- `vred.osum` (R115): its push, and what the queue then does. -/
def execVredOsum (f : FmtV) (s : State) : Out := issue (packV 0x2D 0x0 f) s

/-- `vred.sum` (R116): its push, and what the queue then does. -/
def execVredSum (f : FmtV) (s : State) : Out := issue (packV 0x2D 0x1 f) s

/-- `vred.max` (R115): its push, and what the queue then does. -/
def execVredMax (f : FmtV) (s : State) : Out := issue (packV 0x2D 0x2 f) s

/-- `vred.min` (R115): its push, and what the queue then does. -/
def execVredMin (f : FmtV) (s : State) : Out := issue (packV 0x2D 0x3 f) s

/-- `vred.and` (R115): its push, and what the queue then does. -/
def execVredAnd (f : FmtV) (s : State) : Out := issue (packV 0x2D 0x4 f) s

/-- `vred.or` (R115): its push, and what the queue then does. -/
def execVredOr (f : FmtV) (s : State) : Out := issue (packV 0x2D 0x5 f) s

/-- `vred.xor` (R115): its push, and what the queue then does. -/
def execVredXor (f : FmtV) (s : State) : Out := issue (packV 0x2D 0x6 f) s

/-- `vscan.sum` (R117): its push, and what the queue then does. -/
def execVscanSum (f : FmtV) (s : State) : Out := issue (packV 0x2D 0x7 f) s

/-- `vscan.max` (R117): its push, and what the queue then does. -/
def execVscanMax (f : FmtV) (s : State) : Out := issue (packV 0x2D 0x8 f) s

/-- `vscan.min` (R117): its push, and what the queue then does. -/
def execVscanMin (f : FmtV) (s : State) : Out := issue (packV 0x2D 0x9 f) s

/-- `vred.gsum` (R115): its push, and what the queue then does. -/
def execVredGsum (f : FmtV) (s : State) : Out := issue (packV 0x2D 0xA f) s

/-- `vcvt` (R119): its push, and what the queue then does. -/
def execVcvt (f : FmtV) (s : State) : Out := issue (packV 0x2E 0x0 f) s

/-- `vcvt.rtz` (R119): its push, and what the queue then does. -/
def execVcvtRtz (f : FmtV) (s : State) : Out := issue (packV 0x2E 0x1 f) s

/-- `vcvt.sat` (R119): its push, and what the queue then does. -/
def execVcvtSat (f : FmtV) (s : State) : Out := issue (packV 0x2E 0x2 f) s

/-- `vcvtf` (R119): its push, and what the queue then does. -/
def execVcvtf (f : FmtV) (s : State) : Out := issue (packV 0x2E 0x3 f) s

/-- `vpopc` (R120): its push, and what the queue then does. -/
def execVpopc (f : FmtV) (s : State) : Out := issue (packV 0x2E 0x4 f) s

/-- `vfirst` (R120): its push, and what the queue then does. -/
def execVfirst (f : FmtV) (s : State) : Out := issue (packV 0x2E 0x5 f) s

/-- `vfromp` (R120): its push, and what the queue then does. -/
def execVfromp (f : FmtV) (s : State) : Out := issue (packV 0x2E 0x6 f) s

/-- `vtop` (R120): its push, and what the queue then does. -/
def execVtop (f : FmtV) (s : State) : Out := issue (packV 0x2E 0x7 f) s

/-- `vadd` (R108): its push, and what the queue then does. -/
def execVaddVs (f : FmtV) (s : State) : Out := issue (packV 0x2F 0x0 f) s

/-- `vsub` (R108): its push, and what the queue then does. -/
def execVsubVs (f : FmtV) (s : State) : Out := issue (packV 0x2F 0x1 f) s

/-- `vmul` (R108): its push, and what the queue then does. -/
def execVmulVs (f : FmtV) (s : State) : Out := issue (packV 0x2F 0x2 f) s

/-- `vmac` (R108): its push, and what the queue then does. -/
def execVmacVs (f : FmtV) (s : State) : Out := issue (packV 0x2F 0x3 f) s

/-- `vmin` (R108): its push, and what the queue then does. -/
def execVminVs (f : FmtV) (s : State) : Out := issue (packV 0x2F 0x4 f) s

/-- `vmax` (R108): its push, and what the queue then does. -/
def execVmaxVs (f : FmtV) (s : State) : Out := issue (packV 0x2F 0x5 f) s

/-- `vdiv` (R108): its push, and what the queue then does. -/
def execVdivVs (f : FmtV) (s : State) : Out := issue (packV 0x2F 0x6 f) s

/-- `vand` (R108): its push, and what the queue then does. -/
def execVandVs (f : FmtV) (s : State) : Out := issue (packV 0x2F 0x8 f) s

/-- `vor` (R108): its push, and what the queue then does. -/
def execVorVs (f : FmtV) (s : State) : Out := issue (packV 0x2F 0x9 f) s

/-- `vxor` (R108): its push, and what the queue then does. -/
def execVxorVs (f : FmtV) (s : State) : Out := issue (packV 0x2F 0xA f) s

/-- `vsll` (R108): its push, and what the queue then does. -/
def execVsllVs (f : FmtV) (s : State) : Out := issue (packV 0x2F 0xB f) s

/-- `vsrl` (R108): its push, and what the queue then does. -/
def execVsrlVs (f : FmtV) (s : State) : Out := issue (packV 0x2F 0xC f) s

/-- `vsra` (R108): its push, and what the queue then does. -/
def execVsraVs (f : FmtV) (s : State) : Out := issue (packV 0x2F 0xD f) s

/-- `vadds` (R108): its push, and what the queue then does. -/
def execVaddsVs (f : FmtV) (s : State) : Out := issue (packV 0x2F 0xE f) s

/-- `vsubs` (R108): its push, and what the queue then does. -/
def execVsubsVs (f : FmtV) (s : State) : Out := issue (packV 0x2F 0xF f) s

/-- `vld` (R145): its push, and what the queue then does. -/
def execVld (f : FmtV) (s : State) : Out := issue (packV 0x30 0x0 f) s

/-- `vlds` (R145): its push, and what the queue then does. -/
def execVlds (f : FmtV) (s : State) : Out := issue (packV 0x30 0x1 f) s

/-- `vldt` (R149): its push, and what the queue then does. -/
def execVldt (f : FmtV) (s : State) : Out := issue (packV 0x30 0x2 f) s

/-- `vldseg2` (R150): its push, and what the queue then does. -/
def execVldseg2 (f : FmtV) (s : State) : Out := issue (packV 0x30 0x8 f) s

/-- `vldseg3` (R150): its push, and what the queue then does. -/
def execVldseg3 (f : FmtV) (s : State) : Out := issue (packV 0x30 0x9 f) s

/-- `vldseg4` (R150): its push, and what the queue then does. -/
def execVldseg4 (f : FmtV) (s : State) : Out := issue (packV 0x30 0xA f) s

/-- `vldseg5` (R150): its push, and what the queue then does. -/
def execVldseg5 (f : FmtV) (s : State) : Out := issue (packV 0x30 0xB f) s

/-- `vldseg6` (R150): its push, and what the queue then does. -/
def execVldseg6 (f : FmtV) (s : State) : Out := issue (packV 0x30 0xC f) s

/-- `vldseg7` (R150): its push, and what the queue then does. -/
def execVldseg7 (f : FmtV) (s : State) : Out := issue (packV 0x30 0xD f) s

/-- `vldseg8` (R150): its push, and what the queue then does. -/
def execVldseg8 (f : FmtV) (s : State) : Out := issue (packV 0x30 0xE f) s

/-- `vst` (R145): its push, and what the queue then does. -/
def execVst (f : FmtV) (s : State) : Out := issue (packV 0x31 0x0 f) s

/-- `vsts` (R145): its push, and what the queue then does. -/
def execVsts (f : FmtV) (s : State) : Out := issue (packV 0x31 0x1 f) s

/-- `vstt` (R149): its push, and what the queue then does. -/
def execVstt (f : FmtV) (s : State) : Out := issue (packV 0x31 0x2 f) s

/-- `vstseg2` (R150): its push, and what the queue then does. -/
def execVstseg2 (f : FmtV) (s : State) : Out := issue (packV 0x31 0x8 f) s

/-- `vstseg3` (R150): its push, and what the queue then does. -/
def execVstseg3 (f : FmtV) (s : State) : Out := issue (packV 0x31 0x9 f) s

/-- `vstseg4` (R150): its push, and what the queue then does. -/
def execVstseg4 (f : FmtV) (s : State) : Out := issue (packV 0x31 0xA f) s

/-- `vstseg5` (R150): its push, and what the queue then does. -/
def execVstseg5 (f : FmtV) (s : State) : Out := issue (packV 0x31 0xB f) s

/-- `vstseg6` (R150): its push, and what the queue then does. -/
def execVstseg6 (f : FmtV) (s : State) : Out := issue (packV 0x31 0xC f) s

/-- `vstseg7` (R150): its push, and what the queue then does. -/
def execVstseg7 (f : FmtV) (s : State) : Out := issue (packV 0x31 0xD f) s

/-- `vstseg8` (R150): its push, and what the queue then does. -/
def execVstseg8 (f : FmtV) (s : State) : Out := issue (packV 0x31 0xE f) s

/-- `vgather.32` (R153): its push, and what the queue then does. -/
def execVgather32 (f : FmtV) (s : State) : Out := issue (packV 0x32 0x0 f) s

/-- `vgather.64` (R153): its push, and what the queue then does. -/
def execVgather64 (f : FmtV) (s : State) : Out := issue (packV 0x32 0x1 f) s

/-- `vgather.x32` (R153): its push, and what the queue then does. -/
def execVgatherX32 (f : FmtV) (s : State) : Out := issue (packV 0x32 0x2 f) s

/-- `vgather.x64` (R153): its push, and what the queue then does. -/
def execVgatherX64 (f : FmtV) (s : State) : Out := issue (packV 0x32 0x3 f) s

/-- `vscatter.32` (R153): its push, and what the queue then does. -/
def execVscatter32 (f : FmtV) (s : State) : Out := issue (packV 0x32 0x8 f) s

/-- `vscatter.64` (R153): its push, and what the queue then does. -/
def execVscatter64 (f : FmtV) (s : State) : Out := issue (packV 0x32 0x9 f) s

/-- `vscatter.x32` (R153): its push, and what the queue then does. -/
def execVscatterX32 (f : FmtV) (s : State) : Out := issue (packV 0x32 0xA f) s

/-- `vscatter.x64` (R153): its push, and what the queue then does. -/
def execVscatterX64 (f : FmtV) (s : State) : Out := issue (packV 0x32 0xB f) s

/-- `vamo.add` (R261): its push, and what the queue then does. -/
def execVamoAdd (f : FmtV) (s : State) : Out := issue (packV 0x33 0x0 f) s

/-- `vamo.min` (R261): its push, and what the queue then does. -/
def execVamoMin (f : FmtV) (s : State) : Out := issue (packV 0x33 0x1 f) s

/-- `vamo.max` (R261): its push, and what the queue then does. -/
def execVamoMax (f : FmtV) (s : State) : Out := issue (packV 0x33 0x2 f) s

/-- `vamo.and` (R261): its push, and what the queue then does. -/
def execVamoAnd (f : FmtV) (s : State) : Out := issue (packV 0x33 0x3 f) s

/-- `vamo.or` (R261): its push, and what the queue then does. -/
def execVamoOr (f : FmtV) (s : State) : Out := issue (packV 0x33 0x4 f) s

/-- `vamo.xor` (R261): its push, and what the queue then does. -/
def execVamoXor (f : FmtV) (s : State) : Out := issue (packV 0x33 0x5 f) s

/-- `vamo.swp` (R261): its push, and what the queue then does. -/
def execVamoSwp (f : FmtV) (s : State) : Out := issue (packV 0x33 0x6 f) s

/-- `vamof.add` (R261): its push, and what the queue then does. -/
def execVamofAdd (f : FmtV) (s : State) : Out := issue (packV 0x33 0x8 f) s

/-- `vamof.min` (R261): its push, and what the queue then does. -/
def execVamofMin (f : FmtV) (s : State) : Out := issue (packV 0x33 0x9 f) s

/-- `vamof.max` (R261): its push, and what the queue then does. -/
def execVamofMax (f : FmtV) (s : State) : Out := issue (packV 0x33 0xA f) s

/-- `vamof.and` (R261): its push, and what the queue then does. -/
def execVamofAnd (f : FmtV) (s : State) : Out := issue (packV 0x33 0xB f) s

/-- `vamof.or` (R261): its push, and what the queue then does. -/
def execVamofOr (f : FmtV) (s : State) : Out := issue (packV 0x33 0xC f) s

/-- `vamof.xor` (R261): its push, and what the queue then does. -/
def execVamofXor (f : FmtV) (s : State) : Out := issue (packV 0x33 0xD f) s

/-- `vamof.swp` (R261): its push, and what the queue then does. -/
def execVamofSwp (f : FmtV) (s : State) : Out := issue (packV 0x33 0xE f) s

/-- `mmab` (R136): its push, and what the queue then does. -/
def execMmab (f : FmtV) (s : State) : Out := issue (packV 0x34 0x0 f) s

/-- `mmah` (R137): its push, and what the queue then does. -/
def execMmah (f : FmtV) (s : State) : Out := issue (packV 0x34 0x1 f) s

/-- `mzero` (R138): its push, and what the queue then does. -/
def execMzero (f : FmtV) (s : State) : Out := issue (packV 0x34 0x2 f) s

/-- `vwmac` (R139): its push, and what the queue then does. -/
def execVwmac (f : FmtV) (s : State) : Out := issue (packV 0x34 0x3 f) s

/-- `vbnorm` (R140): its push, and what the queue then does. -/
def execVbnorm (f : FmtV) (s : State) : Out := issue (packV 0x34 0x4 f) s

/-- `vbexp.f32` (R141): its push, and what the queue then does. -/
def execVbexpF32 (f : FmtV) (s : State) : Out := issue (packV 0x34 0x5 f) s

/-- `vbexp.get` (R142): its push, and what the queue then does. -/
def execVbexpGet (f : FmtV) (s : State) : Out := issue (packV 0x34 0x6 f) s

/-- `vbexp.set` (R142): its push, and what the queue then does. -/
def execVbexpSet (f : FmtV) (s : State) : Out := issue (packV 0x34 0x7 f) s

/-- `vgroup` (R182): its push, and what the queue then does. -/
def execVgroup (f : FmtV) (s : State) : Out := issue (packV 0x35 0x0 f) s

/-- `vxsect` (R183): its push, and what the queue then does. -/
def execVxsect (f : FmtV) (s : State) : Out := issue (packV 0x35 0x1 f) s

/-- `vmerge` (R185): its push, and what the queue then does. -/
def execVmerge (f : FmtV) (s : State) : Out := issue (packV 0x35 0x2 f) s

/-- `vsegsum` (R186): its push, and what the queue then does. -/
def execVsegsum (f : FmtV) (s : State) : Out := issue (packV 0x35 0x3 f) s

/-- `vsegmax` (R186): its push, and what the queue then does. -/
def execVsegmax (f : FmtV) (s : State) : Out := issue (packV 0x35 0x4 f) s

/-- `vsegmin` (R186): its push, and what the queue then does. -/
def execVsegmin (f : FmtV) (s : State) : Out := issue (packV 0x35 0x5 f) s

/-- `tcon` (R190): its push, and what the queue then does. -/
def execTcon (f : FmtV) (s : State) : Out := issue (packV 0x36 0x0 f) s

/-- `vdesc` (R224): its push, and what the queue then does. -/
def execVdesc (f : FmtV) (s : State) : Out := issue (packVdesc f) s

/-- `vpnode` (R227): its push, and what the queue then does. -/
def execVpnode (f : FmtV) (s : State) : Out := issue (packV 0x37 0x4 f) s

/-- `vpget` (R228): its push, and what the queue then does. -/
def execVpget (f : FmtV) (s : State) : Out := issue (packV 0x37 0x5 f) s

/-- `vpclr` (R228): its push, and what the queue then does. -/
def execVpclr (f : FmtV) (s : State) : Out := issue (packV 0x37 0x6 f) s

end Sys2Proof.Machine
end

