-- ==== Sys2Proof/Machine/Scalar.lean ====
section
/-!
DEFINITION. The scalar ALU, immediate forms, upper immediates, branches and jumps (R53 to R57, R63 to R65).
-/
namespace Sys2Proof.Machine

/-- The sources of a register-register word. -/
def FmtSR.sources (f : FmtSR) : List Source := [(f.ga, f.sa, 0), (f.gb, f.sb, 1)]

/-- The source of a unary register word. -/
def FmtSR.source (f : FmtSR) : List Source := [(f.ga, f.sa, 0)]

/-- A register-register operation: g(gd) receives a function of g(ga) and g(gb), both read before gd is written (R53). -/
def aluOp (f : FmtSR) (op : Word → Word → Word) (s : State) : Out :=
  s.scalar false (FmtSR.sources f) [f.gd] (fun s => s.mod (fun t => (t.gwrite f.gd (op (t.gread f.ga) (t.gread f.gb))).next))

/-- A unary operation (R53). -/
def aluUnary (f : FmtSR) (op : Word → Word) (s : State) : Out :=
  s.scalar false (FmtSR.source f) [f.gd] (fun s => s.mod (fun t => (t.gwrite f.gd (op (t.gread f.ga))).next))

/-- An operation with an immediate: g(gd) receives a function of g(ga) (R55, R56). -/
def aluImm (f : FmtSI) (op : Word → Word) (s : State) : Out :=
  s.scalar false [(f.ga, f.sa, 0)] [f.gd] (fun s => s.mod (fun t => (t.gwrite f.gd (op (t.gread f.ga))).next))

/-- 1 where a comparison holds, else 0 (R53). -/
def oneIf (b : Bool) : Word := if b then 1 else 0

/-- The register shifts use b[5:0] alone (R53). -/
def amount (b : Word) : Nat := (b.extractLsb' 0 6).toNat

/-- Signed division truncated toward zero: -1 by zero, and the most negative number by -1 is itself (R54). -/
def divSigned (a b : Word) : Word := if b = 0 then BitVec.allOnes 64 else BitVec.ofInt 64 (a.toInt.tdiv b.toInt)

/-- Unsigned division: all ones by zero (R54). -/
def divUnsigned (a b : Word) : Word := if b = 0 then BitVec.allOnes 64 else a / b

/-- Signed remainder, with the sign of the dividend: a by zero (R54). -/
def remSigned (a b : Word) : Word := if b = 0 then a else BitVec.ofInt 64 (a.toInt.tmod b.toInt)

/-- Unsigned remainder: a by zero (R54). -/
def remUnsigned (a b : Word) : Word := if b = 0 then a else a % b

/-- Leading zero bits of a 64-bit value, 0..64 (R53). -/
def leadingZeros (a : Word) : Nat := if a = 0 then 64 else 63 - Nat.log2 a.toNat

/-- Trailing zero bits of a 64-bit value, 0..64 (R53). -/
def trailingZeros (a : Word) : Nat := ((List.range 64).find? (fun i => a.getLsbD i)).getD 64

/-- One bits of a 64-bit value (R53). -/
def onesCount (a : Word) : Nat := ((List.range 64).filter (fun i => a.getLsbD i)).length


/-- `add` (R53): g(gd) receives a + b. -/
def execAdd (f : FmtSR) (s : State) : Out := aluOp f (fun a b => a + b) s

/-- `sub` (R53): a - b. -/
def execSub (f : FmtSR) (s : State) : Out := aluOp f (fun a b => a - b) s

/-- `and` (R53): a & b. -/
def execAnd (f : FmtSR) (s : State) : Out := aluOp f (fun a b => a &&& b) s

/-- `or` (R53): a | b. -/
def execOr (f : FmtSR) (s : State) : Out := aluOp f (fun a b => a ||| b) s

/-- `xor` (R53): a ^ b. -/
def execXor (f : FmtSR) (s : State) : Out := aluOp f (fun a b => a ^^^ b) s

/-- `andn` (R53): a & ~b. -/
def execAndn (f : FmtSR) (s : State) : Out := aluOp f (fun a b => a &&& ~~~b) s

/-- `sll` (R53): a << b[5:0]. -/
def execSll (f : FmtSR) (s : State) : Out := aluOp f (fun a b => a <<< amount b) s

/-- `srl` (R53): a >> b[5:0], filling with zeros. -/
def execSrl (f : FmtSR) (s : State) : Out := aluOp f (fun a b => a >>> amount b) s

/-- `sra` (R53): a >> b[5:0], filling with a[63]. -/
def execSra (f : FmtSR) (s : State) : Out := aluOp f (fun a b => a.sshiftRight (amount b)) s

/-- `rol` (R53): a rotated left by b[5:0]. -/
def execRol (f : FmtSR) (s : State) : Out := aluOp f (fun a b => a.rotateLeft (amount b)) s

/-- `mul` (R53): (a × b)[63:0]. -/
def execMul (f : FmtSR) (s : State) : Out := aluOp f (fun a b => a * b) s

/-- `mulh` (R53): (sa(a) × sa(b))[127:64]. -/
def execMulh (f : FmtSR) (s : State) : Out := aluOp f (fun a b => BitVec.ofInt 64 (a.toInt * b.toInt / 2 ^ 64)) s

/-- `mulhz` (R53): (ua(a) × ua(b))[127:64]. -/
def execMulhz (f : FmtSR) (s : State) : Out := aluOp f (fun a b => BitVec.ofNat 64 (a.toNat * b.toNat / 2 ^ 64)) s

/-- `div` (R54): signed quotient. -/
def execDiv (f : FmtSR) (s : State) : Out := aluOp f (fun a b => divSigned a b) s

/-- `divz` (R54): unsigned quotient. -/
def execDivz (f : FmtSR) (s : State) : Out := aluOp f (fun a b => divUnsigned a b) s

/-- `rem` (R54): signed remainder. -/
def execRem (f : FmtSR) (s : State) : Out := aluOp f (fun a b => remSigned a b) s

/-- `remz` (R54): unsigned remainder. -/
def execRemz (f : FmtSR) (s : State) : Out := aluOp f (fun a b => remUnsigned a b) s

/-- `ceq` (R53): 1 if a = b, else 0. -/
def execCeq (f : FmtSR) (s : State) : Out := aluOp f (fun a b => oneIf (a == b)) s

/-- `cne` (R53): 1 if a ≠ b, else 0. -/
def execCne (f : FmtSR) (s : State) : Out := aluOp f (fun a b => oneIf (a != b)) s

/-- `clt` (R53): 1 if sa(a) < sa(b), else 0. -/
def execClt (f : FmtSR) (s : State) : Out := aluOp f (fun a b => oneIf (a.slt b)) s

/-- `cge` (R53): 1 if sa(a) ≥ sa(b), else 0. -/
def execCge (f : FmtSR) (s : State) : Out := aluOp f (fun a b => oneIf (!a.slt b)) s

/-- `clo` (R53): 1 if ua(a) < ua(b), else 0. -/
def execClo (f : FmtSR) (s : State) : Out := aluOp f (fun a b => oneIf (a.ult b)) s

/-- `chs` (R53): 1 if ua(a) ≥ ua(b), else 0. -/
def execChs (f : FmtSR) (s : State) : Out := aluOp f (fun a b => oneIf (!a.ult b)) s

/-- `min` (R53): the smaller of sa(a), sa(b). -/
def execMin (f : FmtSR) (s : State) : Out := aluOp f (fun a b => if a.slt b then a else b) s

/-- `max` (R53): the larger of sa(a), sa(b). -/
def execMax (f : FmtSR) (s : State) : Out := aluOp f (fun a b => if a.slt b then b else a) s

/-- `minz` (R53): the smaller of ua(a), ua(b). -/
def execMinz (f : FmtSR) (s : State) : Out := aluOp f (fun a b => if a.ult b then a else b) s

/-- `maxz` (R53): the larger of ua(a), ua(b). -/
def execMaxz (f : FmtSR) (s : State) : Out := aluOp f (fun a b => if a.ult b then b else a) s

/-- `clz` (R53): leading zero bits of a. -/
def execClz (f : FmtSR) (s : State) : Out := aluUnary f (fun a => BitVec.ofNat 64 (leadingZeros a)) s

/-- `ctz` (R53): trailing zero bits of a. -/
def execCtz (f : FmtSR) (s : State) : Out := aluUnary f (fun a => BitVec.ofNat 64 (trailingZeros a)) s

/-- `popc` (R53): one bits of a. -/
def execPopc (f : FmtSR) (s : State) : Out := aluUnary f (fun a => BitVec.ofNat 64 (onesCount a)) s

/-- `addi` (R55): g(ga) + sext(imm15). -/
def execAddi (f : FmtSI) (s : State) : Out := aluImm f (fun a => a + f.imm.signExtend 64) s

/-- `andi` (R55): g(ga) & zext(imm15). -/
def execAndi (f : FmtSI) (s : State) : Out := aluImm f (fun a => a &&& f.imm.zeroExtend 64) s

/-- `ori` (R55): g(ga) | zext(imm15). -/
def execOri (f : FmtSI) (s : State) : Out := aluImm f (fun a => a ||| f.imm.zeroExtend 64) s

/-- `xori` (R55): g(ga) ^ zext(imm15). -/
def execXori (f : FmtSI) (s : State) : Out := aluImm f (fun a => a ^^^ f.imm.zeroExtend 64) s

/-- The amount of a shift by an immediate, imm15[5:0] (R32, R56). -/
def immAmount (f : FmtSI) : Nat := (f.imm.extractLsb' 0 6).toNat

/-- `sll` by an immediate (R56): shift left by the amount. -/
def execSllImm (f : FmtSI) (s : State) : Out := aluImm f (fun a => a <<< immAmount f) s

/-- `srl` by an immediate (R56): shift right, filling with zeros. -/
def execSrlImm (f : FmtSI) (s : State) : Out := aluImm f (fun a => a >>> immAmount f) s

/-- `sra` by an immediate (R56): shift right, filling with g(ga)[63]. -/
def execSraImm (f : FmtSI) (s : State) : Out := aluImm f (fun a => a.sshiftRight (immAmount f)) s

/-- `rol` by an immediate (R56): rotate left. -/
def execRolImm (f : FmtSI) (s : State) : Out := aluImm f (fun a => a.rotateLeft (immAmount f)) s

/-- `ldhi` (R57): g(gd) := sext(imm21) << 15. -/
def execLdhi (f : FmtSU) (s : State) : Out :=
  s.scalar false [] [f.gd] (fun s => s.mod (fun t => (t.gwrite f.gd (f.imm.signExtend 64 <<< 15)).next))

/-- `addpc` (R57): g(gd) := PC + (sext(imm21) << 15), PC the word's own address. -/
def execAddpc (f : FmtSU) (s : State) : Out :=
  s.scalar false [] [f.gd] (fun s => s.mod (fun t => (t.gwrite f.gd (t.pc + (f.imm.signExtend 64 <<< 15))).next))

/-- A branch (R63): to PC + 4 × sext(offset) where the condition holds, else to PC + 4. The strict bit covers both sources. -/
def branch (f : FmtSB) (cond : Word → Word → Bool) (s : State) : Out :=
  s.scalar false [(f.ga, f.strict, 0), (f.gb, f.strict, 1)] [] (fun s => s.mod (fun t =>
    { t with pc := if cond (t.gread f.ga) (t.gread f.gb) then t.pc + (f.offset.signExtend 64 <<< 2) else t.pc + 4 }))

/-- `beq` (R63): taken when g(ga) = g(gb). -/
def execBeq (f : FmtSB) (s : State) : Out := branch f (fun a b => a == b) s

/-- `bne` (R63): taken when g(ga) ≠ g(gb). -/
def execBne (f : FmtSB) (s : State) : Out := branch f (fun a b => a != b) s

/-- `blt` (R63): taken when sa(g(ga)) < sa(g(gb)). -/
def execBlt (f : FmtSB) (s : State) : Out := branch f (fun a b => a.slt b) s

/-- `bge` (R63): taken when sa(g(ga)) ≥ sa(g(gb)). -/
def execBge (f : FmtSB) (s : State) : Out := branch f (fun a b => !a.slt b) s

/-- `blo` (R63): taken when ua(g(ga)) < ua(g(gb)). -/
def execBlo (f : FmtSB) (s : State) : Out := branch f (fun a b => a.ult b) s

/-- `bhs` (R63): taken when ua(g(ga)) ≥ ua(g(gb)). -/
def execBhs (f : FmtSB) (s : State) : Out := branch f (fun a b => !a.ult b) s

/-- `jal` (R64): g(gd) := PC + 4; PC := PC + 4 × sext(offset). A target that cannot be fetched traps at the target. -/
def execJal (f : FmtSJ) (s : State) : Out :=
  s.scalar false [] [f.gd] (fun s => s.mod (fun t =>
    { t.gwrite f.gd (t.pc + 4) with pc := t.pc + (f.offset.signExtend 64 <<< 2) }))

/-- `jalr` (R65): t := g(ga) + sext(imm15), read before gd is written; a misaligned t traps with 0x47, EADDR t and EINFO.fetch 1,
gd unchanged; otherwise g(gd) := PC + 4 and PC := t. -/
def execJalr (f : FmtSI) (s : State) : Out :=
  s.scalar false [(f.ga, f.sa, 0)] [f.gd] (fun s =>
    let target := s.cur.gread f.ga + f.imm.signExtend 64
    if target.extractLsb' 0 2 ≠ 0 then s.issueTrap 0x47 target (einfoScalar 2 false true s.cur.user 0) false
    else s.mod (fun t => { t.gwrite f.gd (t.pc + 4) with pc := target }))

end Sys2Proof.Machine
end

