-- ==== Sys2Proof/Machine/Dispatch.lean ====
section
/-!
DEFINITION. One arm for each instruction and event of the table: its meaning, called by name.
-/
namespace Sys2Proof.Machine

/-- The meaning of every instruction and event. -/
def exec (i : Instr) (s : State) : Host.Outcome State Fault Refusal :=
  match i with
  | .add f => Sys2Proof.Machine.execAdd f s
  | .sub f => Sys2Proof.Machine.execSub f s
  | .and f => Sys2Proof.Machine.execAnd f s
  | .or f => Sys2Proof.Machine.execOr f s
  | .xor f => Sys2Proof.Machine.execXor f s
  | .andn f => Sys2Proof.Machine.execAndn f s
  | .sll f => Sys2Proof.Machine.execSll f s
  | .srl f => Sys2Proof.Machine.execSrl f s
  | .sra f => Sys2Proof.Machine.execSra f s
  | .rol f => Sys2Proof.Machine.execRol f s
  | .mul f => Sys2Proof.Machine.execMul f s
  | .mulh f => Sys2Proof.Machine.execMulh f s
  | .mulhz f => Sys2Proof.Machine.execMulhz f s
  | .div f => Sys2Proof.Machine.execDiv f s
  | .divz f => Sys2Proof.Machine.execDivz f s
  | .rem f => Sys2Proof.Machine.execRem f s
  | .remz f => Sys2Proof.Machine.execRemz f s
  | .ceq f => Sys2Proof.Machine.execCeq f s
  | .cne f => Sys2Proof.Machine.execCne f s
  | .clt f => Sys2Proof.Machine.execClt f s
  | .cge f => Sys2Proof.Machine.execCge f s
  | .clo f => Sys2Proof.Machine.execClo f s
  | .chs f => Sys2Proof.Machine.execChs f s
  | .min f => Sys2Proof.Machine.execMin f s
  | .max f => Sys2Proof.Machine.execMax f s
  | .minz f => Sys2Proof.Machine.execMinz f s
  | .maxz f => Sys2Proof.Machine.execMaxz f s
  | .clz f => Sys2Proof.Machine.execClz f s
  | .ctz f => Sys2Proof.Machine.execCtz f s
  | .popc f => Sys2Proof.Machine.execPopc f s
  | .addi f => Sys2Proof.Machine.execAddi f s
  | .andi f => Sys2Proof.Machine.execAndi f s
  | .ori f => Sys2Proof.Machine.execOri f s
  | .xori f => Sys2Proof.Machine.execXori f s
  | .sllImm f => Sys2Proof.Machine.execSllImm f s
  | .srlImm f => Sys2Proof.Machine.execSrlImm f s
  | .sraImm f => Sys2Proof.Machine.execSraImm f s
  | .rolImm f => Sys2Proof.Machine.execRolImm f s
  | .ldhi f => Sys2Proof.Machine.execLdhi f s
  | .addpc f => Sys2Proof.Machine.execAddpc f s
  | .ldD f => Sys2Proof.Machine.execLdD f s
  | .ldW f => Sys2Proof.Machine.execLdW f s
  | .ldWz f => Sys2Proof.Machine.execLdWz f s
  | .ldH f => Sys2Proof.Machine.execLdH f s
  | .ldHz f => Sys2Proof.Machine.execLdHz f s
  | .ldB f => Sys2Proof.Machine.execLdB f s
  | .ldBz f => Sys2Proof.Machine.execLdBz f s
  | .stD f => Sys2Proof.Machine.execStD f s
  | .stW f => Sys2Proof.Machine.execStW f s
  | .stH f => Sys2Proof.Machine.execStH f s
  | .stB f => Sys2Proof.Machine.execStB f s
  | .beq f => Sys2Proof.Machine.execBeq f s
  | .bne f => Sys2Proof.Machine.execBne f s
  | .blt f => Sys2Proof.Machine.execBlt f s
  | .bge f => Sys2Proof.Machine.execBge f s
  | .blo f => Sys2Proof.Machine.execBlo f s
  | .bhs f => Sys2Proof.Machine.execBhs f s
  | .jal f => Sys2Proof.Machine.execJal f s
  | .jalr f => Sys2Proof.Machine.execJalr f s
  | .aswpW f => Sys2Proof.Machine.execAswpW f s
  | .aaddW f => Sys2Proof.Machine.execAaddW f s
  | .aandW f => Sys2Proof.Machine.execAandW f s
  | .aorW f => Sys2Proof.Machine.execAorW f s
  | .axorW f => Sys2Proof.Machine.execAxorW f s
  | .aminW f => Sys2Proof.Machine.execAminW f s
  | .amaxW f => Sys2Proof.Machine.execAmaxW f s
  | .aminzW f => Sys2Proof.Machine.execAminzW f s
  | .amaxzW f => Sys2Proof.Machine.execAmaxzW f s
  | .acasW f => Sys2Proof.Machine.execAcasW f s
  | .aswpD f => Sys2Proof.Machine.execAswpD f s
  | .aaddD f => Sys2Proof.Machine.execAaddD f s
  | .aandD f => Sys2Proof.Machine.execAandD f s
  | .aorD f => Sys2Proof.Machine.execAorD f s
  | .axorD f => Sys2Proof.Machine.execAxorD f s
  | .aminD f => Sys2Proof.Machine.execAminD f s
  | .amaxD f => Sys2Proof.Machine.execAmaxD f s
  | .aminzD f => Sys2Proof.Machine.execAminzD f s
  | .amaxzD f => Sys2Proof.Machine.execAmaxzD f s
  | .acasD f => Sys2Proof.Machine.execAcasD f s
  | .ldAcqW f => Sys2Proof.Machine.execLdAcqW f s
  | .ldAcqD f => Sys2Proof.Machine.execLdAcqD f s
  | .stRelW f => Sys2Proof.Machine.execStRelW f s
  | .stRelD f => Sys2Proof.Machine.execStRelD f s
  | .fenceSc f => Sys2Proof.Machine.execFenceSc f s
  | .await f => Sys2Proof.Machine.execAwait f s
  | .wake f => Sys2Proof.Machine.execWake f s
  | .barArrive f => Sys2Proof.Machine.execBarArrive f s
  | .barWait f => Sys2Proof.Machine.execBarWait f s
  | .barSync f => Sys2Proof.Machine.execBarSync f s
  | .barCfg f => Sys2Proof.Machine.execBarCfg f s
  | .barStat f => Sys2Proof.Machine.execBarStat f s
  | .mfs f => Sys2Proof.Machine.execMfs f s
  | .mts f => Sys2Proof.Machine.execMts f s
  | .mtsVl f => Sys2Proof.Machine.execMtsVl f s
  | .mtsVt f => Sys2Proof.Machine.execMtsVt f s
  | .mtsEs f => Sys2Proof.Machine.execMtsEs f s
  | .mtsDirty f => Sys2Proof.Machine.execMtsDirty f s
  | .trap f => Sys2Proof.Machine.execTrap f s
  | .eret f => Sys2Proof.Machine.execEret f s
  | .ifence f => Sys2Proof.Machine.execIfence f s
  | .tlbinvAll f => Sys2Proof.Machine.execTlbinvAll f s
  | .tlbinvCtx f => Sys2Proof.Machine.execTlbinvCtx f s
  | .tlbinvVa f => Sys2Proof.Machine.execTlbinvVa f s
  | .cflush f => Sys2Proof.Machine.execCflush f s
  | .cclean f => Sys2Proof.Machine.execCclean f s
  | .cfetch f => Sys2Proof.Machine.execCfetch f s
  | .tlbprobe f => Sys2Proof.Machine.execTlbprobe f s
  | .spawn f => Sys2Proof.Machine.execSpawn f s
  | .exit f => Sys2Proof.Machine.execExit f s
  | .yield f => Sys2Proof.Machine.execYield f s
  | .self f => Sys2Proof.Machine.execSelf f s
  | .vclaim f => Sys2Proof.Machine.execVclaim f s
  | .vsetl f => Sys2Proof.Machine.execVsetl f s
  | .vsett f => Sys2Proof.Machine.execVsett f s
  | .vsetes f => Sys2Proof.Machine.execVsetes f s
  | .vframe f => Sys2Proof.Machine.execVframe f s
  | .qbind f => Sys2Proof.Machine.execQbind f s
  | .qfree f => Sys2Proof.Machine.execQfree f s
  | .vpop f => Sys2Proof.Machine.execVpop f s
  | .hld f => Sys2Proof.Machine.execHld f s
  | .hst f => Sys2Proof.Machine.execHst f s
  | .tcopy f => Sys2Proof.Machine.execTcopy f s
  | .xpin f => Sys2Proof.Machine.execXpin f s
  | .xunpin f => Sys2Proof.Machine.execXunpin f s
  | .xrun f => Sys2Proof.Machine.execXrun f s
  | .xsplice f => Sys2Proof.Machine.execXsplice f s
  | .xreap f => Sys2Proof.Machine.execXreap f s
  | .xlen f => Sys2Proof.Machine.execXlen f s
  | .ringCfg f => Sys2Proof.Machine.execRingCfg f s
  | .ringPost f => Sys2Proof.Machine.execRingPost f s
  | .qbindRing f => Sys2Proof.Machine.execQbindRing f s
  | .ringHdr f => Sys2Proof.Machine.execRingHdr f s
  | .ringDone f => Sys2Proof.Machine.execRingDone f s
  | .ringStat f => Sys2Proof.Machine.execRingStat f s
  | .ringBrk f => Sys2Proof.Machine.execRingBrk f s
  | .kseal f => Sys2Proof.Machine.execKseal f s
  | .kopen f => Sys2Proof.Machine.execKopen f s
  | .vadd f => Sys2Proof.Machine.execVadd f s
  | .vsub f => Sys2Proof.Machine.execVsub f s
  | .vmul f => Sys2Proof.Machine.execVmul f s
  | .vmac f => Sys2Proof.Machine.execVmac f s
  | .vmin f => Sys2Proof.Machine.execVmin f s
  | .vmax f => Sys2Proof.Machine.execVmax f s
  | .vdiv f => Sys2Proof.Machine.execVdiv f s
  | .vrem f => Sys2Proof.Machine.execVrem f s
  | .vand f => Sys2Proof.Machine.execVand f s
  | .vor f => Sys2Proof.Machine.execVor f s
  | .vxor f => Sys2Proof.Machine.execVxor f s
  | .vsll f => Sys2Proof.Machine.execVsll f s
  | .vsrl f => Sys2Proof.Machine.execVsrl f s
  | .vsra f => Sys2Proof.Machine.execVsra f s
  | .vadds f => Sys2Proof.Machine.execVadds f s
  | .vsubs f => Sys2Proof.Machine.execVsubs f s
  | .vsqrt f => Sys2Proof.Machine.execVsqrt f s
  | .vnmac f => Sys2Proof.Machine.execVnmac f s
  | .vabs f => Sys2Proof.Machine.execVabs f s
  | .vneg f => Sys2Proof.Machine.execVneg f s
  | .vsgnj f => Sys2Proof.Machine.execVsgnj f s
  | .vexp2 f => Sys2Proof.Machine.execVexp2 f s
  | .vlog2 f => Sys2Proof.Machine.execVlog2 f s
  | .vrint f => Sys2Proof.Machine.execVrint f s
  | .vscale f => Sys2Proof.Machine.execVscale f s
  | .vcmpEq f => Sys2Proof.Machine.execVcmpEq f s
  | .vcmpNe f => Sys2Proof.Machine.execVcmpNe f s
  | .vcmpLt f => Sys2Proof.Machine.execVcmpLt f s
  | .vcmpGe f => Sys2Proof.Machine.execVcmpGe f s
  | .vcmpLe f => Sys2Proof.Machine.execVcmpLe f s
  | .vcmpGt f => Sys2Proof.Machine.execVcmpGt f s
  | .vcmpUn f => Sys2Proof.Machine.execVcmpUn f s
  | .vcmpOrd f => Sys2Proof.Machine.execVcmpOrd f s
  | .pand f => Sys2Proof.Machine.execPand f s
  | .por f => Sys2Proof.Machine.execPor f s
  | .pxor f => Sys2Proof.Machine.execPxor f s
  | .pandn f => Sys2Proof.Machine.execPandn f s
  | .pnot f => Sys2Proof.Machine.execPnot f s
  | .pset f => Sys2Proof.Machine.execPset f s
  | .pfirst f => Sys2Proof.Machine.execPfirst f s
  | .pbrkb f => Sys2Proof.Machine.execPbrkb f s
  | .pbrka f => Sys2Proof.Machine.execPbrka f s
  | .vmov f => Sys2Proof.Machine.execVmov f s
  | .vslideup f => Sys2Proof.Machine.execVslideup f s
  | .vslidedn f => Sys2Proof.Machine.execVslidedn f s
  | .vperm f => Sys2Proof.Machine.execVperm f s
  | .vcompress f => Sys2Proof.Machine.execVcompress f s
  | .vexpand f => Sys2Proof.Machine.execVexpand f s
  | .vbcast f => Sys2Proof.Machine.execVbcast f s
  | .vrev f => Sys2Proof.Machine.execVrev f s
  | .vext f => Sys2Proof.Machine.execVext f s
  | .vins f => Sys2Proof.Machine.execVins f s
  | .vredOsum f => Sys2Proof.Machine.execVredOsum f s
  | .vredSum f => Sys2Proof.Machine.execVredSum f s
  | .vredMax f => Sys2Proof.Machine.execVredMax f s
  | .vredMin f => Sys2Proof.Machine.execVredMin f s
  | .vredAnd f => Sys2Proof.Machine.execVredAnd f s
  | .vredOr f => Sys2Proof.Machine.execVredOr f s
  | .vredXor f => Sys2Proof.Machine.execVredXor f s
  | .vscanSum f => Sys2Proof.Machine.execVscanSum f s
  | .vscanMax f => Sys2Proof.Machine.execVscanMax f s
  | .vscanMin f => Sys2Proof.Machine.execVscanMin f s
  | .vredGsum f => Sys2Proof.Machine.execVredGsum f s
  | .vcvt f => Sys2Proof.Machine.execVcvt f s
  | .vcvtRtz f => Sys2Proof.Machine.execVcvtRtz f s
  | .vcvtSat f => Sys2Proof.Machine.execVcvtSat f s
  | .vcvtf f => Sys2Proof.Machine.execVcvtf f s
  | .vpopc f => Sys2Proof.Machine.execVpopc f s
  | .vfirst f => Sys2Proof.Machine.execVfirst f s
  | .vfromp f => Sys2Proof.Machine.execVfromp f s
  | .vtop f => Sys2Proof.Machine.execVtop f s
  | .vaddVs f => Sys2Proof.Machine.execVaddVs f s
  | .vsubVs f => Sys2Proof.Machine.execVsubVs f s
  | .vmulVs f => Sys2Proof.Machine.execVmulVs f s
  | .vmacVs f => Sys2Proof.Machine.execVmacVs f s
  | .vminVs f => Sys2Proof.Machine.execVminVs f s
  | .vmaxVs f => Sys2Proof.Machine.execVmaxVs f s
  | .vdivVs f => Sys2Proof.Machine.execVdivVs f s
  | .vandVs f => Sys2Proof.Machine.execVandVs f s
  | .vorVs f => Sys2Proof.Machine.execVorVs f s
  | .vxorVs f => Sys2Proof.Machine.execVxorVs f s
  | .vsllVs f => Sys2Proof.Machine.execVsllVs f s
  | .vsrlVs f => Sys2Proof.Machine.execVsrlVs f s
  | .vsraVs f => Sys2Proof.Machine.execVsraVs f s
  | .vaddsVs f => Sys2Proof.Machine.execVaddsVs f s
  | .vsubsVs f => Sys2Proof.Machine.execVsubsVs f s
  | .vld f => Sys2Proof.Machine.execVld f s
  | .vlds f => Sys2Proof.Machine.execVlds f s
  | .vldt f => Sys2Proof.Machine.execVldt f s
  | .vldseg2 f => Sys2Proof.Machine.execVldseg2 f s
  | .vldseg3 f => Sys2Proof.Machine.execVldseg3 f s
  | .vldseg4 f => Sys2Proof.Machine.execVldseg4 f s
  | .vldseg5 f => Sys2Proof.Machine.execVldseg5 f s
  | .vldseg6 f => Sys2Proof.Machine.execVldseg6 f s
  | .vldseg7 f => Sys2Proof.Machine.execVldseg7 f s
  | .vldseg8 f => Sys2Proof.Machine.execVldseg8 f s
  | .vst f => Sys2Proof.Machine.execVst f s
  | .vsts f => Sys2Proof.Machine.execVsts f s
  | .vstt f => Sys2Proof.Machine.execVstt f s
  | .vstseg2 f => Sys2Proof.Machine.execVstseg2 f s
  | .vstseg3 f => Sys2Proof.Machine.execVstseg3 f s
  | .vstseg4 f => Sys2Proof.Machine.execVstseg4 f s
  | .vstseg5 f => Sys2Proof.Machine.execVstseg5 f s
  | .vstseg6 f => Sys2Proof.Machine.execVstseg6 f s
  | .vstseg7 f => Sys2Proof.Machine.execVstseg7 f s
  | .vstseg8 f => Sys2Proof.Machine.execVstseg8 f s
  | .vgather32 f => Sys2Proof.Machine.execVgather32 f s
  | .vgather64 f => Sys2Proof.Machine.execVgather64 f s
  | .vgatherX32 f => Sys2Proof.Machine.execVgatherX32 f s
  | .vgatherX64 f => Sys2Proof.Machine.execVgatherX64 f s
  | .vscatter32 f => Sys2Proof.Machine.execVscatter32 f s
  | .vscatter64 f => Sys2Proof.Machine.execVscatter64 f s
  | .vscatterX32 f => Sys2Proof.Machine.execVscatterX32 f s
  | .vscatterX64 f => Sys2Proof.Machine.execVscatterX64 f s
  | .vamoAdd f => Sys2Proof.Machine.execVamoAdd f s
  | .vamoMin f => Sys2Proof.Machine.execVamoMin f s
  | .vamoMax f => Sys2Proof.Machine.execVamoMax f s
  | .vamoAnd f => Sys2Proof.Machine.execVamoAnd f s
  | .vamoOr f => Sys2Proof.Machine.execVamoOr f s
  | .vamoXor f => Sys2Proof.Machine.execVamoXor f s
  | .vamoSwp f => Sys2Proof.Machine.execVamoSwp f s
  | .vamofAdd f => Sys2Proof.Machine.execVamofAdd f s
  | .vamofMin f => Sys2Proof.Machine.execVamofMin f s
  | .vamofMax f => Sys2Proof.Machine.execVamofMax f s
  | .vamofAnd f => Sys2Proof.Machine.execVamofAnd f s
  | .vamofOr f => Sys2Proof.Machine.execVamofOr f s
  | .vamofXor f => Sys2Proof.Machine.execVamofXor f s
  | .vamofSwp f => Sys2Proof.Machine.execVamofSwp f s
  | .mmab f => Sys2Proof.Machine.execMmab f s
  | .mmah f => Sys2Proof.Machine.execMmah f s
  | .mzero f => Sys2Proof.Machine.execMzero f s
  | .vwmac f => Sys2Proof.Machine.execVwmac f s
  | .vbnorm f => Sys2Proof.Machine.execVbnorm f s
  | .vbexpF32 f => Sys2Proof.Machine.execVbexpF32 f s
  | .vbexpGet f => Sys2Proof.Machine.execVbexpGet f s
  | .vbexpSet f => Sys2Proof.Machine.execVbexpSet f s
  | .vgroup f => Sys2Proof.Machine.execVgroup f s
  | .vxsect f => Sys2Proof.Machine.execVxsect f s
  | .vmerge f => Sys2Proof.Machine.execVmerge f s
  | .vsegsum f => Sys2Proof.Machine.execVsegsum f s
  | .vsegmax f => Sys2Proof.Machine.execVsegmax f s
  | .vsegmin f => Sys2Proof.Machine.execVsegmin f s
  | .tcon f => Sys2Proof.Machine.execTcon f s
  | .vdesc f => Sys2Proof.Machine.execVdesc f s
  | .vpnode f => Sys2Proof.Machine.execVpnode f s
  | .vpget f => Sys2Proof.Machine.execVpget f s
  | .vpclr f => Sys2Proof.Machine.execVpclr f s
  | .entryDispatch => Sys2Proof.Machine.execEntryDispatch s
  | .entryRetire => Sys2Proof.Machine.execEntryRetire s
  | .sliceExpiry slot groups => Sys2Proof.Machine.execSliceExpiry slot groups s
  | .slotUnbind slot groups => Sys2Proof.Machine.execSlotUnbind slot groups s
  | .contextSave slot => Sys2Proof.Machine.execContextSave slot s
  | .slotBind slot => Sys2Proof.Machine.execSlotBind slot s
  | .streamEngineFetch q => Sys2Proof.Machine.execStreamEngineFetch q s
  | .copyLanding copy => Sys2Proof.Machine.execCopyLanding copy s
  | .ksealCompletion op => Sys2Proof.Machine.execKsealCompletion op s
  | .kopenCompletion op => Sys2Proof.Machine.execKopenCompletion op s
  | .barrierPhaseComplete team bar => Sys2Proof.Machine.execBarrierPhaseComplete team bar s
  | .awaitWakeup slot => Sys2Proof.Machine.execAwaitWakeup slot s
  | .ringHandshake r up down => Sys2Proof.Machine.execRingHandshake r up down s
  | .ringArrival r b => Sys2Proof.Machine.execRingArrival r b s
  | .ringForward r => Sys2Proof.Machine.execRingForward r s
  | .ringSlotRelease r => Sys2Proof.Machine.execRingSlotRelease r s
  | .ringBreakFlit r => Sys2Proof.Machine.execRingBreakFlit r s
  | .thrumezLinkLoss port => Sys2Proof.Machine.execThrumezLinkLoss port s
  | .thrumezLinkRetrain port => Sys2Proof.Machine.execThrumezLinkRetrain port s
  | .launchPortWrite part record => Sys2Proof.Machine.execLaunchPortWrite part record s
  | .launchStart team placement => Sys2Proof.Machine.execLaunchStart team placement s
  | .commitLayout d cut => Sys2Proof.Machine.execCommitLayout d cut s
  | .readLayoutState d => Sys2Proof.Machine.execReadLayoutState d s
  | .registerSession d => Sys2Proof.Machine.execRegisterSession d s
  | .energyReading d => Sys2Proof.Machine.execEnergyReading d s
  | .attestation d => Sys2Proof.Machine.execAttestation d s
  | .readCounts d => Sys2Proof.Machine.execReadCounts d s
  | .readEnabledUnits d => Sys2Proof.Machine.execReadEnabledUnits d s
  | .configurePageCounters d => Sys2Proof.Machine.execConfigurePageCounters d s
  | .promote d => Sys2Proof.Machine.execPromote d s
  | .cancelPromotion d => Sys2Proof.Machine.execCancelPromotion d s
  | .pagePromotion number target => Sys2Proof.Machine.execPagePromotion number target s
  | .clearStartCount d => Sys2Proof.Machine.execClearStartCount d s
  | .imageChunk d => Sys2Proof.Machine.execImageChunk d s
  | .commitImage d => Sys2Proof.Machine.execCommitImage d s
  | .tearDownLaunch d => Sys2Proof.Machine.execTearDownLaunch d s
  | .hostMemoryRead cls place n => Sys2Proof.Machine.execHostMemoryRead cls place n s
  | .hostMemoryWrite cls place bytes => Sys2Proof.Machine.execHostMemoryWrite cls place bytes s
  | .energyAttribution m => Sys2Proof.Machine.execEnergyAttribution m s
  | .powerUp b => Sys2Proof.Machine.execPowerUp b s
  | .firmwareReady => Sys2Proof.Machine.execFirmwareReady s
  | .powerLoss => Sys2Proof.Machine.execPowerLoss s
  | .watchdogReset m => Sys2Proof.Machine.execWatchdogReset m s
  | .laneGroupDisable core lg uncorrected => Sys2Proof.Machine.execLaneGroupDisable core lg uncorrected s
  | .illegalInstruction word => Sys2Proof.Machine.execIllegalInstruction word s
  | .instructionFetch => Sys2Proof.Machine.execInstructionFetch s
  | .unknownRequestCode code d => Sys2Proof.Machine.execUnknownRequestCode code d s
  | .packageReset m => Sys2Proof.Machine.execPackageReset m s
  | .unitRemoval u readable => Sys2Proof.Machine.execUnitRemoval u readable s

end Sys2Proof.Machine
end

