-- ==== Sys2Proof/Machine/Upset.lean ====
section
/-!
DEFINITION. What happens beside the events of the table: an entry's destination fills group by group (R36), and errors of the hardware come
into being, which the manual describes from their discovery on (R86, R90, R133, R157, R159, R382; log entry 50).
-/
namespace Sys2Proof.Machine

/-- The n-th entry of the current thread's queue passes one more element group of its destination (R18, R36), where nothing that it reads there
is still empty (R37, R39, R40). -/
def State.fill (s : State) (n : Nat) : State :=
  if !s.cur.mayFill n then s
  else
    s.mod (fun t => { t with
      queue := t.queue.zipIdx.map (fun x =>
        if x.2 = n then
          match x.1.phase with
          | .done r => { x.1 with phase := .done r.fill }
          | .unstarted => { x.1 with running := x.1.running.map Retire.fill }
        else x.1) })

/-- An error of the hardware, or what it counts; or system software writes a page counter (R383). -/
def State.upset (s : State) : Upset → State
  | .memory pa => s.damage pa 1
  | .register r bits => s.mod (fun t => { t with bad := t.bad.set r.toNat (t.bad[r.toNat]'r.isLt ||| bits) r.isLt })
  | .side r entries => s.mod (fun t => { t with sideBad := t.sideBad.set r.toNat (t.sideBad[r.toNat]'r.isLt ||| entries) r.isLt })
  | .residue row again => s.mod (fun t => { t with residue := (row, again) :: t.residue })
  | .corrected u => s.correct u (s.ownersOf u) 1
  | .demotion part => { s with counts := bumpCount part (fun k => { k with demotions := k.demotions + 1 }) s.counts }
  | .counter frame value => { s with pageCounters := setCounter (PageCounter.ofWord frame value) s.pageCounters }

end Sys2Proof.Machine
end

