-- ==== Sys2Proof/Machine/Cycle.lean ====
section
/-!
DEFINITION. What one step of the package does.
-/
namespace Sys2Proof.Machine

/-- The scalar part of the current thread (R29, R47, R48): it fetches the word at PC and, where the word is an instruction,
runs it. -/
noncomputable def scalarStep (s : State) : Host.Outcome State Fault Refusal :=
  match s.fetchWord with
  | (.error f, s') => .next (s'.fetchTrap f)
  | (.ok w, s') =>
    match decode w with
    | .instr i => exec i s'
    | .reject _ => execIllegalInstruction w s'

/-- Whether an event carries the instructions of a thread on: an instruction itself, its fetch, a queue's dispatch or retirement, or a
pre-emption, which completes entries. -/
def carriesOn (i : Instr) : Bool :=
  match i with
  | .entryDispatch => true
  | .entryRetire => true
  | .sliceExpiry _ _ => true
  | .slotUnbind _ _ => true
  | .contextSave _ => true
  | .illegalInstruction _ => true
  | .instructionFetch => true
  | i => (encode i).isSome

/-- One step: what the agenda names next; else what is in flight; else the current thread's next instruction, after which the next
thread takes its turn. With no thread running nothing happens, and no instruction executes while some islands have flipped to a new layout
and others have not (R374). -/
noncomputable def State.cycle (s : State) : Host.Outcome State Fault Refusal :=
  match s.agenda with
  | .event i :: rest => if s.layout.mixed && carriesOn i then .next { s with agenda := rest } else exec i { s with agenda := rest }
  | .scalar :: rest =>
    if s.cur.status = .running ∧ !s.layout.mixed then scalarStep { s with agenda := rest } else .next { s with agenda := rest }
  | .turn :: rest => .next ({ s with agenda := rest } : State).rotate
  | .fill n :: rest => .next (({ s with agenda := rest } : State).fill n)
  | .upset u :: rest => .next (({ s with agenda := rest } : State).upset u)
  | .prefetch va :: rest => .next (({ s with agenda := rest } : State).prefetch va)
  | .migrate part frame target :: rest => .next (({ s with agenda := rest } : State).migrate part frame target)
  | .migrateVault part vault target :: rest => .next (({ s with agenda := rest } : State).migrateVault part vault target)
  | [] =>
    match s.background with
    | some s' => .next s'
    | none => if s.cur.status = .running ∧ !s.layout.mixed then endTurnOut (scalarStep s) else .next s.rotate

end Sys2Proof.Machine
end

