-- ==== Sys2Proof/Machine/Place.lean ====
section
/-!
DEFINITION. A word placed where the current thread fetches next. Where no thread is bound yet, a smallest whole setting that lets
one run (log entry 14): partition 0 with its grants, a page table, a loaded key, and a thread at its start.
-/
namespace Sys2Proof.Machine

/-- Where the current thread's next word lies, if it runs and can fetch. -/
def State.fetchPlace (s : State) : Option Nat :=
  if s.cur.status = .running then
    match s.scalarCheck s.cur.ctx s.cur.pc.toNat 4 Need.exec with
    | (.ok (pa, _), _) => some pa
    | (.error _, _) => none
  else none

/-- The grants of a layout with one partition, 0: every pipe of core 0, all of DRAM, key slot 0, its parameters and the defaults of
its threads (R369). -/
def placeGrants : List Grant :=
  [ { type := 1, part := 0, value := 0x7F, first := 0, count := 1, extra := 0 },
    { type := 4, part := 0, value := 0, first := 0, count := 2 ^ 27, extra := 0 },
    { type := 6, part := 0, value := 0, first := 0, count := 1, extra := 0 },
    { type := 9, part := 0, value := 0x10000, first := 0, count := 0, extra := 0 },
    { type := 10, part := 0, value := 0, first := 0x2000, count := 0, extra := 0x1000 } ]

/-- A root table at 0x1000 whose entry 0 points to an L2 table at 0x8000, whose entry 0 is a leaf over the first 32 GiB with R, W,
X and U under key slot 0 (R315 to R317). -/
def placeTables (m : Memory) : Memory := (m.write 0x1000 (leBytes 8 0x80001)).write 0x8000 (leBytes 8 0x3F)

/-- A thread of partition 0 at its start, entry 0x10000 (R283). -/
def placeThread : Thread :=
  { Thread.start with status := .running, pipes := 0x7F, pc := 0x10000, tvec := 0x2000, ptb := 0x1000 }

/-- Places a word where the next step fetches. -/
def State.placeWord (s : State) (w : BitVec 32) : State :=
  match s.fetchPlace with
  | some pa =>
    { s with
      agenda := [.scalar], mem := s.mem.write pa (leBytes 4 w.toNat), wild := s.wild.flatMap (cutSpan pa 4)
      lines := s.lines.filter (fun t => t.line != pa / 128), cur := { s.cur with fetched := [] } }
  | none =>
    { s with
      agenda := [.scalar]
      layout := { s.layout with grants := placeGrants }
      keys := [0]
      wild := []
      lines := []
      tlb := []
      mem := (placeTables s.mem).write 0x10000 (leBytes 4 w.toNat)
      cur := placeThread }

end Sys2Proof.Machine
end

