-- ==== Sys2Proof/Safety.lean ====
section
/-!
DEFINITION. What counts as a safe run, and the words in which claims are stated: when an instruction issues at once, when a queued
word runs to its end, and what it then leaves.
-/
namespace Sys2Proof.Safety

open Sys2Proof.Machine

/-- A step is safe when it goes on: the part stops nowhere (every failure is a trap, which is a next state). -/
def goesOn (o : Host.Outcome State Fault Refusal) : Prop := ∃ t, o = .next t

/-- The states whose memory is in canonical form. -/
def wellFormed (s : State) : Prop := s.mem.wf = true

/-- A scalar instruction with these sources and destinations issues at once: no frame captures (R46), no convoy is open (R41), none
of its registers is empty (R38), and no premature read of a strict source was found when it first issued (R39, R97). -/
structure Ready (s : State) (srcs : List Source) (dsts : List (BitVec 5)) : Prop where
  noFrame : capturing s.cur.queue = none
  noConvoy : openConvoy s.cur.queue = []
  sources : ∀ x ∈ srcs, s.cur.gempty x.1 = false ∧ (x.2.1 = true → s.cur.stuck ≠ some x.2.2)
  dests : ∀ r ∈ dsts, s.cur.gempty r = false

/-! ## Scalar accesses -/

/-- A scalar access of `size` bytes at `ea` reaches physical address `pa` under leaf `l` (R59, R61, R62, R178): no older entry may touch
memory, it is aligned, its checks pass and leave `s1`, on an NS page nothing older is queued, and no copy of the thread meets it. -/
structure Reaches (s : State) (ea : Word) (size : Nat) (need : Need) (pa : Nat) (l : Leaf) (s1 : State) : Prop where
  clear : s.cur.memoryClear = true
  aligned : ea.toNat % size = 0
  checks : s.scalarCheck s.cur.ctx ea.toNat size need = (.ok (pa, l), s1)
  oldest : leafBit l.word 6 = true → s.cur.drained = true
  copies : s.copyMeets pa size need.write = false

/-- The state in which an access that passed its checks with `s1` is made: A, and D where it writes, are set in its leaf and its TLB entry
(R320), and a remote access is counted (R383). -/
def accessed (s s1 : State) (ea : Word) (l : Leaf) (write : Bool) (pa : Nat) : State :=
  (s1.touch s.cur.ctx ea.toNat l write).noteAccess pa

/-- The state after the current word takes a trap with nothing queued (R308, R310): EPC is its PC. -/
def trapped (s : State) (cause : BitVec 8) (eaddr einfo : Word) : State :=
  s.mod (fun t => t.enterTrap cause false t.pc eaddr einfo)

/-- A strong access of `n` bytes at `pa` whose checks leave `s` and which is made in `u`, A and D set, meets no strong access of another size
(R251), and no byte is left unpredictable. -/
structure Coherent (s u : State) (pa n : Nat) : Prop where
  mixed : s.mixedBytes pa n = []
  alike : ∀ r ∈ s.sizes, r.sector = pa / 32 → r.size = n
  predictable : s.wild = []
  still : u.mixedBytes pa n = []
  undamaged : u.wild = []

/-- The state with a strong access recorded: as the last one of its sector, and its size among those of each of its bytes (R251). -/
def recorded (s : State) (pa n : Nat) : State :=
  { s with
    sizes := { sector := pa / 32, addr := pa, size := n } :: s.sizes.filter (fun x => x.sector != pa / 32)
    strong := ((List.range n).map (fun i => (pa + i, n))).filter (fun x => !s.strong.contains x) ++ s.strong }

/-! ## Queued words -/

/-- The queued words (R17, R33): majors 0x1F to 0x23 and 0x28 to 0x37, and of major 0x1D spawn and vclaim. -/
def queuedWord (w : BitVec 32) : Bool :=
  let m := (w.extractLsb' 26 6).toNat
  (0x1F ≤ m && m ≤ 0x23) || (0x28 ≤ m && m ≤ 0x37) || (m == 0x1D && (w.extractLsb' 0 9 == 0 || w.extractLsb' 0 9 == 4))

/-- The thread runs with nothing queued, and queued entries do their work as soon as they are pushed (log entry 7). -/
structure Idle (s : State) : Prop where
  running : s.cur.status = .running
  empty : s.cur.queue = []
  eager : s.pace = .eager

/-- A word that neither joins a convoy nor opens a frame. -/
def lone (w : BitVec 32) : Prop := joins w = false ∧ isFrame w = false

/-- The checks of R48 at the push of a lone word that nothing precedes: its type (check 4), its register groups and TRL (check 5),
no premature read (check 6) and the pipes that it needs (R43). -/
structure Pushes (s : State) (d : Desc) (w : BitVec 32) : Prop where
  type : d.typeOk s.cur.vt = true
  groups : ∀ g ∈ d.align w s.cur.vt12, g.1 % g.2.1 = 0
  tile : d.tile = true → s.cur.trl ≠ 0 ∧ s.cur.trl.toNat ≤ 2048
  strict : ∀ x ∈ d.scalars, x.2.1 = true → s.cur.stuck ≠ some x.2.2
  pipes : pipeExcess s.cur.pipes [d.pipes] [] 0 = none

/-- The state just after a push of a word with nothing queued before it. -/
def pushed (s : State) (d : Desc) (w : BitVec 32) : State := s.mod (fun t => t.push (newEntry t w d))

/-- What a word pushed with nothing queued before it shows its meaning. -/
def viewOf (s : State) (d : Desc) (w : BitVec 32) : View := (newEntry s.cur w d).view s.cur.es.toNat

/-- What a pushed word that completed at length `v` leaves for its retirement. -/
def retireWork (s : State) (d : Desc) (w : BitVec 32) (a : Acc) (v : Nat) : Retire :=
  { retireOf d { viewOf s d w with vl := v } (pushed s d w).cur a with
    groups := d.dst (viewOf s d w) (pushed s d w).cur, segs := d.segs (viewOf s d w) (pushed s d w).cur, micro := a.s.microOf w }

/-- The state after a pushed word that completed at length `v` has dispatched: its effects, and the errors of its rows used (R133). -/
def dispatched (s : State) (d : Desc) (w : BitVec 32) (a : Acc) (v : Nat) (trim : Option Fail) : State :=
  ((pushed s d w).finish 0 (newEntry s.cur w d) d (viewOf s d w) a v trim).rowsDone w

/-- The state after a pushed word that completed at length `v` has dispatched and retired (R36, R83, R91). -/
def retired (s : State) (d : Desc) (w : BitVec 32) (a : Acc) (v : Nat) (trim : Option Fail) : State :=
  (dispatched s d w a v trim).retireAt 0 (retireWork s d w a v)

/-- A pushed word completes at length `v`: its run ends with what it did in `a`, it touches neither the queue nor the thread's
status, and it defers no trap to its retirement. -/
structure Completes (s : State) (d : Desc) (w : BitVec 32) (a : Acc) (v : Nat) (trim : Option Fail) : Prop where
  runs : runEntry d (viewOf s d w) (pushed s d w) = .done a v trim
  queue : a.s.cur.queue = (pushed s d w).cur.queue
  status : a.s.cur.status = .running
  pace : a.s.pace = .eager
  quiet : a.deferred = none

/-- What a word may be pushed behind (R40, R41, R44, R46, R48): its checks pass against the queue as it stands, its scalar operands are full or
written by a member of the convoy or frame that it joins, and there is room. -/
structure Enters (s : State) (d : Desc) (w : BitVec 32) : Prop where
  frame : breaksFrame s.cur w = false
  type : d.typeOk s.cur.vt = true
  groups : ∀ g ∈ d.align w s.cur.vt12, g.1 % g.2.1 = 0
  tile : d.tile = true → s.cur.trl ≠ 0 ∧ s.cur.trl.toNat ≤ 2048
  convoy : breaksConvoy s.cur w = false
  strict : ∀ x ∈ d.scalars, x.2.1 = true → (s.cur.gempty x.1 = false ∨ s.cur.convoyWrites x.1 = true) ∧ s.cur.stuck ≠ some x.2.2
  sources : ∀ x ∈ d.scalars, s.cur.gempty x.1 = true → s.cur.openWrites x.1 = true
  room : s.cur.occupied < 64
  alone : isFrame w = true → (∀ e ∈ s.cur.queue, isFrame e.word = true ∨ e.frame = true → e.held = true) ∧ (newEntry s.cur w d).opa.toNat < 2 ^ 32
  pipes : joins w = false →
    pipeExcess s.cur.pipes ((openConvoy s.cur.queue ++ [newEntry s.cur w d]).map (fun e => (descOf e.word).pipes)) [] 0 = none

/-- What a pushed lone word does over all its elements: nothing but what `empty` says of its class where it has none (R34, R79). -/
def workOf (s : State) (d : Desc) (w : BitVec 32) : Acc :=
  let v := viewOf s d w
  if d.ownLength = false ∧ ((v.vl ≤ v.es ∧ ¬(d.below = true ∧ v.es ≠ 0)) ∨ d.allFalse = true) then d.empty v.vl v (Acc.start (pushed s d w))
  else d.run v.vl v (Acc.start (pushed s d w))

/-- VL lies within VLMAX, and VLMAX is that of an accepted type on a thread of 1 to 8 lane groups (R67, R74, R77). -/
structure Sized (t : Thread) : Prop where
  groups : 1 ≤ t.lg ∧ t.lg ≤ 8
  length : t.vl.toNat ≤ t.vlmax
  limit : t.vlmax ≤ 2048

/-- Element i lies in ES..VL-1 and its guard bit is set (R34). -/
def active (t : Thread) (guard : BitVec 3) (gneg : Bool) (i : Nat) : Bool :=
  decide (t.es.toNat ≤ i ∧ i < t.vl.toNat) && ((t.pread guard).getLsbD i != gneg)

/-- What every lone word that runs to its end leaves: the PC at the next word, the sequence number and slot advanced, ES 0 (R91). `released`
and `progress` are the model's marks (log entry 6). -/
def passed (t : Thread) : Thread :=
  { t with pc := t.pc + 4, seq := t.seq + 1, nextSlot := t.nextSlot + 1, es := 0, released := t.released - 1
           progress := t.progress || decide (t.es.toNat < t.vl.toNat) }

/-- The state after a lone word that runs to its end with `t` for its thread: the model's counter goes on (log entry 9). -/
def after (s : State) (t : Thread) : State := { s with cur := t, tick := s.tick + 1 }

/-- `t` differs from `s` in vector registers alone (with what the model keeps beside them: their errors, their counts of groups for a
save, their DIRTY bits), and in the advance, of which the model's mark of a completed group may be missing (under the all-false guard it is). -/
def onlyVectors (s t : State) : Prop :=
  t = after s { passed s.cur with
    v := t.cur.v, bad := t.cur.bad, dlen := t.cur.dlen, dirty := t.cur.dirty, progress := s.cur.progress || t.cur.progress }

/-- `t` differs from `s` in predicate registers alone, with their DIRTY bits, and in the advance, as above. -/
def onlyPredicates (s t : State) : Prop :=
  t = after s { passed s.cur with p := t.cur.p, dirty := t.cur.dirty, progress := s.cur.progress || t.cur.progress }

/-! ## What queued words find and leave -/

/-- An access of `n` bytes at `va` by the current thread, inside one page, reaches `pa` and leaves nothing else to do: its checks pass, its page is
no NS page, A, D, the TLB and the page's counter already stand as it leaves them, and no copy of the thread meets it (R155, R178, R320, R383). -/
structure Span (s : State) (va : Int) (n : Nat) (need : Need) (pa : Nat) : Prop where
  reaches : ∃ r, s.reachPart s.cur.ctx va n need none (oobPlain va) = (r, s) ∧ r.cands = [] ∧ r.ns = false ∧ r.pa = pa ∧
    s.touch s.cur.ctx r.va r.leaf need.write = s
  counted : s.noteAccess pa = s
  copies : s.copyMeets pa n need.write = false

/-- The same for an element, which lies at a multiple of its size (R146). -/
def Plain (s : State) (va : Int) (n : Nat) (need : Need) (pa : Nat) : Prop := va % n = 0 ∧ Span s va n need pa

/-- A record of `n` bytes at `va`, which lies at a multiple of `align`, reads as `bs`: each of its doublewords is plain (R5, R8). -/
def Holds (s : State) (va n align : Nat) (need : Need) (bs : List Byte) : Prop :=
  va % align = 0 ∧ ∃ at_ : Nat → Nat, (∀ k < n / 8, Plain s (va + 8 * k : Nat) 8 need (at_ k)) ∧
    bs = (List.range (n / 8)).flatMap (fun k => s.read (at_ k) 8)

/-- No register of the thread holds an uncorrected error (R90, R133). -/
def Clean (t : Thread) : Prop :=
  (∀ r n i, t.elemBad r n i = false) ∧ (∀ r k, t.sideIsBad r k = false) ∧ t.residue = []

/-- The flags that a list of results raises together. -/
def raised (l : List (Nat × BitVec 5)) : BitVec 5 := l.foldl (fun x y => x ||| y.2) 0

/-- FFLAGS and the FX registers after an instruction whose elements raised these flags, each at its index (R68, R103, R104). -/
def withFlags (t : Thread) (l : List (Nat × BitVec 5)) : Thread :=
  { t with
    fflags := t.fflags ||| raised l
    fx := Vector.ofFn (fun b : Fin 5 => match ((l.filter (fun x => x.2.getLsbD b.val)).map (·.1)).min? with
      | some i => BitVec.ofNat 17 (65536 + i)
      | none => 0) }

/-- `t` differs from `s` in vector registers, the flags and FX registers of these results, and the advance. -/
def vectorsAndFlags (s t : State) (l : List (Nat × BitVec 5)) : Prop :=
  t = after s { withFlags (passed s.cur) l with v := t.cur.v, bad := t.cur.bad, dlen := t.cur.dlen, dirty := t.cur.dirty }

/-- `t` differs from `s` in predicate registers, the flags and FX registers of these results, and the advance. -/
def predicatesAndFlags (s t : State) (l : List (Nat × BitVec 5)) : Prop :=
  t = after s { withFlags (passed s.cur) l with p := t.cur.p, dirty := t.cur.dirty }

/-- `t` differs from `s` in vector registers and side-files, in FFLAGS by what these results raised, and in the advance: an instruction of major
0x34 writes no FX register (R104, R135). -/
def blocksAndFlags (s t : State) (l : List (Nat × BitVec 5)) : Prop :=
  t = after s { passed s.cur with
    v := t.cur.v, bad := t.cur.bad, dlen := t.cur.dlen, dirty := t.cur.dirty, side := t.cur.side, sideBad := t.cur.sideBad
    fflags := s.cur.fflags ||| raised l }

/-- `t` differs from `s` in vector and predicate registers, and in the advance. -/
def vectorsAndPredicates (s t : State) : Prop :=
  t = after s { passed s.cur with v := t.cur.v, bad := t.cur.bad, dlen := t.cur.dlen, dirty := t.cur.dirty, p := t.cur.p }

/-- A stored block of a memory type at `va` reaches `pa` and leaves nothing else to do (R126, R129, R155): each of its page parts is as `Span` says. -/
def BlockPlain (s : State) (va ty : Nat) (need : Need) (pa : Nat) : Prop :=
  ∃ rs, s.reachBlock s.cur.ctx (va : Nat) ty need = (rs, s) ∧ rs.head?.map (·.pa) = some pa ∧
    ∀ r ∈ rs, r.cands = [] ∧ r.ns = false ∧ s.touch s.cur.ctx r.va r.leaf need.write = s ∧ s.noteAccess r.pa = s ∧
      s.copyMeets r.pa r.size need.write = false

/-- A ring engine keeps the page of a byte, and A, D and the TLB already stand as an access there leaves them (R238, R320). -/
def PageKept (s : State) (r : Ring) (va : Nat) (write : Bool) : Prop :=
  ∃ p e, r.pinAt va = some p ∧ s.tlbHit { part := p.part, ptb := BitVec.ofNat 64 p.ctx, key := 0, user := true } va = some e ∧
    s.ringTouch r va write = s

/-- The registers outside n of them from r on keep their values. -/
def othersKept (s t : State) (r n : Nat) : Prop := ∀ k < 32, (k < r ∨ r + n ≤ k) → t.cur.vread k = s.cur.vread k

/-- The thread after a word that VL does not concern (R202, R237): only `passed`'s mark of a completed group stays as it was. -/
def stepped (t : Thread) : Thread := { passed t with progress := t.progress }

end Sys2Proof.Safety
end

