-- ==== Sys2Proof/Certificates/Slice0/Obligations.lean ====
section
/-!
DEFINITION. The statements for the provers. Each is about the machine: what an instruction, an event or a step does, for every state
and every operand that meets what it names.
-/

open Sys2Proof Sys2Proof.Machine Sys2Proof.Safety

/-! ## Encoding -/

/-- Decoding the word of a well-formed instruction gives the instruction back, with every operand at every value that the encoding
admits (R30 to R33, R47). -/
def Obligations.EncodeDecode : Prop := ∀ (i : Instr) (w : BitVec 32), i.wf = true → encode i = some w → decode w = .instr i

/-- A word that decodes is the word of what it decodes to, and that is well formed: no bit of a word is ignored (R47). -/
def Obligations.DecodeEncode : Prop := ∀ (w : BitVec 32) (i : Instr), decode w = .instr i → encode i = some w ∧ i.wf = true

/-- The words that the manual writes out for its examples decode to what they stand for: `add g3, g3, g4`, `sll g7, g6, 2`,
`ldhi g5, 0x2468B`, `ld.d g4, [g1]`, `bne g2, g0, -4`, `mfs g6, VL`, `trap 5`, `eret`, `tlbprobe g7, g5` (R53, R56 to R58, R63, R66, R322). -/
def Obligations.DecodeWords : Prop :=
  decode 0x04632000 = .instr (.add { gd := 3, ga := 3, gb := 4, sa := false, sb := false }) ∧
  decode 0x18E60002 = .instr (.sllImm { gd := 7, ga := 6, sa := false, imm := 2 }) ∧
  decode 0x1CA2468B = .instr (.ldhi { gd := 5, imm := 0x2468B }) ∧
  decode 0x24810000 = .instr (.ldD { gd := 4, ga := 1, sa := false, imm := 0 }) ∧
  decode 0x50401FFC = .instr (.bne { ga := 2, gb := 0, strict := false, offset := 0xFFC }) ∧
  decode 0x68C00000 = .instr (.mfs { gd := 6, ga := 0, sa := false, imm := 0 }) ∧
  decode 0x70002800 = .instr (.trap { gd := 0, ga := 0, gb := 5, sa := false, sb := false }) ∧
  decode 0x70000001 = .instr (.eret { gd := 0, ga := 0, gb := 0, sa := false, sb := false }) ∧
  decode 0x70E50009 = .instr (.tlbprobe { gd := 7, ga := 5, gb := 0, sa := false, sb := false })

/-- The majors that hold no instruction are rejected whatever the other bits are (R47). -/
def Obligations.EmptyMajorsRejected : Prop :=
  ∀ w : BitVec 32, w.extractLsb' 26 6 = 0x00#6 ∨ (0x24#6 ≤ w.extractLsb' 26 6 ∧ w.extractLsb' 26 6 ≤ 0x27#6) ∨ 0x38#6 ≤ w.extractLsb' 26 6 →
    ∃ r, decode w = .reject r

/-! ## The step -/

/-- A step runs what the agenda names, and for the current thread the instruction that the word at its PC decodes to: as the agenda's
scalar turn, or, where nothing is named and nothing is in flight, as a turn after which the next thread goes on (R29; the order is the
model's, log entry 1). While some islands have flipped to a new layout and others have not, no instruction executes (R374). No instruction
and no event ever ends the run: `exec` of each answers a next state in every state. -/
def Obligations.StepRunsDecoded : Prop :=
  (∀ (s : State) (i : Instr) (rest : List Choice), s.agenda = .event i :: rest → s.layout.mixed = false ∨ carriesOn i = false →
    step s = exec i { s with agenda := rest }) ∧
  (∀ (s s' : State) (rest : List Choice) (w : BitVec 32) (i : Instr), s.agenda = .scalar :: rest → s.cur.status = .running →
    s.layout.mixed = false → ({ s with agenda := rest } : State).fetchWord = (.ok w, s') → decode w = .instr i → step s = exec i s') ∧
  (∀ (s s' : State) (w : BitVec 32) (i : Instr), s.agenda = [] → s.background = none → s.cur.status = .running → s.layout.mixed = false →
    s.fetchWord = (.ok w, s') → decode w = .instr i → step s = endTurnOut (exec i s')) ∧
  (∀ (s : State) (i : Instr) (w : BitVec 32) (rest : List Choice), s.layout.mixed = true → encode i = some w →
    (s.agenda = .event i :: rest ∨ s.agenda = .scalar :: rest → step s = .next { s with agenda := rest }) ∧
    (s.agenda = [] → s.background = none → step s = .next s.rotate)) ∧
  (∀ (i : Instr) (s : State), ∃ t : State, exec i s = .next t)

/-- What a fetch reads (R29): where the PC's page passes its checks and the thread holds no word of its physical address fetched before, or
ahead (R71), the four bytes there, little-endian; the thread keeps the word (the counter that goes on is the model's, log entry 9). A fetch that fails a
check traps with the cause found, with nothing queued: EADDR is the PC and EINFO as R60 lays out with its fetch bit set. -/
def Obligations.FetchReadsMemory : Prop :=
  (∀ (s s1 : State) (pa : Nat) (l : Leaf), s.scalarCheck s.cur.ctx s.cur.pc.toNat 4 Need.exec = (.ok (pa, l), s1) →
    exec .instructionFetch s = .next s ∧
    (let u := s1.touch s.cur.ctx s.cur.pc.toNat l false
     s.cur.buffered pa = none → u.wild = [] →
      s.fetchWord = (.ok (BitVec.ofNat 32 (u.mem.num pa 4)), u.tock.mod (fun t =>
        { t with fetched := (pa, BitVec.ofNat 32 (u.mem.num pa 4)) :: t.fetched.filter (fun x => x.1 != pa) })))) ∧
  (∀ (s s1 : State) (cause : BitVec 8) (level : Nat), s.scalarCheck s.cur.ctx s.cur.pc.toNat 4 Need.exec = (.error (cause, level), s1) →
    s.cur.queue = [] →
    exec .instructionFetch s = .next (trapped s1 cause s.cur.pc (einfoScalar 2 false true s.cur.user level)))

/-- A word placed after reset is the next instruction that runs, on a thread with every g register 0 (log entry 14). -/
def Obligations.PlacedWordRuns : Prop :=
  ∀ (w : BitVec 32) (i : Instr), decode w = .instr i →
    ∃ s' : State, step (State.reset.withFetchWord 32 w.toNat) = exec i s' ∧ s'.cur.pc = 0x10000 ∧ s'.cur.queue = [] ∧
      s'.cur.status = .running ∧ (∀ r, s'.cur.gread r = 0) ∧ s'.pace = .eager

/-- A word that is no instruction takes cause 0x40 when nothing older is queued, with EPC and EADDR its PC (R47, R308, R311); it changes
no register but those that a trap writes. -/
def Obligations.IllegalWordTraps : Prop :=
  (∀ (s s' : State) (rest : List Choice) (w : BitVec 32) (r : Reject), s.agenda = .scalar :: rest → s.cur.status = .running → s.layout.mixed = false →
    ({ s with agenda := rest } : State).fetchWord = (.ok w, s') → decode w = .reject r → s'.cur.queue = [] → s'.cur.busy = false →
    step s = .next (s'.mod (fun t => t.enterTrap 0x40 false t.pc t.pc 0))) ∧
  (∀ (w : BitVec 32) (s : State), s.cur.queue = [] → exec (.illegalInstruction w) s = .next (trapped s 0x40 s.cur.pc 0))

/-! ## Scalar arithmetic, branches and jumps -/

/-- The register-register operations and what g(gd) receives (R53, R54): sa and ua are the signed and the unsigned reading. -/
def aluRegisterTable : List ((FmtSR → Instr) × (Word → Word → Word)) :=
  [ (.add, fun a b => a + b), (.sub, fun a b => a - b), (.and, fun a b => a &&& b), (.or, fun a b => a ||| b),
    (.xor, fun a b => a ^^^ b), (.andn, fun a b => a &&& ~~~b),
    (.sll, fun a b => a <<< (b.toNat % 64)), (.srl, fun a b => a >>> (b.toNat % 64)),
    (.sra, fun a b => a.sshiftRight (b.toNat % 64)), (.rol, fun a b => a.rotateLeft (b.toNat % 64)),
    (.mul, fun a b => BitVec.ofNat 64 (a.toNat * b.toNat)),
    (.mulh, fun a b => BitVec.ofInt 64 (a.toInt * b.toInt / 2 ^ 64)),
    (.mulhz, fun a b => BitVec.ofNat 64 (a.toNat * b.toNat / 2 ^ 64)),
    (.div, fun a b => if b = 0 then BitVec.allOnes 64 else BitVec.ofInt 64 (a.toInt.tdiv b.toInt)),
    (.divz, fun a b => if b = 0 then BitVec.allOnes 64 else BitVec.ofNat 64 (a.toNat / b.toNat)),
    (.rem, fun a b => if b = 0 then a else BitVec.ofInt 64 (a.toInt - b.toInt * a.toInt.tdiv b.toInt)),
    (.remz, fun a b => if b = 0 then a else BitVec.ofNat 64 (a.toNat - b.toNat * (a.toNat / b.toNat))),
    (.ceq, fun a b => if a = b then 1 else 0), (.cne, fun a b => if a = b then 0 else 1),
    (.clt, fun a b => if a.toInt < b.toInt then 1 else 0), (.cge, fun a b => if b.toInt ≤ a.toInt then 1 else 0),
    (.clo, fun a b => if a.toNat < b.toNat then 1 else 0), (.chs, fun a b => if b.toNat ≤ a.toNat then 1 else 0),
    (.min, fun a b => if a.toInt < b.toInt then a else b), (.max, fun a b => if a.toInt < b.toInt then b else a),
    (.minz, fun a b => if a.toNat < b.toNat then a else b), (.maxz, fun a b => if a.toNat < b.toNat then b else a) ]

/-- Every register-register operation completes: g(gd) receives the result of R53's table, with R54's division, from both sources as
they were; the PC goes on to the next word, and nothing else changes (R52: a write of g0 is discarded). -/
def Obligations.AluRegisterResults : Prop :=
  ∀ x ∈ aluRegisterTable, ∀ (f : FmtSR) (s : State), Ready s [(f.ga, f.sa, 0), (f.gb, f.sb, 1)] [f.gd] →
    exec (x.1 f) s = .next (s.mod (fun t => (t.gwrite f.gd (x.2 (t.gread f.ga) (t.gread f.gb))).next))

/-- clz, ctz and popc complete (R53): the number of leading zero bits, of trailing zero bits and of one bits of g(ga), 0 to 64, each
said by the bits that it counts. -/
def Obligations.AluUnaryResults : Prop :=
  ∀ (f : FmtSR) (s : State), Ready s [(f.ga, f.sa, 0)] [f.gd] →
    (∃ n : Nat, n ≤ 64 ∧ (∀ k < n, (s.cur.gread f.ga).getLsbD (63 - k) = false) ∧ (n < 64 → (s.cur.gread f.ga).getLsbD (63 - n) = true) ∧
      exec (.clz f) s = .next (s.mod (fun t => (t.gwrite f.gd (BitVec.ofNat 64 n)).next))) ∧
    (∃ n : Nat, n ≤ 64 ∧ (∀ k < n, (s.cur.gread f.ga).getLsbD k = false) ∧ (n < 64 → (s.cur.gread f.ga).getLsbD n = true) ∧
      exec (.ctz f) s = .next (s.mod (fun t => (t.gwrite f.gd (BitVec.ofNat 64 n)).next))) ∧
    exec (.popc f) s = .next (s.mod (fun t =>
      (t.gwrite f.gd (BitVec.ofNat 64 ((List.range 64).countP (fun k => (t.gread f.ga).getLsbD k)))).next))

/-- The immediate operations and what g(gd) receives from g(ga) and the immediate (R55, R56). -/
def aluImmediateTable : List ((FmtSI → Instr) × (Word → BitVec 15 → Word)) :=
  [ (.addi, fun a i => a + i.signExtend 64), (.andi, fun a i => a &&& i.zeroExtend 64), (.ori, fun a i => a ||| i.zeroExtend 64),
    (.xori, fun a i => a ^^^ i.zeroExtend 64), (.sllImm, fun a i => a <<< (i.toNat % 64)), (.srlImm, fun a i => a >>> (i.toNat % 64)),
    (.sraImm, fun a i => a.sshiftRight (i.toNat % 64)), (.rolImm, fun a i => a.rotateLeft (i.toNat % 64)) ]

/-- Every immediate operation, ldhi and addpc complete with the results of R55, R56 and R57, and change nothing but g(gd) and the PC. -/
def Obligations.AluImmediateResults : Prop :=
  (∀ x ∈ aluImmediateTable, ∀ (f : FmtSI) (s : State), Ready s [(f.ga, f.sa, 0)] [f.gd] →
    exec (x.1 f) s = .next (s.mod (fun t => (t.gwrite f.gd (x.2 (t.gread f.ga) f.imm)).next))) ∧
  (∀ (f : FmtSU) (s : State), Ready s [] [f.gd] →
    exec (.ldhi f) s = .next (s.mod (fun t => (t.gwrite f.gd (f.imm.signExtend 64 * 32768)).next)) ∧
    exec (.addpc f) s = .next (s.mod (fun t => (t.gwrite f.gd (t.pc + f.imm.signExtend 64 * 32768)).next)))

/-- The branches and when each is taken (R63). -/
def branchTable : List ((FmtSB → Instr) × (Word → Word → Bool)) :=
  [ (.beq, fun a b => decide (a = b)), (.bne, fun a b => decide (a ≠ b)), (.blt, fun a b => decide (a.toInt < b.toInt)),
    (.bge, fun a b => decide (b.toInt ≤ a.toInt)), (.blo, fun a b => decide (a.toNat < b.toNat)),
    (.bhs, fun a b => decide (b.toNat ≤ a.toNat)) ]

/-- Every branch completes (R63): taken, to PC + 4 × sext(offset) from its own address, else to PC + 4; it writes nothing else. -/
def Obligations.BranchResults : Prop :=
  ∀ x ∈ branchTable, ∀ (f : FmtSB) (s : State), Ready s [(f.ga, f.strict, 0), (f.gb, f.strict, 1)] [] →
    exec (x.1 f) s = .next (s.mod (fun t =>
      { t with pc := if x.2 (t.gread f.ga) (t.gread f.gb) then t.pc + f.offset.signExtend 64 * 4 else t.pc + 4 }))

/-- jal (R64) links and goes to PC + 4 × sext(offset). jalr (R65) reads its target before it links; a target whose bits [1:0] are not 0
traps with 0x47 once nothing older is queued, with EADDR the target and EINFO.fetch set, and gd unchanged. -/
def Obligations.JumpResults : Prop :=
  (∀ (f : FmtSJ) (s : State), Ready s [] [f.gd] →
    exec (.jal f) s = .next (s.mod (fun t => { t.gwrite f.gd (t.pc + 4) with pc := t.pc + f.offset.signExtend 64 * 4 }))) ∧
  (∀ (f : FmtSI) (s : State), Ready s [(f.ga, f.sa, 0)] [f.gd] → (s.cur.gread f.ga + f.imm.signExtend 64).toNat % 4 = 0 →
    exec (.jalr f) s = .next (s.mod (fun t => { t.gwrite f.gd (t.pc + 4) with pc := t.gread f.ga + f.imm.signExtend 64 }))) ∧
  (∀ (f : FmtSI) (s : State), Ready s [(f.ga, f.sa, 0)] [f.gd] → (s.cur.gread f.ga + f.imm.signExtend 64).toNat % 4 ≠ 0 → s.cur.queue = [] →
    exec (.jalr f) s = .next (s.mod (fun t => t.enterTrap 0x47 false t.pc (t.gread f.ga + f.imm.signExtend 64)
      (einfoScalar 2 false true t.user 0))))

/-! ## Scalar loads and stores -/

/-- The loads: size in bytes and what g(gd) receives from the number that the bytes hold, little-endian (R58). -/
def loadTable : List ((FmtSI → Instr) × Nat × (Nat → Word)) :=
  [ (.ldD, 8, fun x => BitVec.ofNat 64 x), (.ldW, 4, fun x => (BitVec.ofNat 32 x).signExtend 64),
    (.ldWz, 4, fun x => (BitVec.ofNat 32 x).zeroExtend 64), (.ldH, 2, fun x => (BitVec.ofNat 16 x).signExtend 64),
    (.ldHz, 2, fun x => (BitVec.ofNat 16 x).zeroExtend 64), (.ldB, 1, fun x => (BitVec.ofNat 8 x).signExtend 64),
    (.ldBz, 1, fun x => (BitVec.ofNat 8 x).zeroExtend 64) ]

/-- Every load that reaches its bytes completes (R58): g(gd) receives them, extended as its form says; it changes nothing else but the PC
and what `accessed` names (see `Obligations.AccessFrame`). -/
def Obligations.ScalarLoadResults : Prop :=
  ∀ x ∈ loadTable, ∀ (f : FmtSI) (s s1 : State) (pa : Nat) (l : Leaf), Ready s [(f.ga, f.sa, 0)] [f.gd] →
    Reaches s (s.cur.gread f.ga + f.imm.signExtend 64) x.2.1 Need.load pa l s1 →
    let u := accessed s s1 (s.cur.gread f.ga + f.imm.signExtend 64) l false pa
    u.wild = [] → exec (x.1 f) s = .next (u.mod (fun t => (t.gwrite f.gd (x.2.2 (u.mem.num pa x.2.1))).next))

/-- The stores and their sizes in bytes (R58). -/
def storeTable : List ((FmtSI → Instr) × Nat) := [ (.stD, 8), (.stW, 4), (.stH, 2), (.stB, 1) ]

/-- Every store that reaches its bytes completes (R58): byte k at its address is byte k of g(gd), every byte outside reads as before the
store, and registers, status, special registers and queue keep their values; the PC goes on. Of the thread's streams only data landed from
these bytes goes (R166). Memory is in canonical form (see `Obligations.MemoryStaysCanonical`). -/
def Obligations.ScalarStoreResults : Prop :=
  ∀ x ∈ storeTable, ∀ (f : FmtSI) (s s1 : State) (pa : Nat) (l : Leaf), wellFormed s → Ready s [(f.ga, f.sa, 0)] [f.gd] →
    Reaches s (s.cur.gread f.ga + f.imm.signExtend 64) x.2 Need.store pa l s1 →
    ∃ t : State, exec (x.1 f) s = .next t ∧
      (∀ k < x.2, t.mem.get (pa + k) = BitVec.ofNat 8 ((s.cur.gread f.gd).toNat / 256 ^ k)) ∧
      (∀ a, a < pa ∨ pa + x.2 ≤ a → t.mem.get a = (accessed s s1 (s.cur.gread f.ga + f.imm.signExtend 64) l true pa).mem.get a) ∧
      t.cur = { s.cur with pc := s.cur.pc + 4, q := s.cur.q.map (Stream.dropOver pa x.2) } ∧
      t.poison = (accessed s s1 (s.cur.gread f.ga + f.imm.signExtend 64) l true pa).poison

/-- What an access that passed its checks changes besides its own bytes (R320, R383): nothing of any thread; of memory only the
doubleword of the leaf that it used, and, where it is counted as remote, bytes of a partition's notification ring and tail. Where that leaf
holds A (and D for a write) and the page belongs to the core's own tract or to no DRAM, no byte of memory at all; where it does not, the update
counts as a strong access of 8 bytes at the leaf (R251), and no other byte's last strong access changes. -/
def Obligations.AccessFrame : Prop :=
  ∀ (s s1 : State) (ea : Word) (size : Nat) (need : Need) (pa : Nat) (l : Leaf), wellFormed s →
    s.scalarCheck s.cur.ctx ea.toNat size need = (.ok (pa, l), s1) → ∀ write : Bool,
      (accessed s s1 ea l write pa).cur = s.cur ∧ (accessed s s1 ea l write pa).others = s.others ∧
      (∀ a, (a < l.at_ ∨ l.at_ + 8 ≤ a) →
        (∀ q ∈ s.pageQueues, (a < q.queue ∨ q.queue + 65536 ≤ a) ∧ (a < q.tail ∨ q.tail + 8 ≤ a)) →
        (accessed s s1 ea l write pa).mem.get a = s.mem.get a) ∧
      (leafBit l.word 7 = true → (write = true → leafBit l.word 8 = true) → (isDram pa = false ∨ tractOf pa = s.cur.slot / 512) →
        (accessed s s1 ea l write pa).mem = s.mem) ∧
      (∀ x : Nat × Nat, (x.1 < l.at_ ∨ l.at_ + 8 ≤ x.1) → (x ∈ (accessed s s1 ea l write pa).strong ↔ x ∈ s1.strong)) ∧
      (leafBit l.word 7 = false ∨ (write = true ∧ leafBit l.word 8 = false) →
        (accessed s s1 ea l write pa).sizes.head? = some { sector := l.at_ / 32, addr := l.at_, size := 8 })

/-- Loads and stores with their sizes, what they need of the page, and whether EINFO.store is set (R58 to R60). -/
def accessTable : List ((FmtSI → Instr) × Nat × Need × Bool) :=
  [ (.ldD, 8, .load, false), (.ldW, 4, .load, false), (.ldWz, 4, .load, false), (.ldH, 2, .load, false), (.ldHz, 2, .load, false),
    (.ldB, 1, .load, false), (.ldBz, 1, .load, false), (.stD, 8, .store, true), (.stW, 4, .store, true), (.stH, 2, .store, true),
    (.stB, 1, .store, true) ]

/-- The traps of a scalar access, in the order of R59, for an address that no TLB entry matches: 0x47; 0x4D with the level that had no
valid entry; 0x4E where KEYDEF names a key slot that is not the partition's (R335's row on KEYDEF; that every access then fails so is the
model's reading, log entry 4), where R or W is clear, where U is clear in user mode, where the leaf's key slot is not the partition's (R318), or
where the vault window is shut (R160); 0x0D; and 0x07, for a load alone, where no copy of the thread's own may still heal the data (R62). EPC
is the PC, EADDR the effective address, EINFO as R60 lays out; nothing else changes. With nothing queued they are taken at once. -/
def Obligations.ScalarAccessTraps : Prop :=
  ∀ x ∈ accessTable, ∀ (f : FmtSI) (s : State), Ready s [(f.ga, f.sa, 0)] [f.gd] → s.cur.queue = [] →
    let ea := s.cur.gread f.ga + f.imm.signExtend 64
    let info := fun level => einfoScalar (sizeCode x.2.1) x.2.2.2 false s.cur.user level
    (ea.toNat % x.2.1 ≠ 0 → exec (x.1 f) s = .next (trapped s 0x47 ea (info 0))) ∧
    (ea.toNat % x.2.1 = 0 → s.tlbHit s.cur.ctx ea.toNat = none →
      (∀ level, s.walk s.cur.ctx ea.toNat = .invalid level → exec (x.1 f) s = .next (trapped s 0x4D ea (info level))) ∧
      (ea.toNat < 2 ^ 56 → s.keyValid s.cur.part.toNat s.cur.keydef.toNat = false → exec (x.1 f) s = .next (trapped s 0x4E ea (info 0))) ∧
      (∀ l, s.walk s.cur.ctx ea.toNat = .leaf l →
        let pa := l.pa ea.toNat
        let refused := (x.2.2.1.read = true ∧ leafBit l.word 2 = false) ∨ (x.2.2.1.write = true ∧ leafBit l.word 3 = false) ∨
          (s.cur.user = true ∧ leafBit l.word 5 = false) ∨ s.keyValid s.cur.part.toNat (leafKey l.word) = false ∨
          (inAperture pa = true ∧ s.vaultOpen s.cur.part.toNat pa = false)
        let formatted := leafBit l.word 13 = true ∨ (s.regionAt pa).isSome = true
        (refused → exec (x.1 f) s = .next (trapped s 0x4E ea (info 0))) ∧
        (¬refused → formatted → exec (x.1 f) s = .next (trapped s 0x0D ea (info 0))) ∧
        (¬refused → ¬formatted → x.2.2.1.read = true → s.poisoned (pa / 128 * 128) 128 = true →
          s.copyMeets pa x.2.1 false = false →
          exec (x.1 f) s = .next (trapped s 0x07 ea (info 0)))))

/-! ## Special registers -/

/-- What mfs reads: the number, the value, and the wait of R69 that must be over (R67, R68, R78, R305 to R307). -/
def specialTable : List (Nat × (Thread → Word) × (Thread → Prop)) :=
  let free : Thread → Prop := fun _ => True
  let trimmed : Thread → Prop := fun t => ∀ e ∈ t.waited, e.isDone = true
  let retired : Thread → Prop := fun t => t.waited = []
  [ (0x000, fun t => t.vl.zeroExtend 64, trimmed), (0x001, fun t => t.vt.zeroExtend 64, free),
    (0x002, fun t => if t.vt.getLsbD 12 then 0
      else BitVec.ofNat 64 (1024 * t.lg * 2 ^ (t.vt.extractLsb' 10 2).toNat / typeWidth (t.vt.extractLsb' 0 5).toNat), free),
    (0x003, fun t => t.es.zeroExtend 64, free), (0x004, fun t => t.trc, trimmed), (0x005, fun t => t.tra, trimmed),
    (0x006, fun t => t.rowp.zeroExtend 64, fun t => t.queue = []), (0x007, fun t => t.trl.zeroExtend 64, free),
    (0x008, fun _ => 0, fun t => t.queue = []), (0x010, fun t => t.fflags.zeroExtend 64, retired),
    (0x011, fun t => t.fen.zeroExtend 64, free), (0x012, fun t => t.frm.zeroExtend 64, free),
    (0x018, fun t => t.fx[0].zeroExtend 64, retired), (0x019, fun t => t.fx[1].zeroExtend 64, retired),
    (0x01A, fun t => t.fx[2].zeroExtend 64, retired), (0x01B, fun t => t.fx[3].zeroExtend 64, retired),
    (0x01C, fun t => t.fx[4].zeroExtend 64, retired), (0x031, fun t => t.moved, free), (0x032, fun t => t.amode.zeroExtend 64, free),
    (0x400, fun t => t.tvec, free), (0x401, fun t => t.epc, free), (0x402, fun t => t.ecause.zeroExtend 64, free),
    (0x403, fun t => t.eaddr, free), (0x404, fun t => t.einfo &&& einfoBits t.ecause, free),
    (0x405, fun t => BitVec.ofNat 64 (t.priv.toNat + 2 * t.ppriv.toNat + 4 * t.busy.toNat), free), (0x406, fun t => t.ptb, free),
    (0x407, fun t => BitVec.ofNat 64 (t.part.toNat + 256 * t.colour.toNat), free), (0x408, fun t => t.keydef.zeroExtend 64, free),
    (0x409, fun t => t.dirty, free), (0x40A, fun t => t.hsave0, free), (0x40B, fun t => t.hsave1, free) ]

/-- mfs of every special register completes once its wait is over (R66, R67, R69): g(gd) receives the register, zero-extended, and nothing
else changes but the PC; from 0x400 on in privileged mode alone. EINFO reads as 0 where its layout under ECAUSE has no field (R8, R306).
QLANDq is what a memory stream has landed, and of a ring's stream the elements of the current block (R163, R240); that it is 0 for a ring's
stream without a current block is the model's reading (log entry 30). CYC gives the core-local cycle count, a free value (R13; log entry 8).
VCP, while no handler holds an entry, names the oldest entry by sequence number, slot and group, with the busy bit, where that entry is no frame
(R18, R78): group 0 before it starts from element 0, the group reached after, at most its last one. -/
def Obligations.SpecialReads : Prop :=
  (∀ x ∈ specialTable, ∀ (f : FmtSI) (s : State), f.imm.toNat = x.1 → Ready s [] [f.gd] → (0x400 ≤ x.1 → s.cur.priv = true) →
    x.2.2 s.cur → exec (.mfs f) s = .next (s.mod (fun t => (t.gwrite f.gd (x.2.1 t)).next))) ∧
  (∀ (k : Nat) (h : k < 8) (f : FmtSI) (s : State), f.imm.toNat = 0x020 + k → Ready s [] [f.gd] →
    let q := s.cur.q[k]
    let n := match q.kind, (s.ring q.engine.toNat).block with
      | .unbound, _ => q.landed
      | .memory, _ => q.landed
      | .ring, some b => b.bytes / max 1 q.size
      | .ring, none => 0
    exec (.mfs f) s = .next (s.mod (fun t => (t.gwrite f.gd (BitVec.ofNat 64 n)).next))) ∧
  (∀ (f : FmtSI) (s : State), f.imm = 0x030 → Ready s [] [f.gd] →
    ∃ c : Word, exec (.mfs f) s = .next { s.mod (fun t => (t.gwrite f.gd c).next) with tick := s.tick + 1 }) ∧
  (∀ (f : FmtSI) (s : State) (e : Entry) (rest : List Entry), f.imm = 0x008 → Ready s [] [f.gd] → s.cur.queue = e :: rest →
    (∀ x ∈ s.cur.queue, x.held = false) → s.cur.es = 0 → isFrame e.word = false → e.running = none →
    let group := match e.phase with | .done r => min r.reached (r.limit - 1) % 64 | .unstarted => 0
    exec (.mfs f) s = .next (s.mod (fun t =>
      (t.gwrite f.gd (BitVec.ofNat 64 (e.seq.toNat + 2 ^ 16 * e.slot.toNat + 2 ^ 24 * group + 2 ^ 32))).next)))

/-- What mts writes, by number, but for VL, VT, ES and DIRTY (R67, R68, R78, R305 to R307): reserved bits are ignored (R8), and a write of
5 to 7 leaves FRM unchanged. -/
def specialWriteTable : List (Nat × (Thread → Word → Thread)) :=
  [ (0x004, fun t x => { t with trc := x }), (0x005, fun t x => { t with tra := x }), (0x006, fun t x => { t with rowp := x.setWidth 16 }),
    (0x007, fun t x => { t with trl := x.setWidth 16 }), (0x010, fun t x => { t with fflags := x.setWidth 5 }),
    (0x011, fun t x => { t with fen := x.setWidth 5 }),
    (0x012, fun t x => if x.toNat % 8 < 5 then { t with frm := x.setWidth 3 } else t),
    (0x018, fun t x => { t with fx := t.fx.set 0 (x.setWidth 17) }), (0x019, fun t x => { t with fx := t.fx.set 1 (x.setWidth 17) }),
    (0x01A, fun t x => { t with fx := t.fx.set 2 (x.setWidth 17) }), (0x01B, fun t x => { t with fx := t.fx.set 3 (x.setWidth 17) }),
    (0x01C, fun t x => { t with fx := t.fx.set 4 (x.setWidth 17) }),
    (0x400, fun t x => { t with tvec := BitVec.ofNat 64 (x.toNat % 2 ^ 56 / 4 * 4) }),
    (0x401, fun t x => { t with epc := BitVec.ofNat 64 (x.toNat % 2 ^ 56 / 4 * 4) }),
    (0x402, fun t x => { t with ecause := x.setWidth 10 }), (0x403, fun t x => { t with eaddr := x }),
    (0x404, fun t x => { t with einfo := x }), (0x405, fun t x => { t with ppriv := x.getLsbD 1, busy := x.getLsbD 2 }),
    (0x406, fun t x => { t with ptb := x }), (0x408, fun t x => { t with keydef := x.setWidth 12 }),
    (0x40A, fun t x => { t with hsave0 := x }), (0x40B, fun t x => { t with hsave1 := x }) ]

/-- mts of each of these completes once every older entry has retired (R66, R69), from 0x400 on in privileged mode alone: the register
receives g(ga), and nothing else changes but the PC. mts DIRTY clears the bits written as 1 (R307). -/
def Obligations.SpecialWrites : Prop :=
  (∀ x ∈ specialWriteTable, ∀ (f : FmtSI) (s : State), f.imm.toNat = x.1 → Ready s [(f.ga, f.sa, 0)] [] →
    (0x400 ≤ x.1 → s.cur.priv = true) → s.cur.waited = [] →
    exec (.mts f) s = .next (s.mod (fun t => (x.2 t (t.gread f.ga)).next))) ∧
  (∀ (f : FmtSI) (s : State), Ready s [(f.ga, f.sa, 0)] [] → s.cur.priv = true → s.cur.waited = [] →
    exec (.mtsDirty f) s = .next (s.mod (fun t => ({ t with dirty := t.dirty &&& ~~~(t.gread f.ga) } : Thread).next)))

/-- The numbers that name a special register (R67, R305). -/
def specialNumbers : List Nat :=
  [0x000, 0x001, 0x002, 0x003, 0x004, 0x005, 0x006, 0x007, 0x008, 0x010, 0x011, 0x012, 0x018, 0x019, 0x01A, 0x01B, 0x01C, 0x020, 0x021,
   0x022, 0x023, 0x024, 0x025, 0x026, 0x027, 0x030, 0x031, 0x032, 0x400, 0x401, 0x402, 0x403, 0x404, 0x405, 0x406, 0x407, 0x408, 0x409,
   0x40A, 0x40B]

/-- The read-only numbers (R67, R305). -/
def readOnlyNumbers : List Nat := [0x002, 0x008, 0x020, 0x021, 0x022, 0x023, 0x024, 0x025, 0x026, 0x027, 0x030, 0x031, 0x032, 0x407]

/-- The traps of mfs and mts (R66), with nothing queued: in user mode a number of 0x400 or above, and an mts of ES, take 0x45; otherwise a
number that names no register, and an mts to a read-only one, take 0x40. Neither writes anything. -/
def Obligations.SpecialTraps : Prop :=
  (∀ (f : FmtSI) (s : State), s.cur.queue = [] → s.cur.priv = false → 0x400 ≤ f.imm.toNat →
    exec (.mfs f) s = .next (trapped s 0x45 s.cur.pc 0) ∧ exec (.mts f) s = .next (trapped s 0x45 s.cur.pc 0) ∧
    exec (.mtsDirty f) s = .next (trapped s 0x45 s.cur.pc 0)) ∧
  (∀ (f : FmtSI) (s : State), s.cur.queue = [] → s.cur.priv = false → exec (.mtsEs f) s = .next (trapped s 0x45 s.cur.pc 0)) ∧
  (∀ (f : FmtSI) (s : State), s.cur.queue = [] → (s.cur.priv = true ∨ f.imm.toNat < 0x400) → f.imm.toNat ∉ specialNumbers →
    exec (.mfs f) s = .next (trapped s 0x40 s.cur.pc 0) ∧ exec (.mts f) s = .next (trapped s 0x40 s.cur.pc 0)) ∧
  (∀ (f : FmtSI) (s : State), s.cur.queue = [] → (s.cur.priv = true ∨ f.imm.toNat < 0x400) → f.imm.toNat ∈ readOnlyNumbers →
    exec (.mts f) s = .next (trapped s 0x40 s.cur.pc 0))

/-- vsetl and mts VL (R80, R67): VL := min(g(ga), VLMAX), and vsetl returns it; under ILL it is 0. Nothing queued changes, and nothing
waits. The count of such writes is the model's (log entry 6). -/
def Obligations.LengthWrites : Prop :=
  ∀ (s : State),
    (∀ (f : FmtSR), Ready s [(f.ga, f.sa, 0)] [f.gd] →
      exec (.vsetl f) s = .next (s.mod (fun t =>
        let vl := BitVec.ofNat 16 (min (t.gread f.ga).toNat t.vlmax)
        (({ t with vl := vl, epoch := t.epoch + 1 } : Thread).gwrite f.gd (vl.zeroExtend 64)).next))) ∧
    (∀ (f : FmtSI), Ready s [(f.ga, f.sa, 0)] [] →
      exec (.mtsVl f) s = .next (s.mod (fun t =>
        ({ t with vl := BitVec.ofNat 16 (min (t.gread f.ga).toNat t.vlmax), epoch := t.epoch + 1 } : Thread).next)))

/-- The conditions of R74 and R75 on a value for VT, for a thread with `lg` lane groups. -/
def acceptedType (lg : Nat) (x : Word) : Prop :=
  let type := (x.extractLsb' 0 5).toNat
  let mtype := (x.extractLsb' 5 5).toNat
  x.toNat < 2 ^ 12 ∧ type ≤ 0x0D ∧
    (mtype = 0 ∨ (type ≤ 0x07 ∧ (mtype = 0x1F ∨ mtype ≤ 0x07)) ∨ (0x08 ≤ type ∧ type ≤ 0x0B ∧ mtype ∈ [0x08, 0x09, 0x0A, 0x0B, 0x0F, 0x10]) ∨
      (type = 0x0C ∧ (mtype = 0x0C ∨ mtype = 0x0E))) ∧
    1024 * lg * 2 ^ (x.extractLsb' 10 2).toNat / typeWidth type ≤ 2048

/-- What vsett writes (R81) where the value is accepted: VT its low 12 bits, VL its VLMAX; else VT with ILL set and the value's other bits,
and VL 0. -/
def typed (t : Thread) (x : Word) (accepted : Bool) : Thread :=
  if accepted then
    { t with
      vt := (x.extractLsb' 0 12).zeroExtend 13, epoch := t.epoch + 1
      vl := BitVec.ofNat 16 (1024 * t.lg * 2 ^ (x.extractLsb' 10 2).toNat / typeWidth (x.extractLsb' 0 5).toNat) }
  else { t with vt := 0x1000 ||| (x.extractLsb' 0 12).zeroExtend 13, vl := 0, epoch := t.epoch + 1 }

/-- vsett and mts VT (R73, R81): they never trap on their value, and vsett returns VLMAX, which is the new VL. On a thread of 1 to 8 lane
groups (R77). -/
def Obligations.TypeWrites : Prop :=
  ∀ (s : State) (b : Bool), 1 ≤ s.cur.lg → s.cur.lg ≤ 8 →
    (∀ (f : FmtSR), Ready s [(f.ga, f.sa, 0)] [f.gd] → (b = true ↔ acceptedType s.cur.lg (s.cur.gread f.ga)) →
      exec (.vsett f) s = .next (s.mod (fun t =>
        ((typed t (t.gread f.ga) b).gwrite f.gd ((typed t (t.gread f.ga) b).vl.zeroExtend 64)).next))) ∧
    (∀ (f : FmtSI), Ready s [(f.ga, f.sa, 0)] [] → (b = true ↔ acceptedType s.cur.lg (s.cur.gread f.ga)) →
      exec (.mtsVt f) s = .next (s.mod (fun t => (typed t (t.gread f.ga) b).next)))

/-- vsetes and mts ES in privileged mode (R82, R309): while the entry that VCP names is held, and it is no frame, ES becomes
min(g(ga), its effective VL), where `e` is the oldest entry of the highest level; with nothing held they change nothing. -/
def Obligations.StartWrites : Prop :=
  (∀ (s : State) (e : Entry), s.cur.priv = true → s.cur.released = 0 → topLevel s.cur.queue ≠ 0 →
    s.cur.queue.find? (fun x => x.level.toNat == topLevel s.cur.queue) = some e → isFrame e.word = false →
    (∀ f : FmtSR, Ready s [(f.ga, f.sa, 0)] [] →
      exec (.vsetes f) s = .next (s.mod (fun t => ({ t with es := BitVec.ofNat 16 (min (t.gread f.ga).toNat e.vl) } : Thread).next))) ∧
    (∀ f : FmtSI, Ready s [(f.ga, f.sa, 0)] [] → s.cur.waited = [] →
      exec (.mtsEs f) s = .next (s.mod (fun t => ({ t with es := BitVec.ofNat 16 (min (t.gread f.ga).toNat e.vl) } : Thread).next)))) ∧
  (∀ s : State, s.cur.priv = true → topLevel s.cur.queue = 0 →
    (∀ f : FmtSR, Ready s [(f.ga, f.sa, 0)] [] → exec (.vsetes f) s = .next (s.mod Thread.next)) ∧
    (∀ f : FmtSI, Ready s [(f.ga, f.sa, 0)] [] → s.cur.waited = [] → exec (.mtsEs f) s = .next (s.mod Thread.next)))

/-! ## Atomics, acquire, release, fence, await and wake -/

/-- The scalar atomics: size in bytes and the new value from the old one, the operand and g(gd), each kept to the size; none where nothing
is written (R252). -/
def atomicTable : List ((FmtAtomic → Instr) × Nat × (Nat → Nat → Nat → Option Nat)) :=
  let less := fun (w m b : Nat) => decide ((BitVec.ofNat w m).toInt < (BitVec.ofNat w b).toInt)
  [ (.aswpW, 4, fun _ b _ => some b), (.aaddW, 4, fun m b _ => some ((m + b) % 2 ^ 32)), (.aandW, 4, fun m b _ => some (m &&& b)),
    (.aorW, 4, fun m b _ => some (m ||| b)), (.axorW, 4, fun m b _ => some (m ^^^ b)),
    (.aminW, 4, fun m b _ => some (if less 32 m b then m else b)), (.amaxW, 4, fun m b _ => some (if less 32 m b then b else m)),
    (.aminzW, 4, fun m b _ => some (min m b)), (.amaxzW, 4, fun m b _ => some (max m b)),
    (.acasW, 4, fun m b d => if m = d then some b else none),
    (.aswpD, 8, fun _ b _ => some b), (.aaddD, 8, fun m b _ => some ((m + b) % 2 ^ 64)), (.aandD, 8, fun m b _ => some (m &&& b)),
    (.aorD, 8, fun m b _ => some (m ||| b)), (.axorD, 8, fun m b _ => some (m ^^^ b)),
    (.aminD, 8, fun m b _ => some (if less 64 m b then m else b)), (.amaxD, 8, fun m b _ => some (if less 64 m b then b else m)),
    (.aminzD, 8, fun m b _ => some (min m b)), (.amaxzD, 8, fun m b _ => some (max m b)),
    (.acasD, 8, fun m b d => if m = d then some b else none) ]

/-- What is to do: VL above ES, and no all-false guard (R34, R79). -/
def todo (t : Thread) (guard : BitVec 3) (gneg : Bool) : Prop := t.es.toNat < t.vl.toNat ∧ ¬(guard = 0 ∧ gneg = true)

/-- An element of `w` bits as the number that its type reads (R101). -/
def reading (signed : Bool) (w x : Nat) : Int := if signed then (BitVec.ofNat w x).toInt else ((x % 2 ^ w : Nat) : Int)

/-- Every scalar atomic that reaches its bytes completes (R252, R253): the old value, sign-extended, goes to g(gd), the new one to memory
where the operation writes, in one step; both R and W are needed, D is set exactly where it writes, and a release has waited for every
older entry (R258). Where no strong access of another size has touched the bytes (R251). -/
def scalarAtomicResults : Prop :=
  ∀ x ∈ atomicTable, ∀ (f : FmtAtomic) (s s1 : State) (pa : Nat) (l : Leaf), Ready s [(f.ga, f.sa, 0), (f.gb, f.sb, 1)] [f.gd] →
    (f.order.getLsbD 1 = true → s.cur.waited = []) → Reaches s (s.cur.gread f.ga) x.2.1 Need.both pa l s1 →
    let b := (s.cur.gread f.gb).toNat % 2 ^ (8 * x.2.1)
    let d := (s.cur.gread f.gd).toNat % 2 ^ (8 * x.2.1)
    let u := accessed s s1 (s.cur.gread f.ga) l (x.2.2 (s1.mem.num pa x.2.1) b d).isSome pa
    Coherent s1 u pa x.2.1 → exec (x.1 f) s = .next ((match x.2.2 (u.mem.num pa x.2.1) b d with
      | some y => recorded ((recorded u pa x.2.1).write pa (leBytes x.2.1 y)) pa x.2.1
      | none => recorded u pa x.2.1).mod (fun t =>
        (t.gwrite f.gd (BitVec.ofInt 64 (BitVec.ofNat (8 * x.2.1) (u.mem.num pa x.2.1)).toInt)).next))

/-- One step of a reduction or scan on a type (R107, R115). -/
def foldStep (float : Nat → Nat → Nat → Nat → FRes) (int : Int → Int → Int) (ty rm a b : Nat) : FRes :=
  let n := typeWidth ty
  let read := reading (decide (4 ≤ ty)) n
  if isFloat ty then float ty rm a b else ((int (read a) (read b) % (2 ^ n : Nat)).toNat, 0)

/-- The step of a sum, a maximum and a minimum. -/
def foldSum (ty rm a b : Nat) : FRes :=
  foldStep (fun ty rm a b => fAddV (fmtOf ty) rm (decodeF (fmtOf ty) a) (decodeF (fmtOf ty) b)) (fun a b => a + b) ty rm a b
def foldMax (ty rm a b : Nat) : FRes := foldStep (fun ty _ a b => fPick (fmtOf ty) false a b) (fun a b => if a < b then b else a) ty rm a b
def foldMin (ty rm a b : Nat) : FRes := foldStep (fun ty _ a b => fPick (fmtOf ty) true a b) (fun a b => if a < b then a else b) ty rm a b

/-- The vector atomics: whether they fetch, and the new value with its flags from the type, the rounding mode, the old value and the data (R260). -/
noncomputable def vectorAtomicTable : List ((FmtV → Instr) × Bool × (Nat → Nat → Nat → Nat → FRes)) :=
  let plain := fun (op : Nat → Nat → Nat) (_ _ m d : Nat) => ((op m d, 0) : FRes)
  let and := plain (fun m d => m &&& d)
  let or := plain (fun m d => m ||| d)
  let xor := plain (fun m d => m ^^^ d)
  let swap := plain (fun _ d => d)
  [ (.vamoAdd, false, foldSum), (.vamoMin, false, foldMin), (.vamoMax, false, foldMax), (.vamoAnd, false, and), (.vamoOr, false, or),
    (.vamoXor, false, xor), (.vamoSwp, false, swap), (.vamofAdd, true, foldSum), (.vamofMin, true, foldMin), (.vamofMax, true, foldMax),
    (.vamofAnd, true, and), (.vamofOr, true, or), (.vamofXor, true, xor), (.vamofSwp, true, swap) ]

/-- The updates of one location by the elements (data, index) that name it, in this order (R261): its last value, and of each element the index, the
value that it found and its flags. -/
def updates (step : Nat → Nat → FRes) : Nat → List (Nat × Nat) → Nat × List (Nat × Nat × BitVec 5)
  | m, [] => (m, [])
  | m, (d, i) :: rest =>
    let after := updates step (step m d).1 rest
    (after.1, (i, m, (step m d).2) :: after.2)

/-- No strong access of another size has touched these bytes or their sector, no byte is unpredictable, and they lie in no ring's slot (R233, R251). -/
def Settled (s : State) (pa n : Nat) : Prop :=
  s.mixedBytes pa n = [] ∧ s.wild = [] ∧ (∀ r ∈ s.sizes, r.sector = pa / 32 → r.size = n) ∧ ∀ r ∈ s.rings.toList, r.spoiledBy pa n = false

/-- A vector atomic whose active elements are plain at g(va) + size × index completes (R251, R260, R261): each location that elements name is updated
by them in index order, a fetching form leaves in each active element of vd what it found, and the flags join FFLAGS; every other byte, register and
element keeps its value. vclaim (R303), with VL above 0: of the 16 bytes at g(ga), a counter and its limit, it claims min(VL, limit - counter), or 0
where the counter has reached the limit; the counter goes on by the claim, g(gd) receives its old value and VL the claim. With VL 0 it does nothing. -/
def claimingResults : Prop :=
  (∀ x ∈ vectorAtomicTable, ∀ (f : FmtV) (w : BitVec 32) (s : State) (at_ : Nat → Nat), encode (x.1 f) = some w → lone w → Idle s →
    Pushes s (descOf w) w → Sized s.cur → Clean s.cur → wellFormed s → todo s.cur f.guard f.gneg →
    let t := s.cur
    let n := typeWidth (vtType t.vt12)
    let m := n / 8
    let on := (List.range t.vl.toNat).filter (active t f.guard f.gneg)
    let va := fun i => (t.gread f.va).toNat + m * t.elem f.vb.toNat 32 i
    (∀ i ∈ on, Plain s (va i : Nat) m Need.both (at_ (va i)) ∧ Settled s (at_ (va i)) m) →
    (∀ i ∈ on, ∀ j ∈ on, va i = va j ∨ at_ (va i) + m ≤ at_ (va j) ∨ at_ (va j) + m ≤ at_ (va i)) →
    let here := fun i => updates (x.2.2 (vtType t.vt12) t.frm.toNat) (s.mem.num (at_ (va i)) m)
      ((on.filter (fun j => va j == va i)).map (fun j => (t.elem f.vd.toNat n j, j)))
    ∃ u : State, exec (x.1 f) s = .next u ∧
      u = after { s with mem := u.mem, sizes := u.sizes, strong := u.strong } { passed t with
        v := u.cur.v, bad := u.cur.bad, dlen := u.cur.dlen, dirty := u.cur.dirty, q := u.cur.q
        fflags := t.fflags ||| raised (on.flatMap (fun i => (here i).2.map (fun y => (y.1, y.2.2)))) } ∧
      (∀ i ∈ on, u.mem.num (at_ (va i)) m = (here i).1) ∧
      (∀ a, (∀ i ∈ on, a < at_ (va i) ∨ at_ (va i) + m ≤ a) → u.mem.get a = s.mem.get a) ∧ othersKept s u f.vd.toNat (vtGroup t.vt12) ∧
      (∀ j < t.vlmax, u.cur.elem f.vd.toNat n j = match x.2.1 && on.contains j, (here j).2.find? (fun y => y.1 == j) with
        | true, some y => y.2.1
        | _, _ => t.elem f.vd.toNat n j)) ∧
  (∀ (f : FmtSR) (w : BitVec 32) (s : State) (pa : Nat), encode (.vclaim f) = some w → lone w → Idle s → Pushes s (descOf w) w → wellFormed s →
    s.cur.es = 0 →
    let t := s.cur
    (t.vl = 0 → exec (.vclaim f) s = .next (after s (stepped t))) ∧
    (t.vl ≠ 0 → Plain s ((t.gread f.ga).toNat : Nat) 16 Need.both pa → Settled s pa 16 →
      let counter := s.mem.num pa 8
      let limit := s.mem.num (pa + 8) 8
      let claim := if counter < limit then min t.vl.toNat (limit - counter) else 0
      ∃ u : State, exec (.vclaim f) s = .next u ∧
        u = after { s with mem := u.mem, sizes := u.sizes, strong := u.strong } { (stepped t).gwrite f.gd (BitVec.ofNat 64 counter) with
          vl := BitVec.ofNat 16 claim, q := u.cur.q } ∧
        u.mem.num pa 8 = counter + claim ∧ (∀ a, a < pa ∨ pa + 8 ≤ a → u.mem.get a = s.mem.get a)))

/-- Atomic operations of every kind. Every scalar atomic that reaches its bytes completes (R252, R253): the old value, sign-extended, goes to
g(gd), the new one to memory where the operation writes, in one step; both R and W are needed, D is set exactly where it writes, and a release has
waited for every older entry (R258). A vector atomic updates each location at g(va) + size × index by the elements that name it, in index order, a
fetching form leaving in each what it found (R260, R261). vclaim takes from a counter what is left below its limit, VL at most (R303). Nothing else
changes, but that landed stream data of the stored bytes goes and the access is recorded (R166, R251). Where no strong access of another size has
touched the bytes (R251). -/
def Obligations.AtomicResults : Prop := scalarAtomicResults ∧ claimingResults

/-- ld.acq, st.rel and fence.sc complete (R256 to R258): the loaded word is sign-extended; a release store and a fence have waited until
every older entry has retired. Memory here is sequentially consistent, so they order nothing more (log entry 1). -/
def Obligations.OrderedAccessResults : Prop :=
  (∀ (f : FmtMem) (s s1 : State) (pa : Nat) (l : Leaf), Ready s [(f.ga, f.sa, 0)] [f.gd] →
    (Reaches s (s.cur.gread f.ga) 4 Need.load pa l s1 → Coherent s1 (accessed s s1 (s.cur.gread f.ga) l false pa) pa 4 →
      exec (.ldAcqW f) s = .next ((recorded (accessed s s1 (s.cur.gread f.ga) l false pa) pa 4).mod (fun t =>
        (t.gwrite f.gd ((BitVec.ofNat 32 ((accessed s s1 (s.cur.gread f.ga) l false pa).mem.num pa 4)).signExtend 64)).next))) ∧
    (Reaches s (s.cur.gread f.ga) 8 Need.load pa l s1 → Coherent s1 (accessed s s1 (s.cur.gread f.ga) l false pa) pa 8 →
      exec (.ldAcqD f) s = .next ((recorded (accessed s s1 (s.cur.gread f.ga) l false pa) pa 8).mod (fun t =>
        (t.gwrite f.gd (BitVec.ofNat 64 ((accessed s s1 (s.cur.gread f.ga) l false pa).mem.num pa 8))).next))) ∧
    (s.cur.waited = [] → Reaches s (s.cur.gread f.ga) 4 Need.store pa l s1 → Coherent s1 (accessed s s1 (s.cur.gread f.ga) l true pa) pa 4 →
      exec (.stRelW f) s = .next ((recorded ((accessed s s1 (s.cur.gread f.ga) l true pa).write pa
        (leBytes 4 (s.cur.gread f.gd).toNat)) pa 4).mod Thread.next)) ∧
    (s.cur.waited = [] → Reaches s (s.cur.gread f.ga) 8 Need.store pa l s1 → Coherent s1 (accessed s s1 (s.cur.gread f.ga) l true pa) pa 8 →
      exec (.stRelD f) s = .next ((recorded ((accessed s s1 (s.cur.gread f.ga) l true pa).write pa
        (leBytes 8 (s.cur.gread f.gd).toNat)) pa 8).mod Thread.next))) ∧
  (∀ (f : FmtMem) (s : State), Ready s [] [] → s.cur.waited = [] → exec (.fenceSc f) s = .next (s.mod Thread.next))

/-- await (R259): where the doubleword differs from g(gb), or the thread was woken, it goes to g(gd); else the thread sleeps on its
sector within the scope, with its PC at the await. wake, checked as a store of one byte, writes no memory and marks every other thread
that sleeps on the sector, where each scope's instance contains the other thread (R250). That a wake sets neither A nor D, so that all of memory
stays as it was, is the model's reading (log entry 36). -/
def Obligations.AwaitAndWake : Prop :=
  (∀ (f : FmtMem) (s s1 : State) (pa : Nat) (l : Leaf), Ready s [(f.ga, f.sa, 0), (f.gb, f.sb, 1)] [f.gd] →
    Reaches s (s.cur.gread f.ga) 8 Need.load pa l s1 →
    let u := accessed s s1 (s.cur.gread f.ga) l false pa
    let x := BitVec.ofNat 64 (u.mem.num pa 8)
    Coherent s1 u pa 8 →
    (x ≠ s.cur.gread f.gb ∨ s.cur.woken = true →
      exec (.await f) s = .next ((recorded u pa 8).mod (fun t => (({ t with asleep := none, woken := false } : Thread).gwrite f.gd x).next))) ∧
    (x = s.cur.gread f.gb → s.cur.woken = false →
      exec (.await f) s = .next ((recorded u pa 8).mod (fun t => { t with asleep := some (pa / 32 * 8 + f.scope.toNat), woken := false })))) ∧
  (∀ (f : FmtMem) (s s1 : State) (pa : Nat) (l : Leaf), Ready s [(f.ga, f.sa, 0)] [] →
    s.scalarCheck s.cur.ctx (s.cur.gread f.ga).toNat 1 Need.store = (.ok (pa, l), s1) →
    ∃ t : State, exec (.wake f) s = .next t ∧ t.mem = s.mem ∧ t.cur = s.cur.next ∧
      t.others = s.others.map (fun x => { x with woken := x.woken ||
        (match x.asleep with
         | some k => decide (k / 8 = pa / 32) && s.scopeHas f.scope.toNat s.cur x && s.scopeHas (k % 8) x s.cur
         | none => false) }))

/-! ## Barriers -/

/-- bar.arrive and bar.sync on a thread barrier of the team (R264, R266), once every older entry has retired. An arrival adds one, sets the
token to the phase P and marks it valid. bar.sync arrives likewise and then waits where it stands, and does not arrive again while its token
holds P; once P has moved on it goes on with its token used. Which bar.sync waits, by barrier and PC, is the model's mark (log entry 6). -/
def Obligations.BarrierArrivals : Prop :=
  ∀ (f : FmtBar) (s : State), Ready s [] [] → s.cur.waited = [] →
    let b := s.myBarrier f.bar
    let k := s.cur.token f.bar
    let counted : State := { s with barriers := putBarrier { b with arrivals := b.arrivals + 1 } s.barriers }
    (s.foreignBarrier f.bar = false → b.kind = 1 → ¬(k.valid = true ∧ k.phase = b.phase) → s.reportDiffers b = false →
      exec (.barArrive f) s = .next (counted.mod (fun t => (t.setToken b.num { phase := b.phase, valid := true }).next)) ∧
      (s.cur.syncing ≠ some (f.bar, s.cur.pc) →
        exec (.barSync f) s = .next (counted.mod (fun t =>
          { t.setToken b.num { phase := b.phase, valid := true } with syncing := some (f.bar, s.cur.pc) })))) ∧
    (s.cur.syncing = some (f.bar, s.cur.pc) → k.valid = true → k.phase = b.phase → exec (.barSync f) s = .next s) ∧
    (s.cur.syncing = some (f.bar, s.cur.pc) → k.valid = true → k.phase ≠ b.phase →
      exec (.barSync f) s = .next (s.mod (fun t =>
        (({ t with syncing := none } : Thread).setToken f.bar { k with valid := false }).next)))

/-- bar.wait (R264, R265): on a thread barrier with a valid token it waits, changing nothing, while the phase is the token's, and then
marks the token not valid; on a landing barrier it waits, changing nothing, until landed ≥ g(ga). -/
def Obligations.BarrierWaits : Prop :=
  ∀ (f : FmtBar) (s : State), Ready s [(f.ga, f.sa, 0)] [] → s.foreignBarrier f.bar = false →
    let b := s.myBarrier f.bar
    let k := s.cur.token f.bar
    (b.kind = 1 → k.valid = true → k.phase = b.phase → exec (.barWait f) s = .next s) ∧
    (b.kind = 1 → k.valid = true → k.phase ≠ b.phase →
      exec (.barWait f) s = .next (s.mod (fun t => (t.setToken f.bar { k with valid := false }).next))) ∧
    (b.kind = 2 → b.landed < (s.cur.gread f.ga).toNat → exec (.barWait f) s = .next s) ∧
    (b.kind = 2 → (s.cur.gread f.ga).toNat ≤ b.landed → exec (.barWait f) s = .next (s.mod Thread.next))

/-- bar.stat (R267): a snapshot of a barrier that belongs to no other team, once no older entry may add to its expected count. -/
def Obligations.BarrierStatus : Prop :=
  ∀ (f : FmtBar) (s : State), Ready s [(f.ga, f.sa, 0)] [f.gd] → s.foreignBarrier f.bar = false →
    (∀ e ∈ s.cur.waited, e.addsTo f.bar = false) →
    let b := s.myBarrier f.bar
    ∃ x : Nat, exec (.barStat f) s = .next (s.mod (fun t => (t.gwrite f.gd (BitVec.ofNat 64 x)).next)) ∧
      ((s.cur.gread f.ga).getLsbD 0 = false →
        (b.kind = 0 → x = 0) ∧
        (b.kind = 1 → x = b.phase.toNat + 2 ^ 16 * (b.arrivals % 8) + 2 ^ 19 * b.count + 2 ^ 22 * b.scope.toNat + 2 ^ 25) ∧
        (b.kind = 2 → x = b.landed % 2 ^ 32 + 2 ^ 32 * (b.expected % 2 ^ 32))) ∧
      ((s.cur.gread f.ga).getLsbD 0 = true →
        x = b.err.toNat + 2 * b.svalid.toNat + 2 ^ 8 * b.code.toNat + 2 ^ 16 * b.elem.toNat + 2 ^ 32 * (b.land % 2 ^ 32))

/-- bar.cfg with a value of R263's table on a barrier of the team that is not in use, once every older entry has retired: kind, scope and
count from g(ga), every count, the phase and the status 0, and no token of the team's threads of this crew valid. -/
def Obligations.BarrierConfiguration : Prop :=
  ∀ (f : FmtBar) (s : State), Ready s [(f.ga, f.sa, 0)] [] → s.cur.waited = [] →
    let x := s.cur.gread f.ga
    let kind := x.toNat % 4
    let scope := x.toNat / 4 % 8
    let count := x.toNat / 256
    x.toNat / 32 % 8 = 0 → kind ≠ 3 → scope ≤ 4 → (kind = 2 → scope = 0) → (kind = 1 → 1 ≤ count ∧ count ≤ 4) → (kind ≠ 1 → count = 0) →
    s.record.bars.getLsbD f.bar.toNat = true → s.foreignBarrier f.bar = false →
    ((s.myBarrier f.bar).kind = 1 → (s.myBarrier f.bar).arrivals = 0) →
    ((s.myBarrier f.bar).kind = 2 → (s.myBarrier f.bar).expected ≤ (s.myBarrier f.bar).landed) →
    ∃ t : State, exec (.barCfg f) s = .next t ∧
      t.myBarrier f.bar = { Barrier.off s.cur.team s.crew f.bar with kind := BitVec.ofNat 2 kind, scope := BitVec.ofNat 3 scope, count := count } ∧
      (t.cur.token f.bar).valid = false ∧
      (∀ y ∈ t.others, y.team = s.cur.team → s.record.crew y.lthread = s.crew → (y.token f.bar).valid = false) ∧
      t.cur.pc = s.cur.pc + 4 ∧ t.cur.g = s.cur.g ∧ t.mem = s.mem

/-- The traps of the barrier instructions (R263, R264, R267, R268), with nothing queued: cause 0x4B, EADDR the PC, EINFO the barrier's number
and the reason, and no other effect. Of several reasons that apply to a bar.cfg, which R263 only lists, the order 6, 10, 5, 8 is the model's
reading (log entry 36). -/
def Obligations.BarrierTraps : Prop :=
  ∀ (f : FmtBar) (s : State), s.cur.queue = [] → (f.sa = true → s.cur.stuck ≠ some 0) →
    let b := s.myBarrier f.bar
    let k := s.cur.token f.bar
    let trap := fun (reason : Nat) => (.next (trapped s 0x4B s.cur.pc (BitVec.ofNat 64 (f.bar.toNat + 256 * reason))) : Out)
    let fresh := ¬(s.cur.syncing = some (f.bar, s.cur.pc) ∧ k.valid = true)
    (s.foreignBarrier f.bar = true →
      exec (.barArrive f) s = trap 5 ∧ exec (.barWait f) s = trap 5 ∧ exec (.barStat f) s = trap 5 ∧ (fresh → exec (.barSync f) s = trap 5)) ∧
    (s.foreignBarrier f.bar = false → b.kind = 0 →
      exec (.barArrive f) s = trap 1 ∧ exec (.barWait f) s = trap 1 ∧ (fresh → exec (.barSync f) s = trap 1)) ∧
    (s.foreignBarrier f.bar = false → b.kind = 2 → exec (.barArrive f) s = trap 2 ∧ (fresh → exec (.barSync f) s = trap 2)) ∧
    (s.foreignBarrier f.bar = false → b.kind = 1 → k.valid = true → k.phase = b.phase → exec (.barArrive f) s = trap 3) ∧
    (s.foreignBarrier f.bar = false → b.kind = 1 → k.valid = false → exec (.barWait f) s = trap 4) ∧
    (s.foreignBarrier f.bar = false → b.kind = 1 → k.valid = false → s.reportDiffers b = true →
      exec (.barArrive f) s = trap 7 ∧ exec (.barSync f) s = trap 7) ∧
    (badConfig (s.cur.gread f.ga) = true → exec (.barCfg f) s = trap 6) ∧
    (badConfig (s.cur.gread f.ga) = false → s.record.bars.getLsbD f.bar.toNat = false → exec (.barCfg f) s = trap 10) ∧
    (badConfig (s.cur.gread f.ga) = false → s.record.bars.getLsbD f.bar.toNat = true → s.foreignBarrier f.bar = true →
      exec (.barCfg f) s = trap 5) ∧
    (badConfig (s.cur.gread f.ga) = false → s.record.bars.getLsbD f.bar.toNat = true → s.foreignBarrier f.bar = false →
      (b.kind = 1 ∧ b.arrivals ≠ 0) ∨ (b.kind = 2 ∧ b.landed < b.expected) → exec (.barCfg f) s = trap 8)

/-! ## Exceptions and the system major -/

/-- `trap n` (R323): once every older entry has retired, cause 0x46 with EPC the next word, EADDR the trap's PC and EINFO n; where busy is set
already, a double trap. -/
def Obligations.TrapInstruction : Prop :=
  ∀ (f : FmtSR) (s : State), Ready s [] [] → s.cur.waited = [] →
    exec (.trap f) s = .next (s.mod (fun t =>
      t.enterTrap 0x46 false (t.pc + 4) t.pc (BitVec.ofNat 64 (f.ga.toNat * 32 + f.gb.toNat))))

/-- Trap entry (R308): EPC, ECAUSE with the queued and deferred bits, EADDR and EINFO are saved, ppriv receives the privilege, the thread is
privileged and busy, and goes on at TVEC; every other register keeps its value. A trap met while busy is set stops the thread at once and
changes nothing else (R310). EPC keeps the bits that it has (R306); `epochs` and `stuck` are the model's own (log entry 6). -/
def Obligations.TrapEntry : Prop :=
  ∀ (t : Thread) (cause : BitVec 8) (deferred : Bool) (epc eaddr einfo : Word),
    (t.busy = true → t.enterTrap cause deferred epc eaddr einfo = { t with status := .stopped }) ∧
    (t.busy = false → t.enterTrap cause deferred epc eaddr einfo =
      { t with
        epc := BitVec.ofNat 64 (epc.toNat % 2 ^ 56 / 4 * 4)
        ecause := BitVec.ofNat 10 (cause.toNat + (if t.queue = [] then 0 else 2 ^ 8) + (if deferred then 2 ^ 9 else 0))
        eaddr := eaddr, einfo := einfo, ppriv := t.priv, priv := true, busy := true, pc := t.tvec
        epochs := t.epoch :: t.epochs, stuck := none })

/-- eret (R324, R309): privileged; once every entry that is not held has retired, the PC comes from EPC, the privilege from ppriv, busy is
clear, and the entries of the highest level lose their mark; every other register keeps its value. A bar.sync that had arrived at EPC goes on
waiting (the model's mark, log entry 6). In user mode it traps with 0x45. -/
def Obligations.ReturnFromTrap : Prop :=
  (∀ (f : FmtSR) (s : State), Ready s [] [] → s.cur.priv = true → s.cur.waited = [] →
    ∃ t : State, exec (.eret f) s = .next t ∧ t.cur.pc = s.cur.epc ∧ t.cur.priv = s.cur.ppriv ∧ t.cur.busy = false ∧
      t.cur.queue = s.cur.queue.map (fun e => if e.level.toNat = topLevel s.cur.queue then { e with level := 0 } else e) ∧
      t = { s with cur := { s.cur with pc := s.cur.epc, priv := s.cur.ppriv, busy := false, queue := t.cur.queue, epoch := t.cur.epoch
                                       epochs := t.cur.epochs, released := t.cur.released
                                       syncing := if s.cur.epochs.length ≤ 1 then s.cur.syncing.filter (fun x => x.2 == s.cur.epc) else s.cur.syncing } }) ∧
  (∀ (f : FmtSR) (s : State), s.cur.queue = [] → s.cur.priv = false → exec (.eret f) s = .next (trapped s 0x45 s.cur.pc 0))

/-- A trap of the queued entry at the head of what is not held (R96, R309): it and every younger entry are held one level above the highest,
in order, with what a frame's member had emptied full again (R36) and otherwise as they were, ES is the entry's start, and the trap is entered;
where that level would be 16, or busy is set, the thread stops (R310). An open convoy or a capturing frame behind it is held like any other
entry. -/
def Obligations.QueuedTrapHolds : Prop :=
  ∀ (t : Thread) (n : Nat) (es : BitVec 16) (cause : BitVec 8) (eaddr einfo : Word), n < t.queue.length →
    (∀ i e, t.queue[i]? = some e → (e.held = true ↔ i < n)) →
    (t.busy = true ∨ 15 ≤ topLevel t.queue → t.holdTrap n es cause eaddr einfo = { t with status := .stopped }) ∧
    (t.busy = false → topLevel t.queue < 15 →
      t.holdTrap n es cause eaddr einfo =
        ({ t with es := es, released := 0
                  queue := t.queue.take n ++
                    (t.queue.drop n).map (fun e => { e with level := BitVec.ofNat 4 (topLevel t.queue + 1), running := none }) } : Thread).enterTrap
          cause false t.pc eaddr einfo)

/-- The privileged scalar forms in user mode take 0x45 and do nothing else (R48, R82, R322), with nothing queued. -/
def Obligations.PrivilegedFormsTrap : Prop :=
  ∀ (f : FmtSR) (s : State), s.cur.queue = [] → s.cur.priv = false →
    ∀ i ∈ [Instr.eret f, .tlbinvAll f, .tlbinvCtx f, .tlbinvVa f, .tlbprobe f, .vsetes f],
      exec i s = .next (trapped s 0x45 s.cur.pc 0)

/-- ifence, once the thread's earlier stores are made, discards every word fetched ahead (R325); yield and cfetch change nothing (R301, R328);
cflush and cclean, whose checks are those of a one-byte load without alignment, change no value (R328), and an error in the data does not stop
them. That after a flush a line may be used under another FMT bit or way class is stated in the model's own record of lines (`seen` forgotten;
the line keeps the key slot that it was written under): log entry 4. -/
def Obligations.FenceAndCacheForms : Prop :=
  ∀ (f : FmtSR) (s : State),
    (Ready s [] [] → s.memoryClear = true → exec (.ifence f) s = .next (s.mod (fun t => ({ t with fetched := [] } : Thread).next))) ∧
    (Ready s [] [] → exec (.yield f) s = .next (s.mod Thread.next)) ∧
    (Ready s [(f.ga, f.sa, 0)] [] → exec (.cfetch f) s = .next (s.mod Thread.next)) ∧
    (Ready s [(f.ga, f.sa, 0)] [] → ∀ l, s.translate s.cur.ctx (s.cur.gread f.ga).toNat = .leaf l →
      (∀ cause level, (s.scalarCheck s.cur.ctx (s.cur.gread f.ga).toNat 1 Need.load).1 = .error (cause, level) → cause = 0x07) →
      let flushed := s.lines.map (fun t => if t.line = l.pa (s.cur.gread f.ga).toNat / 128 then { t with seen := none } else t)
      exec (.cflush f) s = .next (({ s with lines := flushed } : State).mod Thread.next) ∧ exec (.cclean f) s = .next (s.mod Thread.next)) ∧
    (Ready s [(f.ga, f.sa, 0)] [] → s.cur.queue = [] → ∀ cause level,
      (s.scalarCheck s.cur.ctx (s.cur.gread f.ga).toNat 1 Need.load).1 = .error (cause, level) → cause ≠ 0x07 →
      exec (.cflush f) s = .next (trapped s cause (s.cur.gread f.ga) (einfoScalar 0 false false s.cur.user level)) ∧
      exec (.cclean f) s = .next (trapped s cause (s.cur.gread f.ga) (einfoScalar 0 false false s.cur.user level)))

/-- The tlbinv forms remove the partition's entries that R326 names, and no other, once the thread's earlier accesses have taken effect; that
what streams have landed through them is dropped too is the model's reading (log entry 20); with no pin on a page of the partition they then go on. tlbprobe answers the leaf that a walk finds, or
the level without a valid entry in bits [9:8], and changes nothing else (R327). All of them are privileged. -/
def Obligations.TranslationForms : Prop :=
  ∀ (f : FmtSR) (s : State), s.cur.priv = true → s.memoryClear = true →
    let mine := fun (e : TlbEntry) => e.part == s.cur.part.toNat
    let left := fun (gone : TlbEntry → Bool) => ({ s with
      tlb := s.tlb.filter (fun e => !(mine e && gone e))
      cur := s.cur.dropThrough s.cur.part.toNat (s.tlb.filter (fun e => mine e && gone e))
      others := s.others.map (Thread.dropThrough s.cur.part.toNat (s.tlb.filter (fun e => mine e && gone e))) } : State).mod Thread.next
    let unpinned := (∀ c ∈ s.pinning, ∀ p ∈ c.pins, p.part ≠ s.cur.part.toNat) ∧
      (∀ r ∈ s.rings.toList, r.pinned = true → ∀ p ∈ r.pins, p.part ≠ s.cur.part.toNat)
    (unpinned → Ready s [] [] → exec (.tlbinvAll f) s = .next (left (fun _ => true))) ∧
    (unpinned → Ready s [(f.ga, f.sa, 0)] [] →
      exec (.tlbinvCtx f) s = .next (left (fun e => !e.global && e.ctx == (s.cur.gread f.ga).toNat % 2 ^ 12))) ∧
    (unpinned → Ready s [(f.ga, f.sa, 0), (f.gb, f.sb, 1)] [] →
      exec (.tlbinvVa f) s = .next (left (fun e => (e.global || e.ctx == (s.cur.gread f.gb).toNat % 2 ^ 12) &&
        e.va / 2 ^ e.bits == (s.cur.gread f.ga).toNat / 2 ^ e.bits))) ∧
    (Ready s [(f.ga, f.sa, 0)] [f.gd] →
      (∀ l, s.walk s.cur.ctx (s.cur.gread f.ga).toNat = .leaf l →
        exec (.tlbprobe f) s = .next (s.mod (fun t => (t.gwrite f.gd l.word).next))) ∧
      (∀ level, s.walk s.cur.ctx (s.cur.gread f.ga).toNat = .invalid level →
        exec (.tlbprobe f) s = .next (s.mod (fun t => (t.gwrite f.gd (BitVec.ofNat 64 (256 * level))).next))))

/-- self (R302): by its selector the logical coordinates and number, the shape, the physical place, the pipes, the launch, or the vector
length, in the bytes and the 16-bit column that R302 gives; a selector of 6 or more takes 0x40. exit (R300): once every entry has retired
and no copy or sealed operation of the thread is in flight, the slot stops, the streams are freed, and the bind record and the team say so. -/
def Obligations.ThreadForms : Prop :=
  (∀ (f : FmtSR) (s : State), Ready s [] [f.gd] →
    let r := s.record
    let t := s.cur
    let packed := fun (l : List Nat) (h : Nat) => BitVec.ofNat 64 (leNat ((l.map (fun x => (BitVec.ofNat 8 x : Byte))) ++ leBytes 2 h))
    let answers := fun (x : Word) => exec (.self f) s = .next (s.mod (fun t => (t.gwrite f.gd x).next))
    (f.gb = 0 → answers (packed [t.lthread % max 1 r.tpc, t.lthread / max 1 r.tpc % max 1 r.cps, t.lthread / max 1 (r.tpc * r.cps) % max 1 r.spc,
      t.lthread / max 1 (r.tpc * r.cps * r.spc) % max 1 r.cpt, t.lthread / max 1 (r.tpc * r.cps * r.spc * r.cpt)] t.lthread)) ∧
    (f.gb = 1 → answers (packed [r.tpc, r.cps, r.spc, r.cpt, r.tr] (r.tpc * r.cps * r.spc * r.cpt * r.tr))) ∧
    (f.gb = 2 → answers (packed [t.slot % 4, t.slot / 4 % 8, t.slot / 32 % 4, t.slot / 128 % 4, t.slot / 512] t.slot)) ∧
    (f.gb = 5 → answers (packed [t.lg, 0, 0, 0, 0] (1024 * t.lg))) ∧
    (let bit := fun (n : Nat) => (t.pipes.getLsbD n).toNat
     f.gb = 3 → answers (packed [t.pipes.toNat, bit 0 + bit 1, bit 2 + bit 3, bit 4, bit 5] (bit 6))) ∧
    (∀ m : Team, s.team t.team = some m → f.gb = 4 → answers (packed [r.prio, t.part.toNat, 0, 0, 0] m.launch))) ∧
  (∀ (f : FmtSR) (s : State), s.cur.queue = [] → 6 ≤ f.gb.toNat → exec (.self f) s = .next (trapped s 0x40 s.cur.pc 0)) ∧
  (∀ (f : FmtSR) (s : State), Ready s [] [] → s.cur.waited = [] →
    (∀ c ∈ s.copies, ¬(c.team = s.cur.team ∧ c.lthread = s.cur.lthread)) →
    (∀ o ∈ s.seals, ¬(o.team = s.cur.team ∧ o.lthread = s.cur.lthread)) →
    ∃ t : State, exec (.exit f) s = .next t ∧ t.cur.status = .exited ∧ (∀ q ∈ t.cur.q.toList, q.kind = .unbound) ∧
      t.binds = s.binds.map (fun b => if b.slot = s.cur.slot ∧ b.valid then { b with exited := true } else b) ∧
      (∀ x ∈ t.teams, x.num = s.cur.team → s.cur.lthread < x.exited.length → x.exited[s.cur.lthread]? = some true) ∧
      t.mem = s.mem ∧ t.cur.g = s.cur.g ∧ t.others = s.others ∧
      (∀ r ∈ t.rings.toList, ∀ q, r.user ≠ some (s.cur.team, s.cur.lthread, q) ∨ 8 ≤ q))


/-! ## The vector queue -/

/-- Every queued instruction whose push checks pass enters the queue at once, as an unstarted entry with its word, its PC, the type, the
effective length, TRL and the operands as they are now (of an operand that a member of the open convoy or frame writes, its register: log
entry 49), and the scalar part goes on (R17, R78); where queued entries work by events (log entry 7), that is all, and so it is everywhere for
a vframe with nothing before it, whose frame then captures (R44). With nothing queued the first check of R48 that fails traps instead: 0x41 for
the type, 0x48 for a register group, 0x4A for TRL, 0x42 for pipes that the partition lacks (R43); nothing is pushed. -/
def Obligations.QueuedPush : Prop :=
  ∀ (i : Instr) (w : BitVec 32) (s : State), encode i = some w → queuedWord w = true →
    let d := descOf w
    let late := fun (k : Nat) => (d.scalars[k]?.map (fun x => x.1)).filter s.cur.openWrites
    (s.pace = .decoupled ∨ (isFrame w = true ∧ s.cur.queue = []) → Enters s d w → exec i s = .next (s.mod (fun t =>
      { t with
        queue := t.queue ++ [{ word := w, pc := t.pc, seq := t.seq, slot := t.nextSlot, vt := t.vt.extractLsb' 0 12, vl := t.vl.toNat, trl := t.trl
                               opa := (d.scalars.map (fun x => t.gread x.1)).getD 0 0, opb := (d.scalars.map (fun x => t.gread x.1)).getD 1 0
                               lateA := late 0, lateB := late 1, dirty := 0, deferred := none, running := none
                               level := 0, frame := (capturing t.queue).isSome, epoch := t.epoch, phase := .unstarted }]
        seq := t.seq + 1, nextSlot := t.nextSlot + 1, pc := t.pc + 4 }))) ∧
    (s.cur.queue = [] → d.typeOk s.cur.vt = false → exec i s = .next (trapped s 0x41 s.cur.pc 0)) ∧
    (s.cur.queue = [] → d.typeOk s.cur.vt = true → ∀ g, (d.align w s.cur.vt12).find? (fun g => g.1 % g.2.1 ≠ 0) = some g →
      exec i s = .next (trapped s 0x48 s.cur.pc (einfoPos 0 g.2.2 0 0))) ∧
    (s.cur.queue = [] → d.typeOk s.cur.vt = true → (∀ g ∈ d.align w s.cur.vt12, g.1 % g.2.1 = 0) → d.tile = true →
      (s.cur.trl = 0 ∨ 2048 < s.cur.trl.toNat) → exec i s = .next (trapped s 0x4A s.cur.pc 0)) ∧
    (s.cur.queue = [] → d.typeOk s.cur.vt = true → (∀ g ∈ d.align w s.cur.vt12, g.1 % g.2.1 = 0) → d.tile = false → lone w →
      s.cur.stuck = none → pipeExcess s.cur.pipes [d.pipes] [] 0 = some 0 →
      exec i s = .next (trapped s 0x42 s.cur.pc 0))

/-- Every queued instruction that is no frame and joins no convoy, issued with nothing queued where entries work at once, completes in
that step if its elements meet no cause, its own checks pass and it need not wait: it is pushed, dispatches with the effects of its
description over the elements below VL, and retires (R17, R36, R91, R103, R104). -/
def Obligations.QueuedCompletes : Prop :=
  ∀ (i : Instr) (w : BitVec 32) (s : State), encode i = some w → queuedWord w = true → lone w → Idle s → Pushes s (descOf w) w →
    let a := workOf s (descOf w) w
    a.fail = none → a.check = none → a.wait = false → a.deferred = none →
    exec i s = .next (retired s (descOf w) w a s.cur.vl.toNat none)

/-- With nothing to do, VL not above ES or the all-false guard, an arithmetic, memory, atomic or matrix instruction performs no element,
reads and writes no register, raises no flag and traps for nothing (R34, R79). That this includes ROWP for a vldt or vstt, and g(gd) for vext,
vpopc and vfirst, is the model's reading (log entry 32). The counter that goes on, and the errors awaiting a matrix instruction's rows, are the
model's (log entries 9 and 50). -/
def Obligations.NothingToDo : Prop :=
  ∀ (i : Instr) (w : BitVec 32) (s : State), encode i = some w → 0x28 ≤ majorOf w → majorOf w ≤ 0x34 → lone w → Idle s → Pushes s (descOf w) w →
    (s.cur.vl.toNat ≤ s.cur.es.toNat ∨ (descOf w).allFalse = true) →
    exec i s = .next ((after s (stepped s.cur)).rowsDone w)

/-- The trim rule and the leading trap (R83 to R87). The first failing element `f` of a pass shortens the instruction to the achieved length
of R84: where that lies above ES and the elements below it meet no cause, it completes at that length, VL takes it, TRC holds cause,
subcode, element, lane and sequence number and TRA the address; otherwise it traps with that record in EINFO and TRC, with no effect, and is
held. -/
def Obligations.TrimAndTrap : Prop :=
  ∀ (i : Instr) (w : BitVec 32) (s : State) (f : Fail), encode i = some w → queuedWord w = true → lone w → Idle s → Pushes s (descOf w) w →
    let d := descOf w
    let v := viewOf s d w
    let j := achieved (d.kind v.vt) s.cur.trl.toNat f.elem
    d.ownLength = false → d.allFalse = false → s.cur.es.toNat < s.cur.vl.toNat →
    (workOf s d w).fail = some f → (workOf s d w).check = none → (workOf s d w).wait = false →
    (s.cur.es.toNat < j → j ≤ s.cur.vl.toNat → d.trims = true → ∀ a, a = d.run j v (Acc.start (pushed s d w)) →
      a.fail = none → a.check = none → a.wait = false → a.deferred = none →
      exec i s = .next (retired s d w a j (some f)) ∧
      (a.vlOut = none → (retired s d w a j (some f)).cur.vl = BitVec.ofNat 16 j) ∧
      (retired s d w a j (some f)).cur.trc = BitVec.ofNat 64 (f.cause.toNat + 2 ^ 8 * (f.sub % 2 ^ 8) + 2 ^ 16 * (j % 2 ^ 16) +
        2 ^ 32 * (f.lane % 2 ^ 16) + 2 ^ 48 * s.cur.seq.toNat) ∧
      (retired s d w a j (some f)).cur.tra = BitVec.ofNat 64 f.addr) ∧
    (j ≤ s.cur.es.toNat ∨ d.trims = false →
      let rec' := BitVec.ofNat 64 (f.cause.toNat + 2 ^ 8 * (f.sub % 2 ^ 8) + 2 ^ 16 * s.cur.es.toNat + 2 ^ 32 * (f.lane % 2 ^ 16) +
        2 ^ 48 * s.cur.seq.toNat)
      exec i s = .next (((pushed s d w).tock.rowsDone w).mod (fun t =>
        ({ t with trc := rec', tra := BitVec.ofNat 64 f.addr } : Thread).holdTrap 0 s.cur.es f.cause (BitVec.ofNat 64 f.addr) rec')))

/-- The integer operations of majors 0x28 and 0x2F: whether b is g(vb) in place of an element, whether vd is read, and the result from the
width, the signedness and the elements of vd, a and b, of which the low bits are kept (R105, R107, R108). -/
def integerTable : List ((FmtV → Instr) × Bool × Bool × (Nat → Bool → Nat → Nat → Nat → Int)) :=
  let add := fun (w : Nat) (sg : Bool) (_ a b : Nat) => reading sg w a + reading sg w b
  let sub := fun (w : Nat) (sg : Bool) (_ a b : Nat) => reading sg w a - reading sg w b
  let mul := fun (w : Nat) (sg : Bool) (_ a b : Nat) => reading sg w a * reading sg w b
  let mac := fun (w : Nat) (sg : Bool) (d a b : Nat) => reading sg w d + reading sg w a * reading sg w b
  let least := fun (w : Nat) (sg : Bool) (_ a b : Nat) => if reading sg w a < reading sg w b then reading sg w a else reading sg w b
  let most := fun (w : Nat) (sg : Bool) (_ a b : Nat) => if reading sg w a < reading sg w b then reading sg w b else reading sg w a
  let div := fun (w : Nat) (sg : Bool) (_ a b : Nat) => if reading sg w b = 0 then -1 else (reading sg w a).tdiv (reading sg w b)
  let rem := fun (w : Nat) (sg : Bool) (_ a b : Nat) =>
    if reading sg w b = 0 then reading sg w a else reading sg w a - reading sg w b * (reading sg w a).tdiv (reading sg w b)
  let and := fun (_ : Nat) (_ : Bool) (_ a b : Nat) => ((a &&& b : Nat) : Int)
  let or := fun (_ : Nat) (_ : Bool) (_ a b : Nat) => ((a ||| b : Nat) : Int)
  let xor := fun (_ : Nat) (_ : Bool) (_ a b : Nat) => ((a ^^^ b : Nat) : Int)
  let sll := fun (w : Nat) (_ : Bool) (_ a b : Nat) => ((a * 2 ^ (b % w) : Nat) : Int)
  let srl := fun (w : Nat) (_ : Bool) (_ a b : Nat) => ((a / 2 ^ (b % w) : Nat) : Int)
  let sra := fun (w : Nat) (_ : Bool) (_ a b : Nat) => reading true w a / (2 ^ (b % w) : Nat)
  let clamp := fun (w : Nat) (sg : Bool) (x : Int) =>
    let lo : Int := if sg then -(2 ^ (w - 1) : Nat) else 0
    let hi : Int := if sg then (2 ^ (w - 1) : Nat) - 1 else (2 ^ w : Nat) - 1
    if x < lo then lo else if hi < x then hi else x
  let adds := fun (w : Nat) (sg : Bool) (_ a b : Nat) => clamp w sg (reading sg w a + reading sg w b)
  let subs := fun (w : Nat) (sg : Bool) (_ a b : Nat) => clamp w sg (reading sg w a - reading sg w b)
  [ (.vadd, false, false, add), (.vsub, false, false, sub), (.vmul, false, false, mul), (.vmac, false, true, mac), (.vmin, false, false, least),
    (.vmax, false, false, most), (.vdiv, false, false, div), (.vrem, false, false, rem), (.vand, false, false, and), (.vor, false, false, or),
    (.vxor, false, false, xor), (.vsll, false, false, sll), (.vsrl, false, false, srl), (.vsra, false, false, sra),
    (.vadds, false, false, adds), (.vsubs, false, false, subs), (.vaddVs, true, false, add), (.vsubVs, true, false, sub),
    (.vmulVs, true, false, mul), (.vmacVs, true, true, mac), (.vminVs, true, false, least), (.vmaxVs, true, false, most),
    (.vdivVs, true, false, div), (.vandVs, true, false, and), (.vorVs, true, false, or), (.vxorVs, true, false, xor),
    (.vsllVs, true, false, sll), (.vsrlVs, true, false, srl), (.vsraVs, true, false, sra), (.vaddsVs, true, false, adds),
    (.vsubsVs, true, false, subs) ]

/-- Every operation of majors 0x28 and 0x2F on an integer type completes (R105, R107, R108): each active element of vd receives the low bits
of its result, from the registers as they were; every other element of its group, every other vector register and everything else keeps its
value. Where no source element holds a register-file error. -/
def integerResults : Prop :=
  ∀ x ∈ integerTable, ∀ (f : FmtV) (w : BitVec 32) (s : State), encode (x.1 f) = some w → lone w → Idle s → Pushes s (descOf w) w →
    Sized s.cur → vtType s.cur.vt12 ≤ 7 →
    let t := s.cur
    let n := typeWidth (vtType t.vt12)
    let signed := decide (4 ≤ vtType t.vt12)
    let b := fun i => if x.2.1 then (t.gread f.vb).toNat % 2 ^ n else t.elem f.vb.toNat n i
    (∀ i, active t f.guard f.gneg i = true → t.elemBad f.va.toNat n i = false ∧ (x.2.1 = false → t.elemBad f.vb.toNat n i = false) ∧
      (x.2.2.1 = true → t.elemBad f.vd.toNat n i = false)) →
    ∃ u : State, exec (x.1 f) s = .next u ∧ onlyVectors s u ∧
      (∀ i < t.vlmax, u.cur.elem f.vd.toNat n i =
        if active t f.guard f.gneg i then (x.2.2.2 n signed (t.elem f.vd.toNat n i) (t.elem f.va.toNat n i) (b i) % (2 ^ n : Nat)).toNat
        else t.elem f.vd.toNat n i) ∧
      (∀ r < 32, (r < f.vd.toNat ∨ f.vd.toNat + vtGroup t.vt12 ≤ r) → u.cur.vread r = t.vread r)

/-- The floating-point operations of majors 0x28, 0x29 and 0x2F: whether b is g(vb) in place of an element, whether b is read, whether vd is, and the
result with its flags from the type, the rounding mode and the elements of vd, a and b (R107, R108, R109). -/
def floatTable : List ((FmtV → Instr) × Bool × Bool × Bool × (Nat → Nat → Nat → Nat → Nat → FRes)) :=
  let val := fun (ty x : Nat) => decodeF (fmtOf ty) x
  let add := fun (ty rm _ a b : Nat) => fAddV (fmtOf ty) rm (val ty a) (val ty b)
  let sub := fun (ty rm _ a b : Nat) => fAddV (fmtOf ty) rm (val ty a) (val ty b).negate
  let mul := fun (ty rm _ a b : Nat) => fMulV (fmtOf ty) rm (val ty a) (val ty b)
  let mac := fun (ty rm d a b : Nat) => fMacV (fmtOf ty) rm (val ty d) (val ty a) (val ty b)
  let nmac := fun (ty rm d a b : Nat) => fMacV (fmtOf ty) rm (val ty d) (val ty a).negate (val ty b)
  let least := fun (ty _ _ a b : Nat) => fPick (fmtOf ty) true a b
  let most := fun (ty _ _ a b : Nat) => fPick (fmtOf ty) false a b
  let div := fun (ty rm _ a b : Nat) => fDivV (fmtOf ty) rm (val ty a) (val ty b)
  let root := fun (ty rm _ a _ : Nat) => fSqrtV (fmtOf ty) rm (val ty a)
  let signed := fun (ty a sign : Nat) (more : BitVec 5) =>
    if (val ty a).isNan then ((fmtOf ty).nan, (val ty a).sig ||| more)
    else (a % 2 ^ (typeWidth ty - 1) + sign % 2 * 2 ^ (typeWidth ty - 1), more)
  let abs := fun (ty _ _ a _ : Nat) => signed ty a 0 0
  let neg := fun (ty _ _ a _ : Nat) => signed ty a (a / 2 ^ (typeWidth ty - 1) + 1) 0
  let sgnj := fun (ty _ _ a b : Nat) => signed ty a (b / 2 ^ (typeWidth ty - 1)) (val ty b).sig
  [ (.vadd, false, true, false, add), (.vsub, false, true, false, sub), (.vmul, false, true, false, mul), (.vmac, false, true, true, mac),
    (.vmin, false, true, false, least), (.vmax, false, true, false, most), (.vdiv, false, true, false, div), (.vaddVs, true, false, false, add),
    (.vsubVs, true, false, false, sub), (.vmulVs, true, false, false, mul), (.vmacVs, true, false, true, mac), (.vminVs, true, false, false, least),
    (.vmaxVs, true, false, false, most), (.vdivVs, true, false, false, div), (.vsqrt, false, false, false, root), (.vnmac, false, true, true, nmac),
    (.vabs, false, false, false, abs), (.vneg, false, false, false, neg), (.vsgnj, false, true, false, sgnj),
    (.vexp2, false, false, false, fun ty rm _ a _ => fExp2V (fmtOf ty) rm a), (.vlog2, false, false, false, fun ty rm _ a _ => fLog2V (fmtOf ty) rm a),
    (.vrint, false, false, false, fun ty rm _ a _ => fRintV (fmtOf ty) rm a),
    (.vscale, false, true, false, fun ty rm _ a b => fScaleV (fmtOf ty) rm a (BitVec.ofNat (typeWidth ty) b).toInt) ]

/-- Every floating-point operation whose results raise no enabled flag completes (R103, R104, R107 to R109): each active element of vd receives its
result, the flags join FFLAGS, and each FX register shows the lowest index that raised its flag. -/
def floatResults : Prop :=
  ∀ x ∈ floatTable, ∀ (f : FmtV) (w : BitVec 32) (s : State), encode (x.1 f) = some w → lone w → Idle s → Pushes s (descOf w) w → Sized s.cur →
    isFloat (vtType s.cur.vt12) = true → todo s.cur f.guard f.gneg → Clean s.cur →
    let t := s.cur
    let n := typeWidth (vtType t.vt12)
    let on := active t f.guard f.gneg
    let b := fun i => if x.2.1 then (t.gread f.vb).toNat % 2 ^ n else t.elem f.vb.toNat n i
    let result := fun i => x.2.2.2.2 (vtType t.vt12) t.frm.toNat (t.elem f.vd.toNat n i) (t.elem f.va.toNat n i) (b i)
    (∀ i, on i = true → (result i).2 &&& t.fen = 0) →
    ∃ u : State, exec (x.1 f) s = .next u ∧ vectorsAndFlags s u (((List.range t.vl.toNat).filter on).map (fun i => (i, (result i).2))) ∧
      (∀ i < t.vlmax, u.cur.elem f.vd.toNat n i = if on i then (result i).1 % 2 ^ n else t.elem f.vd.toNat n i) ∧
      othersKept s u f.vd.toNat (vtGroup t.vt12)

/-- The reductions: whether a sum of an F type goes by the pairwise tree, and the step (R115, R116). -/
def reductionTable : List ((FmtV → Instr) × Bool × (Nat → Nat → Nat → Nat → FRes)) :=
  [ (.vredOsum, false, foldSum), (.vredSum, true, foldSum), (.vredMax, false, foldMax), (.vredMin, false, foldMin),
    (.vredAnd, false, fun _ _ a b => (a &&& b, 0)), (.vredOr, false, fun _ _ a b => (a ||| b, 0)), (.vredXor, false, fun _ _ a b => (a ^^^ b, 0)) ]

/-- The scans and their steps (R117). -/
def scanTable : List ((FmtV → Instr) × (Nat → Nat → Nat → Nat → FRes)) :=
  [ (.vscanSum, foldSum), (.vscanMax, foldMax), (.vscanMin, foldMin) ]

/-- Reductions and scans complete where no enabled flag is raised (R115 to R117): over the active elements in order, from element 0 of vb, a
reduction leaves its value in element 0 of vd and a scan the running value in each active element; vred.gsum adds the extended elements to g(vb). -/
def foldResults : Prop :=
  ∀ (f : FmtV) (w : BitVec 32) (s : State), lone w → Idle s → Pushes s (descOf w) w → Sized s.cur → todo s.cur f.guard f.gneg → Clean s.cur →
    let t := s.cur
    let ty := vtType t.vt12
    let n := typeWidth ty
    let on := active t f.guard f.gneg
    let list := ((List.range t.vl.toNat).filter on).map (fun i => (t.elem f.va.toNat n i, i))
    let acc := t.elem f.vb.toNat n 0
    let completes := fun (i : Instr) (flags : List (Nat × BitVec 5)) (value : Nat → Nat) => (∀ x ∈ flags, x.2 &&& t.fen = 0) →
      ∃ u : State, exec i s = .next u ∧ (if isFloat ty then vectorsAndFlags s u flags else onlyVectors s u) ∧
        (∀ i < t.vlmax, u.cur.elem f.vd.toNat n i = value i) ∧ othersKept s u f.vd.toNat (vtGroup t.vt12)
    (∀ x ∈ reductionTable, encode (x.1 f) = some w →
      let r := if x.2.1 && isFloat ty then treeResult (x.2.2 ty t.frm.toNat) acc list else chainResult (x.2.2 ty t.frm.toNat) acc list
      completes (x.1 f) r.2 (fun i => if i = 0 then r.1 % 2 ^ n else t.elem f.vd.toNat n i)) ∧
    (∀ x ∈ scanTable, encode (x.1 f) = some w →
      let r := chain (x.2 ty t.frm.toNat) acc list
      completes (x.1 f) r.2 (fun i => match r.1.find? (fun y => y.2 == i) with | some y => y.1 % 2 ^ n | none => t.elem f.vd.toNat n i)) ∧
    (encode (.vredGsum f) = some w → exec (.vredGsum f) s = .next (after s ((passed t).gwrite f.vd
      (list.foldl (fun x y => x + BitVec.ofInt 64 (reading (decide (4 ≤ ty)) n y.1)) (t.gread f.vb)))))

/-- The conversions: whether T is the destination, the rounding mode and whether the result saturates (R118). -/
def conversionTable : List ((FmtV → Instr) × Bool × (Nat → Nat) × Bool) :=
  [ (.vcvt, true, id, false), (.vcvtRtz, true, fun _ => 1, false), (.vcvtSat, true, id, true), (.vcvtf, false, id, false) ]

/-- Every conversion that raises no enabled flag completes (R118, R119): each active element of vd receives the converted element of va. Where the
widths differ, the two groups do not overlap. -/
def conversionResults : Prop :=
  ∀ x ∈ conversionTable, ∀ (f : FmtV) (w : BitVec 32) (s : State), encode (x.1 f) = some w → lone w → Idle s → Pushes s (descOf w) w → Sized s.cur →
    todo s.cur f.guard f.gneg → Clean s.cur →
    let t := s.cur
    let on := active t f.guard f.gneg
    let here := vtType t.vt12
    let other := f.vb.toNat
    let wide := convertedGroup (vtGroup t.vt12) (typeWidth here) (typeWidth other)
    let (src, dst) := if x.2.1 then (here, other) else (other, here)
    let (from_, into) := if x.2.1 then (vtGroup t.vt12, wide) else (wide, vtGroup t.vt12)
    let result := fun i => convertElem src dst (x.2.2.1 t.frm.toNat) x.2.2.2 (t.elem f.va.toNat (typeWidth src) i)
    (typeWidth src = typeWidth dst ∨ f.va.toNat + from_ ≤ f.vd.toNat ∨ f.vd.toNat + into ≤ f.va.toNat) →
    (∀ i, on i = true → (result i).2 &&& t.fen = 0) →
    ∃ u : State, exec (x.1 f) s = .next u ∧ vectorsAndFlags s u (((List.range t.vl.toNat).filter on).map (fun i => (i, (result i).2))) ∧
      (∀ i < t.vlmax, u.cur.elem f.vd.toNat (typeWidth dst) i =
        if on i then (result i).1 % 2 ^ typeWidth dst else t.elem f.vd.toNat (typeWidth dst) i) ∧
      othersKept s u f.vd.toNat into

/-- The product of two codes' values in units of 2^-264 (R121); 0 where one is reserved. -/
def codeProduct (x y : Option (Int × Nat)) : Int :=
  match x, y with
  | some (a, e), some (b, g) => a * b * (2 ^ (e + g) : Nat)
  | _, _ => 0

/-- The instructions of major 0x34 complete where no code that counts is reserved and no enabled flag is raised. mmab and mmah (R136, R137): for each
row of A with an active element, each f32 cell of that row of vd receives fl(d + S, RNE), S the exact sum over the row's active elements of their
products with column n of B. mzero (R138) zeroes those rows. vwmac (R139): fl(d + a × b, RNE) for each active element. vbexp.f32 (R141): each
active code's value. vbexp.get and vbexp.set (R142) move the exponent pairs of blocks with an active element. vbnorm (R140): per block, E0 is
the largest exponent that an active element needs, E1 is δ below it but at least 0, and each active element becomes the code under them. -/
def matrixResults : Prop :=
  ∀ (f : FmtV) (w : BitVec 32) (s : State), lone w → Idle s → Pushes s (descOf w) w → Sized s.cur → todo s.cur f.guard f.gneg → Clean s.cur →
    let t := s.cur
    let ty := vtType t.vt12
    let n := typeWidth ty
    let on := active t f.guard f.gneg
    let span := blockSpan ty
    let row := fun (size r : Nat) => (List.range t.vl.toNat).filter (fun i => on i && i / size == r)
    let rows := fun (size : Nat) => (List.range (t.vlmax / size)).filter (fun r => !(row size r).isEmpty)
    let code := fun (r : BitVec 5) i => t.codeAt r.toNat ty i
    let completes := fun (i : Instr) (flags : List (Nat × BitVec 5)) (P : State → Prop) => raised flags &&& t.fen = 0 →
      ∃ u : State, exec i s = .next u ∧ blocksAndFlags s u flags ∧ P u
    let sidesOutside := fun (u : State) (n : Nat) => ∀ r < 32, (r < f.vd.toNat ∨ f.vd.toNat + n ≤ r) → u.cur.sideRead r = t.sideRead r
    let sidesKept := fun (u : State) => u.cur.side = t.side ∧ u.cur.sideBad = t.sideBad
    (encode (.mmab f) = some w → (∀ i, on i = true → (code f.va i).isSome = true ∧ ∀ m < 32, (code f.vb (span * m + i % span)).isSome = true) →
      let cell := fun r m => fAddV f32 0 (decodeF f32 (t.elem f.vd.toNat 32 (32 * r + m)))
        (exactValue (((row span r).map (fun i => codeProduct (code f.va i) (code f.vb (span * m + i % span)))).sum) (-264))
      completes (.mmab f) ((rows span).flatMap (fun r => (List.range 32).map (fun m => (r, (cell r m).2)))) (fun u => sidesKept u ∧
        (∀ r < t.vlmax / span, ∀ m < 32, u.cur.elem f.vd.toNat 32 (32 * r + m) =
          if r ∈ rows span then (cell r m).1 else t.elem f.vd.toNat 32 (32 * r + m)) ∧ othersKept s u f.vd.toNat 4)) ∧
    (encode (.mmah f) = some w →
      let sum := fun r m => ((row 32 r).foldl (fun (h : HalfSum) i => h.add (decodeF (fmtOf ty) (t.elem f.va.toNat 16 i))
        (decodeF (fmtOf ty) (t.elem f.vb.toNat 16 (32 * m + i % 32)))) ⟨false, false, false, false, 0, true⟩).value
      let cell := fun r m => fAddV f32 0 (decodeF f32 (t.elem f.vd.toNat 32 (16 * r + m))) (sum r m).1
      completes (.mmah f) ((rows 32).flatMap (fun r => (List.range 16).map (fun m => (r, (sum r m).2 ||| (cell r m).2)))) (fun u => sidesKept u ∧
        (∀ r < t.vlmax / 32, ∀ m < 16, u.cur.elem f.vd.toNat 32 (16 * r + m) =
          if r ∈ rows 32 then (cell r m).1 else t.elem f.vd.toNat 32 (16 * r + m)) ∧ othersKept s u f.vd.toNat 1)) ∧
    (encode (.mzero f) = some w →
      let size := if isBlock ty then span else 32
      let m := if isBlock ty then 32 else 16
      completes (.mzero f) [] (fun u => sidesKept u ∧ (∀ r < t.vlmax / size, ∀ k < m, u.cur.elem f.vd.toNat 32 (m * r + k) =
          if r ∈ rows size then 0 else t.elem f.vd.toNat 32 (m * r + k)) ∧ othersKept s u f.vd.toNat (if isBlock ty then 4 else 1))) ∧
    (encode (.vwmac f) = some w → (∀ i, on i = true → (code f.va i).isSome = true ∧ (code f.vb i).isSome = true) →
      let result := fun i => fAddV f32 0 (decodeF f32 (t.elem f.vd.toNat 32 i)) (exactValue (codeProduct (code f.va i) (code f.vb i)) (-264))
      completes (.vwmac f) (((List.range t.vl.toNat).filter on).map (fun i => (i, (result i).2))) (fun u => sidesKept u ∧
        (∀ i < t.vlmax, u.cur.elem f.vd.toNat 32 i = if on i then (result i).1 else t.elem f.vd.toNat 32 i) ∧
        othersKept s u f.vd.toNat (wideGroup t.vt12))) ∧
    (encode (.vbexpF32 f) = some w → (∀ i, on i = true → (code f.va i).isSome = true) →
      completes (.vbexpF32 f) [] (fun u => sidesKept u ∧ othersKept s u f.vd.toNat (wideGroup t.vt12) ∧
        (∀ i < t.vlmax, u.cur.elem f.vd.toNat 32 i = match on i, code f.va i with
          | true, some (x, e) => (roundTo f32 0 (decide (x < 0)) x.natAbs ((e : Int) - 132)).1
          | _, _ => t.elem f.vd.toNat 32 i))) ∧
    (encode (.vbexpGet f) = some w → completes (.vbexpGet f) [] (fun u => sidesKept u ∧ othersKept s u f.vd.toNat 1 ∧
      (∀ k < t.vlmax / span, u.cur.elem f.vd.toNat 16 k = if k ∈ rows span then t.sideEntry f.va.toNat k else t.elem f.vd.toNat 16 k))) ∧
    (encode (.vbexpSet f) = some w → completes (.vbexpSet f) [] (fun u => u.cur.v = t.v ∧ sidesOutside u (vtGroup t.vt12) ∧
      (∀ k < t.vlmax / span, u.cur.sideEntry f.vd.toNat k = if k ∈ rows span then t.elem f.va.toNat 16 k else t.sideEntry f.vd.toNat k))) ∧
    (encode (.vbnorm f) = some w →
      let exps := fun k => (row span k).map (fun i => match decodeF f32 (t.elem f.va.toNat 32 i) with | .num _ m e => normExponent m e | _ => 0)
      let e0 := fun k => (exps k).foldl max 0
      let result := fun i => normCode ty (e0 (i / span)) (e0 (i / span) - f.vb.toNat) (t.elem f.va.toNat 32 i)
      completes (.vbnorm f) (((List.range t.vl.toNat).filter on).map (fun i => (i, (result i).2))) (fun u =>
        (∀ i < t.vlmax, u.cur.elem f.vd.toNat n i = if on i then (result i).1 else t.elem f.vd.toNat n i) ∧
        (∀ k < t.vlmax / span, u.cur.sideEntry f.vd.toNat k =
          if k ∈ rows span then e0 k + 256 * (e0 k - f.vb.toNat) else t.sideEntry f.vd.toNat k) ∧
        othersKept s u f.vd.toNat (vtGroup t.vt12) ∧ sidesOutside u (vtGroup t.vt12)))

/-- The arithmetic of vectors and blocks. Every operation of majors 0x28, 0x29 and 0x2F on the types that it takes (R105 to R109), the reductions
and scans of 0x2D (R115 to R117), the conversions (R118, R119) and the matrix and block forms of 0x34 (R135 to R142) complete on registers without
an uncorrected error and leave in the elements, rows or blocks that are active the results that their rules compute from the registers as they
were; a floating-point one, whose results raise no enabled flag, joins its flags to FFLAGS and, but for 0x34, its lowest indices to the FX
registers. Every other element of their groups, every other vector register and everything else keeps its value. The model's readings: that integers
convert to and from e4m3 and e5m2 (log entry 61), what mmab and mmah do below 8 lane groups (log entry 58), the sign of a zero sum in mmah (log
entry 38). -/
def Obligations.VectorArithmeticResults : Prop :=
  integerResults ∧ floatResults ∧ foldResults ∧ conversionResults ∧ matrixResults

/-- The comparisons (R110). -/
def compareTable : List ((FmtVC → Instr) × (Int → Int → Bool)) :=
  [ (.vcmpEq, fun a b => decide (a = b)), (.vcmpNe, fun a b => decide (a ≠ b)), (.vcmpLt, fun a b => decide (a < b)),
    (.vcmpGe, fun a b => decide (b ≤ a)), (.vcmpLe, fun a b => decide (a ≤ b)), (.vcmpGt, fun a b => decide (b < a)) ]

/-- The bitwise predicate operations (R111). -/
def predicateTable : List ((FmtVP → Instr) × (Bool → Bool → Bool)) :=
  [ (.pand, fun a b => a && b), (.por, fun a b => a || b), (.pxor, fun a b => a != b), (.pandn, fun a b => a && !b), (.pnot, fun a _ => !a),
    (.pset, fun _ _ => true) ]

/-- Compares, predicate logic and the moves between predicates and other registers complete (R35, R110, R111, R120). A compare on an integer
type writes pt and its complement pf, both 0 where the guard bit is clear, pf last where they are one register; pfirst, pbrkb and pbrka speak
of the lowest active set bit; p0 discards writes (R31). Everything else keeps its value. -/
def predicateResults : Prop :=
  (∀ x ∈ compareTable, ∀ (f : FmtVC) (w : BitVec 32) (s : State), encode (x.1 f) = some w → lone w → Idle s → Pushes s (descOf w) w →
    Sized s.cur → vtType s.cur.vt12 ≤ 7 → ¬(f.guard = 0 ∧ f.gneg = true) →
    let t := s.cur
    let n := typeWidth (vtType t.vt12)
    let val := fun (r : BitVec 5) i => reading (decide (4 ≤ vtType t.vt12)) n (t.elem r.toNat n i)
    (∀ i, active t f.guard f.gneg i = true → t.elemBad f.va.toNat n i = false ∧ t.elemBad f.vb.toNat n i = false) →
    ∃ u : State, exec (x.1 f) s = .next u ∧ onlyPredicates s u ∧ ∀ (q : BitVec 3) (i : Nat), q ≠ 0 →
      (u.cur.pread q).getLsbD i =
        if t.es.toNat ≤ i ∧ i < t.vl.toNat ∧ (q = f.pt ∨ q = f.pf) then
          active t f.guard f.gneg i && (if q = f.pf then !(x.2 (val f.va i) (val f.vb i)) else x.2 (val f.va i) (val f.vb i))
        else (t.pread q).getLsbD i) ∧
  (∀ x ∈ predicateTable, ∀ (f : FmtVP) (w : BitVec 32) (s : State), encode (x.1 f) = some w → lone w → Idle s → Pushes s (descOf w) w →
    Sized s.cur →
    ∃ u : State, exec (x.1 f) s = .next u ∧ onlyPredicates s u ∧ ∀ (q : BitVec 3) (i : Nat), q ≠ 0 →
      (u.cur.pread q).getLsbD i =
        if q = f.pd ∧ active s.cur f.guard f.gneg i then x.2 ((s.cur.pread f.pa).getLsbD i) ((s.cur.pread f.pb).getLsbD i)
        else (s.cur.pread q).getLsbD i) ∧
  (∀ (f : FmtVP) (w : BitVec 32) (s : State), lone w → Idle s → Pushes s (descOf w) w → Sized s.cur →
    let on := active s.cur f.guard f.gneg
    let hit := fun j => on j && (s.cur.pread f.pa).getLsbD j
    let writes := fun (i : Instr) (bit : Nat → Prop) => ∃ u : State, exec i s = .next u ∧ onlyPredicates s u ∧
      ∀ (q : BitVec 3) (j : Nat), q ≠ 0 → ((u.cur.pread q).getLsbD j = true ↔ if q = f.pd ∧ on j then bit j else (s.cur.pread q).getLsbD j = true)
    (encode (.pfirst f) = some w → writes (.pfirst f) (fun j => hit j = true ∧ ∀ k < j, hit k = false)) ∧
    (encode (.pbrkb f) = some w → writes (.pbrkb f) (fun j => ∀ k ≤ j, hit k = false)) ∧
    (encode (.pbrka f) = some w → writes (.pbrka f) (fun j => ∀ k < j, hit k = false))) ∧
  (∀ (f : FmtV) (w : BitVec 32) (s : State), lone w → Idle s → Pushes s (descOf w) w → Sized s.cur →
    s.cur.es.toNat < s.cur.vl.toNat → ¬(f.guard = 0 ∧ f.gneg = true) →
    let t := s.cur
    let n := typeWidth (vtType t.vt12)
    let on := active t f.guard f.gneg
    let hit := fun j => on j && (t.pread (f.va.extractLsb' 0 3)).getLsbD j
    let answers := fun (i : Instr) (x : Word) => exec i s = .next (after s ((passed s.cur).gwrite f.vd x))
    (encode (.vpopc f) = some w → answers (.vpopc f) (BitVec.ofNat 64 ((List.range t.vl.toNat).countP hit))) ∧
    (encode (.vfirst f) = some w → (∀ j, hit j = true → (∀ k < j, hit k = false) → answers (.vfirst f) (BitVec.ofNat 64 j)) ∧
      ((∀ j, hit j = false) → answers (.vfirst f) (BitVec.allOnes 64))) ∧
    (encode (.vfromp f) = some w → ∃ u : State, exec (.vfromp f) s = .next u ∧ onlyVectors s u ∧
      (∀ i < t.vlmax, u.cur.elem f.vd.toNat n i = if on i then ((t.pread (f.va.extractLsb' 0 3)).getLsbD i).toNat else t.elem f.vd.toNat n i) ∧
      (∀ r < 32, (r < f.vd.toNat ∨ f.vd.toNat + vtGroup t.vt12 ≤ r) → u.cur.vread r = t.vread r)) ∧
    (encode (.vtop f) = some w → (∀ i, on i = true → t.elemBad f.va.toNat n i = false) →
      ∃ u : State, exec (.vtop f) s = .next u ∧ onlyPredicates s u ∧ ∀ (q : BitVec 3) (i : Nat), q ≠ 0 →
        (u.cur.pread q).getLsbD i = if q = f.vd.extractLsb' 0 3 ∧ on i then decide (t.elem f.va.toNat n i ≠ 0) else (t.pread q).getLsbD i))

/-- The comparisons on an F type with their flags (R110): an ordered comparison is false, and `ne` true, where an operand is NaN; the four by
order raise NV for any NaN, the others for a signalling one. -/
def floatCompareTable : List ((FmtVC → Instr) × (Nat → Nat → Nat → Bool × BitVec 5)) :=
  let by_ := fun (onNan loud : Bool) (test : Int → Bool) (ty a b : Nat) =>
    let x := decodeF (fmtOf ty) a
    let y := decodeF (fmtOf ty) b
    if x.isNan || y.isNan then (onNan, if loud then flagNV else x.sig ||| y.sig) else (test (fOrder false x y), (0 : BitVec 5))
  let nan := fun (wanted : Bool) (ty a b : Nat) =>
    let x := decodeF (fmtOf ty) a
    let y := decodeF (fmtOf ty) b
    ((x.isNan || y.isNan) == wanted, x.sig ||| y.sig)
  [ (.vcmpEq, by_ false false (fun d => d == 0)), (.vcmpNe, by_ true false (fun d => d != 0)), (.vcmpLt, by_ false true (fun d => decide (d < 0))),
    (.vcmpGe, by_ false true (fun d => decide (0 ≤ d))), (.vcmpLe, by_ false true (fun d => decide (d ≤ 0))),
    (.vcmpGt, by_ false true (fun d => decide (0 < d))), (.vcmpUn, nan true), (.vcmpOrd, nan false) ]

/-- Every comparison on an F type that raises no enabled flag completes (R35, R103, R110): pt and pf as on an integer type, and the flags. -/
def floatCompareResults : Prop :=
  ∀ x ∈ floatCompareTable, ∀ (f : FmtVC) (w : BitVec 32) (s : State), encode (x.1 f) = some w → lone w → Idle s → Pushes s (descOf w) w →
    Sized s.cur → isFloat (vtType s.cur.vt12) = true → todo s.cur f.guard f.gneg → Clean s.cur →
    let t := s.cur
    let n := typeWidth (vtType t.vt12)
    let on := active t f.guard f.gneg
    let result := fun i => x.2 (vtType t.vt12) (t.elem f.va.toNat n i) (t.elem f.vb.toNat n i)
    (∀ i, on i = true → (result i).2 &&& t.fen = 0) →
    ∃ u : State, exec (x.1 f) s = .next u ∧ predicatesAndFlags s u (((List.range t.vl.toNat).filter on).map (fun i => (i, (result i).2))) ∧
      ∀ (q : BitVec 3) (i : Nat), q ≠ 0 → (u.cur.pread q).getLsbD i =
        if t.es.toNat ≤ i ∧ i < t.vl.toNat ∧ (q = f.pt ∨ q = f.pf) then on i && (if q = f.pf then !(result i).1 else (result i).1)
        else (t.pread q).getLsbD i

/-- The merge of two rising lists of keys, n steps at most (R183): at each step the smaller key, and whether both have it. -/
def mergeKeys : Nat → List Int → List Int → List (Int × Bool)
  | n + 1, a :: as, b :: bs =>
    if a < b then (a, false) :: mergeKeys n as (b :: bs)
    else if b < a then (b, false) :: mergeKeys n (a :: as) bs
    else (a, true) :: mergeKeys n as bs
  | _, _, _ => []

/-- A memory stream of the current thread whose elements from its position to its end have all landed: their values in its memory type (R163), and
A stands in the translations that they came through, where the TLB still holds these (R320). -/
def LandedKeys (s : State) (q : Stream) (keys : List Nat) : Prop :=
  q.kind = .memory ∧ q.count = q.pos + keys.length ∧
    ∀ k < keys.length, ∃ x ∈ q.ahead, q.ahead.find? (fun x => x.elem == q.pos + k) = some x ∧ keys[k]? = some x.value ∧
      s.touchHeld s.cur.part.toNat x.ctx (addrOf (q.addr (q.pos + k))) none false = s

/-- The values of a segmented scan (R186): where a segment begins the value itself, else the step from the value before. -/
def segments (first : Nat → FRes) (step : Nat → Nat → FRes) (ends : Nat → Bool) : Bool → Nat → List (Nat × Nat) → List (Nat × Nat × BitVec 5)
  | _, _, [] => []
  | begins, acc, (x, i) :: rest =>
    let r := if begins then first x else step acc x
    (i, r.1, r.2) :: segments first step ends (ends i) r.1 rest

/-- The sparse forms complete (R182 to R186). vgroup: for the list of active indices sorted by key, equal keys in index order, position ES + r of
vd receives the r-th and pd is set where its key begins; above them pd is cleared. vsegsum, vsegmax and vsegmin: each active element receives the
running value of its segment, which ends at an element whose pe bit is set. vxsect, from ES 0 on two streams whose keys have landed and rise: step by
step the smaller of the two next keys and whether both have it, until VL steps are done or a stream has run out; VL becomes the steps, and each
stream goes on past the keys that it gave. vmerge, from ES 0 on a plain descriptor with rising row ends up to its non-zeros: at diagonal D the row
x is the number of rows r with r + end(r) < D; a row that ends there gives (x, 1), else the non-zero D - x gives (D - x, 0). -/
def sparseResults : Prop :=
  ∀ (f : FmtV) (w : BitVec 32) (s : State), lone w → Idle s → Pushes s (descOf w) w → Sized s.cur → Clean s.cur → s.cur.es.toNat < s.cur.vl.toNat →
    let t := s.cur
    let ty := vtType t.vt12
    let n := typeWidth ty
    let on := active t f.guard f.gneg
    let read := reading (decide (4 ≤ ty)) n
    let pred := f.vb.extractLsb' 0 3
    let bits := fun (u : State) (p : BitVec 3) (inside : Nat → Bool) (value : Nat → Bool) => ∀ (q : BitVec 3) (i : Nat), q ≠ 0 →
      (u.cur.pread q).getLsbD i = if q = p ∧ inside i then value i else (t.pread q).getLsbD i
    (encode (.vgroup f) = some w → ¬(f.guard = 0 ∧ f.gneg = true) → ∀ l : List Nat, l.Perm ((List.range t.vl.toNat).filter on) →
      let key := fun i => read (t.elem f.va.toNat n i)
      l.Pairwise (fun i j => key i < key j ∨ (key i = key j ∧ i < j)) →
      ∃ u : State, exec (.vgroup f) s = .next u ∧ vectorsAndPredicates s u ∧
        (∀ i < t.vlmax, u.cur.elem f.vd.toNat n i =
          if t.es.toNat ≤ i ∧ i < t.es.toNat + l.length then l.getD (i - t.es.toNat) 0 % 2 ^ n else t.elem f.vd.toNat n i) ∧
        bits u pred (fun i => decide (t.es.toNat ≤ i ∧ i < t.vl.toNat)) (fun i =>
          let r := i - t.es.toNat
          decide (r < l.length) && (r == 0 || key (l.getD r 0) != key (l.getD (r - 1) 0))) ∧
        othersKept s u f.vd.toNat (vtGroup t.vt12)) ∧
    (∀ x ∈ ([(.vsegsum, foldSum), (.vsegmax, foldMax), (.vsegmin, foldMin)] : List ((FmtV → Instr) × (Nat → Nat → Nat → Nat → FRes))),
      encode (x.1 f) = some w → ¬(f.guard = 0 ∧ f.gneg = true) →
      let first := fun y => if isFloat ty ∧ (decodeF (fmtOf ty) y).sig ≠ 0 then ((fmtOf ty).nan, flagNV) else (y, 0)
      let l := segments first (x.2 ty t.frm.toNat) (fun i => (t.pread pred).getLsbD i) true 0
        (((List.range t.vl.toNat).filter on).map (fun i => (t.elem f.va.toNat n i, i)))
      let flags := l.map (fun y => (y.1, y.2.2))
      (∀ y ∈ flags, y.2 &&& t.fen = 0) →
      ∃ u : State, exec (x.1 f) s = .next u ∧ (if isFloat ty then vectorsAndFlags s u flags else onlyVectors s u) ∧
        (∀ i < t.vlmax, u.cur.elem f.vd.toNat n i =
          match l.find? (fun y => y.1 == i) with | some y => y.2.1 % 2 ^ n | none => t.elem f.vd.toNat n i) ∧
        othersKept s u f.vd.toNat (vtGroup t.vt12)) ∧
    (encode (.vxsect f) = some w → t.es = 0 → f.va.toNat % 8 ≠ f.vb.toNat % 8 → ∀ ka kb : List Nat, LandedKeys s (t.qread f.va.toNat) ka → LandedKeys s (t.qread f.vb.toNat) kb →
      (t.qread f.va.toNat).vt = t.vt12 → (t.qread f.vb.toNat).vt = t.vt12 → vtHasMem t.vt12 = false →
      (∀ k ∈ ka ++ kb, k < 2 ^ n) → (ka.map read).Pairwise (· < ·) → (kb.map read).Pairwise (· < ·) →
      let steps := mergeKeys t.vl.toNat (ka.map read) (kb.map read)
      ∃ u : State, exec (.vxsect f) s = .next u ∧
        u = after s { ((passed t).qwrite f.va.toNat ((t.qread f.va.toNat).advance (steps.filter (fun x => (ka.map read).contains x.1)).length)).qwrite
          f.vb.toNat ((t.qread f.vb.toNat).advance (steps.filter (fun x => (kb.map read).contains x.1)).length) with
            v := u.cur.v, bad := u.cur.bad, dlen := u.cur.dlen, dirty := u.cur.dirty, p := u.cur.p, vl := BitVec.ofNat 16 steps.length } ∧
        (∀ i < steps.length, read (u.cur.elem f.vd.toNat n i) = (steps.getD i (0, false)).1) ∧
        (∀ i, steps.length ≤ i → i < t.vlmax → u.cur.elem f.vd.toNat n i = t.elem f.vd.toNat n i) ∧
        bits u f.guard (fun i => decide (i < steps.length)) (fun i => (steps.getD i (0, false)).2) ∧ othersKept s u f.vd.toNat (vtGroup t.vt12)) ∧
    (encode (.vmerge f) = some w → t.es = 0 → vtHasMem t.vt12 = false → ∀ (bs : List Byte) (end_ : Nat → Nat) (at_ : Nat → Nat),
      Holds s (t.gread f.va).toNat 32 32 Need.load bs →
      let ends := fieldAt bs 0 8
      let nrow := fieldAt bs 8 8
      let nnz := fieldAt bs 16 8
      nrow + nnz < 2 ^ 48 → fieldAt bs 24 8 = 0 → ends % (n / 8) = 0 → 0 < nrow →
      (∀ r < nrow, Plain s (ends + n / 8 * r : Nat) (n / 8) Need.load (at_ r) ∧ end_ r = leNat (s.read (at_ r) (n / 8))) →
      (∀ r < nrow, r + 1 < nrow → end_ r ≤ end_ (r + 1)) → end_ (nrow - 1) = nnz →
      let d := (t.gread f.vb).toNat
      let steps := min t.vl.toNat (nrow + nnz - d)
      let row := fun (i : Nat) => ((List.range nrow).filter (fun r => r + end_ r < d + i)).length
      let isEnd := fun i => decide (end_ (row i) ≤ d + i - row i)
      ∃ u : State, exec (.vmerge f) s = .next u ∧
        u = after s { passed t with v := u.cur.v, bad := u.cur.bad, dlen := u.cur.dlen, dirty := u.cur.dirty, p := u.cur.p, vl := BitVec.ofNat 16 steps } ∧
        (∀ i < t.vlmax, u.cur.elem f.vd.toNat n i =
          if i < steps then (if isEnd i then row i else d + i - row i) % 2 ^ n else t.elem f.vd.toNat n i) ∧
        bits u f.guard (fun i => decide (i < steps)) isEnd ∧ othersKept s u f.vd.toNat (vtGroup t.vt12))

/-- What writes predicates. Compares, predicate logic and the moves between predicates and other registers complete (R35, R110, R111, R120): a
compare writes pt and its complement pf, both 0 where the guard bit is clear, pf last where they are one register; on an F type with its flags, an
operand that is NaN deciding it; pfirst, pbrkb and pbrka speak of the lowest active set bit; p0 discards writes (R31). The sparse forms complete
(R182 to R186): vgroup sorts and marks where keys begin, the segmented scans start anew after a segment's end, vxsect and vmerge merge two lists
step by step. Everything else keeps its value. -/
def Obligations.PredicateResults : Prop := predicateResults ∧ floatCompareResults ∧ sparseResults

/-- Where the moves take element i from (R112), with g(vb), VL, VLMAX and i: unchanged, zero bits, or an index of va. -/
def moveTable : List ((FmtV → Instr) × (Nat → Nat → Nat → Nat → Option (Option Nat))) :=
  [ (.vmov, fun _ _ _ i => some (some i)), (.vslideup, fun n _ _ i => if n ≤ i then some (some (i - n)) else none),
    (.vslidedn, fun n _ max i => if i + n < max then some (some (i + n)) else some none), (.vrev, fun _ vl _ i => some (some (vl - 1 - i))) ]

/-- The moves complete on a type that is no block (R112 to R114): each active element of vd receives the named element of va as it was, zero
bits, or keeps its value; vbcast gives every active element the low bits of g(vb); vext gives element g(vb) of va to g(vd), or 0 where it does
not lie below VL; vins writes element g(vb) of vd where that lies in ES..VL-1. vcompress and vexpand (R113) go on from the
position that the guard bits below ES give. Everything else keeps its value. -/
def registerMoveResults : Prop :=
  ∀ (f : FmtV) (w : BitVec 32) (s : State), lone w → Idle s → Pushes s (descOf w) w → Sized s.cur → vtType s.cur.vt12 ≤ 0x0B →
    let t := s.cur
    let n := typeWidth (vtType t.vt12)
    let on := active t f.guard f.gneg
    let writes := fun (i : Instr) (value : Nat → Nat) => ∃ u : State, exec i s = .next u ∧ onlyVectors s u ∧
      (∀ j < t.vlmax, u.cur.elem f.vd.toNat n j = value j) ∧
      (∀ r < 32, (r < f.vd.toNat ∨ f.vd.toNat + vtGroup t.vt12 ≤ r) → u.cur.vread r = t.vread r)
    let clean := ∀ j < t.vlmax, t.elemBad f.va.toNat n j = false
    (∀ x ∈ moveTable, encode (x.1 f) = some w → clean → writes (x.1 f) (fun j =>
      if on j then
        match x.2 (t.gread f.vb).toNat t.vl.toNat t.vlmax j with
        | none => t.elem f.vd.toNat n j
        | some none => 0
        | some (some k) => t.elem f.va.toNat n k
      else t.elem f.vd.toNat n j)) ∧
    (encode (.vbcast f) = some w → writes (.vbcast f) (fun j => if on j then (t.gread f.vb).toNat % 2 ^ n else t.elem f.vd.toNat n j)) ∧
    (encode (.vperm f) = some w → clean → (∀ j, on j = true → t.elemBad f.vb.toNat n j = false ∧ t.elem f.vb.toNat n j < t.vlmax) →
      writes (.vperm f) (fun j => if on j then t.elem f.va.toNat n (t.elem f.vb.toNat n j) else t.elem f.vd.toNat n j)) ∧
    (encode (.vext f) = some w → clean → s.cur.es.toNat < s.cur.vl.toNat →
      let x := if (t.gread f.vb).toNat < t.vl.toNat then BitVec.ofNat 64 (t.elem f.va.toNat n (t.gread f.vb).toNat) else 0
      exec (.vext f) s = .next (after s ((passed s.cur).gwrite f.vd x))) ∧
    (encode (.vins f) = some w → writes (.vins f) (fun j =>
      if j = (t.gread f.vb).toNat ∧ t.es.toNat ≤ j ∧ j < t.vl.toNat then (t.gread f.va).toNat % 2 ^ n else t.elem f.vd.toNat n j)) ∧
    (let k0 := ((List.range t.es.toNat).filter (fun i => (t.pread f.guard).getLsbD i != f.gneg)).length
     let l := (List.range t.vl.toNat).filter on
     (encode (.vcompress f) = some w → clean → writes (.vcompress f) (fun j =>
        if k0 ≤ j ∧ j < k0 + l.length then t.elem f.va.toNat n (l.getD (j - k0) 0) else t.elem f.vd.toNat n j)) ∧
     (encode (.vexpand f) = some w → clean → writes (.vexpand f) (fun j =>
        if on j then t.elem f.va.toNat n (k0 + (l.filter (fun i => decide (i < j))).length) else t.elem f.vd.toNat n j)))

/-- The vector memory forms: their load and their store, whether they are tiles, how many fields an element has, and the address and register of each
from the memory element's size (R143, R144, R149, R150, R152, R153). -/
noncomputable def memoryTable : List ((FmtV → Instr) × (FmtV → Instr) × Bool × Nat × (FmtV → Thread → Nat → Nat → List (Int × Nat))) :=
  let base := fun (f : FmtV) (t : Thread) => ((t.gread f.va).toNat : Int)
  let stride := fun (f : FmtV) (t : Thread) => (t.gread f.vb).toInt
  let unit := fun (f : FmtV) (t : Thread) (m i : Nat) => [(base f t + (m * i : Nat), f.vd.toNat)]
  let strided := fun (f : FmtV) (t : Thread) (_ i : Nat) => [(base f t + stride f t * i, f.vd.toNat)]
  let tile := fun (f : FmtV) (t : Thread) (m i : Nat) =>
    [(base f t + stride f t * (i / t.trl.toNat : Nat) + (m * (i % t.trl.toNat) : Nat), f.vd.toNat)]
  let segment := fun (n : Nat) (f : FmtV) (t : Thread) (m i : Nat) =>
    (List.range n).map (fun k => (base f t + (m * (n * i + k) : Nat), f.vd.toNat + k * vtGroup t.vt12))
  let index := fun (wide scaled : Bool) (f : FmtV) (t : Thread) (m i : Nat) =>
    let x : Int := if wide then (BitVec.ofNat 64 (t.elem f.vb.toNat 64 i)).toInt else (t.elem f.vb.toNat 32 i : Nat)
    [(base f t + (if scaled then (m : Int) * x else x), f.vd.toNat)]
  [ (.vld, .vst, false, 1, unit), (.vlds, .vsts, false, 1, strided), (.vldt, .vstt, true, 1, tile),
    (.vldseg2, .vstseg2, false, 2, segment 2), (.vldseg3, .vstseg3, false, 3, segment 3), (.vldseg4, .vstseg4, false, 4, segment 4),
    (.vldseg5, .vstseg5, false, 5, segment 5), (.vldseg6, .vstseg6, false, 6, segment 6), (.vldseg7, .vstseg7, false, 7, segment 7),
    (.vldseg8, .vstseg8, false, 8, segment 8), (.vgather32, .vscatter32, false, 1, index false false),
    (.vgather64, .vscatter64, false, 1, index true false), (.vgatherX32, .vscatterX32, false, 1, index false true),
    (.vgatherX64, .vscatterX64, false, 1, index true true) ]

/-- An element as it passes between registers and memory, from one type to another (R75): integers are extended by the type that they come from and
cut to the other, and F types are converted under FRM with their flags. -/
def passing (from_ into rm v : Nat) : FRes :=
  if from_ = into then (v, 0)
  else if isFloat from_ || isFloat into then convertElem from_ into rm false v
  else ((reading (decide (4 ≤ from_ ∧ from_ ≤ 7)) (typeWidth from_) v % (2 ^ typeWidth into : Nat)).toNat, 0)

/-- Every vector load, store, gather and scatter of an I or F type whose elements are plain completes (R75, R143 to R145, R148 to R154) where its
conversions raise no enabled flag. A load leaves in each active element the bytes at its address, as `passing` says; a store leaves at each address
its active element, and where two meet the one of the higher index; the flags of F conversions join FFLAGS and show in the FX registers; every
other element, register and byte keeps its value, and a tile writes ROWP. -/
def vectorMemoryResults : Prop :=
  ∀ x ∈ memoryTable, ∀ (f : FmtV) (w : BitVec 32) (s : State) (at_ : Int → Nat), lone w → Idle s → Pushes s (descOf w) w → Sized s.cur →
    todo s.cur f.guard f.gneg → Clean s.cur →
    let t := s.cur
    let ty := vtType t.vt12
    let mt := vtMem t.vt12
    let n := typeWidth ty
    let m := typeWidth mt / 8
    ty ≤ 0x0B →
    let on := active t f.guard f.gneg
    let fields := fun i => x.2.2.2.2 f t m i
    let rows := if x.2.2.1 then BitVec.ofNat 16 (t.vl.toNat / t.trl.toNat) else t.rowp
    let loaded := fun (p : Int × Nat) => passing mt ty t.frm.toNat (leNat (s.read (at_ p.1) m))
    let stored := fun (i : Nat) (p : Int × Nat) => passing ty mt t.frm.toNat (t.elem p.2 n i)
    let flags := fun (value : Nat → Int × Nat → FRes) => ((List.range t.vl.toNat).filter on).flatMap (fun i => (fields i).map (fun p => (i, (value i p).2)))
    let advanced := fun (l : List (Nat × BitVec 5)) => if isFloat ty ∧ mt ≠ ty then withFlags (passed t) l else passed t
    let covers := fun (a : Nat) (p : Int × Nat) => at_ p.1 ≤ a ∧ a < at_ p.1 + m
    (encode (x.1 f) = some w → (∀ i, on i = true → ∀ p ∈ fields i, Plain s p.1 m Need.load (at_ p.1) ∧ (loaded p).2 &&& t.fen = 0) →
      ∃ u : State, exec (x.1 f) s = .next u ∧
        u = after s { advanced (flags (fun _ => loaded)) with v := u.cur.v, bad := u.cur.bad, dlen := u.cur.dlen, dirty := u.cur.dirty, rowp := rows } ∧
        (∀ i < t.vlmax, ∀ p ∈ fields i, u.cur.elem p.2 n i = if on i then (loaded p).1 % 2 ^ n else t.elem p.2 n i) ∧
        othersKept s u f.vd.toNat (x.2.2.2.1 * vtGroup t.vt12)) ∧
    (encode (x.2.1 f) = some w → wellFormed s → (∀ i, on i = true → ∀ p ∈ fields i, Plain s p.1 m Need.store (at_ p.1) ∧ (stored i p).2 &&& t.fen = 0) →
      ∃ u : State, exec (x.2.1 f) s = .next u ∧ u.cur = { advanced (flags stored) with q := u.cur.q, rowp := rows } ∧ u.others = s.others ∧
        (∀ a, (∀ i, on i = true → ∀ p ∈ fields i, ¬ covers a p) → u.mem.get a = s.mem.get a) ∧
        (∀ i, on i = true → ∀ p ∈ fields i, ∀ k < m,
          (∀ j, on j = true → i ≤ j → ∀ p' ∈ fields j, (j, p') ≠ (i, p) → ¬ covers (at_ p.1 + k) p') →
          u.mem.get (at_ p.1 + k) = (leBytes m (stored i p).1).getD k 0))

/-- A code as it passes between a register and a stored block (R128): a b6 magnitude is a quarter of the b8 one, rounded to even, at most 15, and
without a sign where it is 0; the reserved code, which is the sign of a magnitude 0, stays. -/
def loadedCode (mt c : Nat) : Nat := if mt = 0x0E then c / 32 * 128 + c / 16 % 2 * 64 + c % 16 * 4 else c
def storedAs (mt c : Nat) : Nat :=
  let m := min 15 ((c % 64 + 1 + c % 64 / 4 % 2) / 4)
  if mt = 0x0E then c / 128 * 32 + (if m = 0 ∧ c % 64 ≠ 0 then 0 else c / 64 % 2 * 16) + m else c

/-- On a block type (R122 to R130, R151), where the stored blocks that hold an active element are plain: vld leaves their active codes in vd, and
the exponents of the lower of them in the side-file entry of each register block; vst leaves in memory the exponents of each such block's register
block and its active codes, the codes that are not active keeping their bits. Two stored blocks of one b4 block have the same exponents (R128). vmov
(R112) copies active codes, and the side-file entry of each block that has one. Everything else keeps its value. -/
def blockMoveResults : Prop :=
  ∀ (f : FmtV) (w : BitVec 32) (s : State) (at_ : Nat → Nat), lone w → Idle s → Pushes s (descOf w) w → Sized s.cur → todo s.cur f.guard f.gneg →
    Clean s.cur → isBlock (vtType s.cur.vt12) = true → s.wild = [] →
    let t := s.cur
    let ty := vtType t.vt12
    let mt := vtMem t.vt12
    let n := typeWidth ty
    let bits := if mt = 0x0C then 8 else if mt = 0x0E then 6 else 4
    let size := 2 + 4 * bits
    let on := active t f.guard f.gneg
    let has := fun (span b : Nat) => (List.range span).any (fun k => on (span * b + k))
    let code := fun (m : Memory) (b k : Nat) => m.num (at_ b + 2) (4 * bits) / 2 ^ (bits * k) % 2 ^ bits
    let exps := fun (b : Nat) => s.mem.num (at_ b) 2
    let span := blockSpan ty
    let sidesOutside := fun (u : State) => ∀ r < 32, (r < f.vd.toNat ∨ f.vd.toNat + vtGroup t.vt12 ≤ r) → u.cur.sideRead r = t.sideRead r
    let moved := fun (u : State) (value side : Nat → Nat) =>
      u = after s { passed t with
        v := u.cur.v, bad := u.cur.bad, dlen := u.cur.dlen, dirty := u.cur.dirty, side := u.cur.side, sideBad := u.cur.sideBad } ∧
      (∀ i < t.vlmax, u.cur.elem f.vd.toNat n i = if on i then value i else t.elem f.vd.toNat n i) ∧
      (∀ k < t.vlmax / span, u.cur.sideEntry f.vd.toNat k = if has span k then side k else t.sideEntry f.vd.toNat k) ∧
      othersKept s u f.vd.toNat (vtGroup t.vt12) ∧ sidesOutside u
    (encode (.vld f) = some w → (∀ b < t.vlmax / 32, has 32 b = true → BlockPlain s ((t.gread f.va).toNat + size * b) mt Need.load (at_ b)) →
      (ty = 0x0D → ∀ k < t.vlmax / 64, has 32 (2 * k) = true → has 32 (2 * k + 1) = true → exps (2 * k) = exps (2 * k + 1)) →
      ∃ u : State, exec (.vld f) s = .next u ∧ moved u (fun i => loadedCode mt (code s.mem (i / 32) (i % 32)))
        (fun k => if ty = 0x0D then (if has 32 (2 * k) then exps (2 * k) else exps (2 * k + 1)) else exps k)) ∧
    (encode (.vst f) = some w → wellFormed s →
      (∀ b < t.vlmax / 32, has 32 b = true → BlockPlain s ((t.gread f.va).toNat + size * b) mt Need.store (at_ b)) →
      (∀ b < t.vlmax / 32, ∀ c < t.vlmax / 32, has 32 b = true → has 32 c = true → b = c ∨ at_ b + size ≤ at_ c ∨ at_ c + size ≤ at_ b) →
      ∃ u : State, exec (.vst f) s = .next u ∧ u.cur = { passed t with q := u.cur.q } ∧ u.others = s.others ∧
        (∀ b < t.vlmax / 32, has 32 b = true → u.mem.num (at_ b) 2 = t.sideEntry f.vd.toNat (32 * b / span) ∧
          ∀ k < 32, code u.mem b k = if on (32 * b + k) then storedAs mt (t.elem f.vd.toNat n (32 * b + k)) else code s.mem b k) ∧
        (∀ a, (∀ b < t.vlmax / 32, has 32 b = true → a < at_ b ∨ at_ b + size ≤ a) → u.mem.get a = s.mem.get a)) ∧
    (encode (.vmov f) = some w →
      ∃ u : State, exec (.vmov f) s = .next u ∧ moved u (fun i => t.elem f.va.toNat n i) (fun k => t.sideEntry f.va.toNat k))

/-- The forms that move path traces complete (R227, R228): vpget copies the entries of a path-trace register to active elements of vd, vpclr clears
them, and vpnode gives the node at level g(vb) of each active trace that has as many steps. -/
def traceResults : Prop :=
  ∀ (f : FmtV) (w : BitVec 32) (s : State), lone w → Idle s → Pushes s (descOf w) w → Sized s.cur → todo s.cur f.guard f.gneg →
    let t := s.cur
    let on := active t f.guard f.gneg
    let k := f.va.toNat
    let writes := fun (i : Instr) (value : Nat → Nat) => ∃ u : State, exec i s = .next u ∧ onlyVectors s u ∧
      (∀ j < t.vlmax, u.cur.elem f.vd.toNat 32 j = if on j then value j else t.elem f.vd.toNat 32 j) ∧ othersKept s u f.vd.toNat 1
    (encode (.vpget f) = some w → writes (.vpget f) (fun j => t.trace k j)) ∧
    (encode (.vpnode f) = some w → (∀ j, on j = true → (t.gread f.vb).toNat ≤ traceLen (t.trace k j)) →
      writes (.vpnode f) (fun j => nodeAt (tracePath (t.trace k j)) (t.gread f.vb).toNat)) ∧
    (encode (.vpclr f) = some w → ∃ u : State, exec (.vpclr f) s = .next u ∧
      u = after s { passed t with k := u.cur.k, dirty := u.cur.dirty } ∧
      (∀ j < t.vlmax, u.cur.trace k j = if on j then 0 else t.trace k j) ∧ ∀ c < 4, c ≠ k % 4 → u.cur.kread c = t.kread c)

/-- The values of a node or a row at `va` whose elements are plain (R220). -/
def plainOperand (s : State) (at_ : Nat → Nat) (fmt d va : Nat) : Operand :=
  if fmt = 0x09 then
    { halves := (List.range d).map (fun c => decodeF (fmtOf 0x09) (leNat (s.read (at_ (va + 2 * c)) 2))), codes := [], cands := [] }
  else
    { halves := [], cands := []
      codes := (List.range (d / 32)).flatMap (fun b =>
        let bs := s.read (at_ (va + 34 * b)) 34
        (List.range 32).filterMap (fun k => codeValue 0x0C (storedCode 0x0C bs k) (fieldAt bs 0 2))) }

/-- vdesc on a bf16 tree whose record, weights, biases and rows are plain, and whose scores raise no enabled flag, completes (R218 to R226): vs of
each active row receives its score fl(w · x + b); where its node is inside the tree the row goes to the child that the score's sign picks and its
trace records the step. -/
def treeResults : Prop :=
  ∀ (f : FmtV) (w : BitVec 32) (s : State) (bs : List Byte) (at_ : Nat → Nat), encode (.vdesc f) = some w → lone w → Idle s →
    Pushes s (descOf w) w → Sized s.cur → todo s.cur f.guard f.gneg → Clean s.cur → f.va ≠ f.vd →
    Holds s (s.cur.gread f.vb).toNat 64 64 Need.load bs →
    let t := s.cur
    let r := treeOf bs
    r.check bs = none → r.fmt = 0x09 →
    let on := active t f.guard f.gneg
    let k := f.fnx.toNat
    let node := fun i => t.elem f.vd.toNat 32 i
    let place := fun (base : Nat) (step : Int) (i : Nat) => ((base : Int) + step * i).toNat
    (∀ i, on i = true → node i ≤ 2 ^ (r.depth + 1) - 2 ∧ (levelOfNode (node i) < r.depth → traceLen (t.trace k i) < 24) ∧
      0 ≤ (r.wbase : Int) + r.nstride * node i ∧ 0 ≤ (r.xbase : Int) + r.xstride * i ∧
      (∀ c < r.d, Plain s (place r.wbase r.nstride (node i) + 2 * c : Nat) 2 Need.load (at_ (place r.wbase r.nstride (node i) + 2 * c)) ∧
        Plain s (place r.xbase r.xstride i + 2 * c : Nat) 2 Need.load (at_ (place r.xbase r.xstride i + 2 * c))) ∧
      Plain s (r.bbase + 4 * node i : Nat) 4 Need.load (at_ (r.bbase + 4 * node i))) →
    let score := fun i => r.score (plainOperand s at_ r.fmt r.d (place r.wbase r.nstride (node i)))
      (plainOperand s at_ r.fmt r.d (place r.xbase r.xstride i)) (leNat (s.read (at_ (r.bbase + 4 * node i)) 4))
    let inner := fun i => decide (levelOfNode (node i) < r.depth)
    let right := fun i => if aboveZero (score i).1 then 1 else 0
    (∀ i, on i = true → (score i).2 &&& t.fen = 0) →
    ∃ u : State, exec (.vdesc f) s = .next u ∧
      u = after s { passed t with
        v := u.cur.v, bad := u.cur.bad, dlen := u.cur.dlen, dirty := u.cur.dirty, k := u.cur.k
        fflags := t.fflags ||| raised (((List.range t.vl.toNat).filter on).map (fun i => (i, (score i).2))) } ∧
      (∀ r < 32, ¬(f.va.toNat ≤ r ∧ r < f.va.toNat + vtGroup t.vt12) → ¬(f.vd.toNat ≤ r ∧ r < f.vd.toNat + vtGroup t.vt12) →
        u.cur.vread r = t.vread r) ∧ (∀ c < 4, c ≠ k % 4 → u.cur.kread c = t.kread c) ∧
      (∀ i < t.vlmax, u.cur.elem f.va.toNat 32 i = if on i then (score i).1 else t.elem f.va.toNat 32 i) ∧
      (∀ i < t.vlmax, u.cur.elem f.vd.toNat 32 i = if on i && inner i then 2 * node i + 1 + right i else node i) ∧
      (∀ i < t.vlmax, u.cur.trace k i = if on i && inner i then
        makeTrace (tracePath (t.trace k i) + right i * 2 ^ traceLen (t.trace k i)) (traceLen (t.trace k i) + 1) else t.trace k i)

/-- tcon on dense operands that both carry every index of one contraction, its block and elements plain, in the first of its issues and with a
point for each of VL, completes (R187 to R192): each point of C receives the sum, in the order of the contracted indices, of one rounded
multiply-add per product, beginning with the element of C where `acc` is set and with +0 where it is not; the stored cursor becomes VL. -/
def contractResults : Prop :=
  ∀ (f : FmtV) (w : BitVec 32) (s : State) (bs : List Byte) (at_ : Nat → Nat), encode (.tcon f) = some w → lone w → Idle s →
    Pushes s (descOf w) w → Sized s.cur → wellFormed s → s.cur.es = 0 → Holds s (s.cur.gread f.va).toNat 384 128 Need.both bs →
    let t := s.cur
    let k := tconBlockOf bs
    let na := typeWidth k.a.type / 8
    let nb := typeWidth k.b.type / 8
    let nc := typeWidth k.c.type / 8
    let points := k.extent.getD 0 0
    let inner := k.extent.getD 1 0
    k.check bs = none → k.nidx = 2 → k.cursor = 0 → k.c.order = 1 → k.a.fmt = 0 → k.b.fmt = 0 → k.a.ids.take k.a.order = [0, 1] →
    k.b.ids.take k.b.order = [1] → 0 < t.vl.toNat → t.vl.toNat ≤ points →
    (∀ i < t.vl.toNat, Plain s (k.c.vals + nc * i : Nat) nc (if k.acc then Need.both else Need.store) (at_ (k.c.vals + nc * i)) ∧
      ∀ j < inner, Plain s (k.a.vals + na * (i * inner + j) : Nat) na Need.load (at_ (k.a.vals + na * (i * inner + j))) ∧
        Plain s (k.b.vals + nb * j : Nat) nb Need.load (at_ (k.b.vals + nb * j))) →
    Plain s ((t.gread f.va).toNat + 8 : Nat) 8 Need.store (at_ ((t.gread f.va).toNat + 8)) →
    let value := fun (ty n va : Nat) => decodeF (fmtOf ty) (leNat (s.read (at_ va) n))
    let sum := fun (i : Nat) => (List.range inner).foldl (fun (y : FRes) j =>
      let z := fMacV (fmtOf k.c.type) t.frm.toNat (decodeF (fmtOf k.c.type) y.1) (value k.a.type na (k.a.vals + na * (i * inner + j)))
        (value k.b.type nb (k.b.vals + nb * j))
      (z.1, y.2 ||| z.2)) (if k.acc then leNat (s.read (at_ (k.c.vals + nc * i)) nc) else 0, 0)
    (∀ i < t.vl.toNat, (sum i).2 &&& t.fen = 0) →
    let written := fun (a : Nat) => (at_ ((t.gread f.va).toNat + 8) ≤ a ∧ a < at_ ((t.gread f.va).toNat + 8) + 8) ∨
      ∃ i < t.vl.toNat, at_ (k.c.vals + nc * i) ≤ a ∧ a < at_ (k.c.vals + nc * i) + nc
    (∀ i < t.vl.toNat, ∀ j < t.vl.toNat, i ≠ j → at_ (k.c.vals + nc * i) + nc ≤ at_ (k.c.vals + nc * j) ∨
      at_ (k.c.vals + nc * j) + nc ≤ at_ (k.c.vals + nc * i)) →
    (∀ i < t.vl.toNat, at_ (k.c.vals + nc * i) + nc ≤ at_ ((t.gread f.va).toNat + 8) ∨
      at_ ((t.gread f.va).toNat + 8) + 8 ≤ at_ (k.c.vals + nc * i)) →
    ∃ u : State, exec (.tcon f) s = .next u ∧ u.others = s.others ∧
      u.cur = { passed t with q := u.cur.q, fflags := t.fflags ||| raised ((List.range t.vl.toNat).map (fun i => (i, (sum i).2))) } ∧
      (∀ i < t.vl.toNat, ∀ b < nc, u.mem.get (at_ (k.c.vals + nc * i) + b) = (leBytes nc (sum i).1).getD b 0) ∧
      (∀ b < 8, u.mem.get (at_ ((t.gread f.va).toNat + 8) + b) = (leBytes 8 t.vl.toNat).getD b 0) ∧
      (∀ a, ¬ written a → u.mem.get a = s.mem.get a)

/-- What moves data. Moves between vector registers and with scalar registers (R112 to R114); vector loads, stores, gathers and scatters, which
bytes go to which element and what memory keeps (R75, R128 to R130, R143 to R145, R148 to R154); the forms over path traces (R227, R228); and, over
plain operands, the descent of a bf16 tree (R218 to R226) and a dense contraction (R187 to R192). No other register of the thread changes, and no
other byte, but that landed stream data of stored bytes goes (R166). -/
def Obligations.MoveResults : Prop :=
  registerMoveResults ∧ vectorMemoryResults ∧ blockMoveResults ∧ traceResults ∧ treeResults ∧ contractResults

/-- The queue's own events, for the oldest entry that is not held (R36, R90, R91, R103, R104, R307). ENTRY_RETIRE of a dispatched entry takes
it from the queue: its flags join FFLAGS, the FX registers and ROWP that it writes are written, DIRTY bits are set, ES returns to 0 where it
was the entry's, and an entry whose operand waits for a register that it wrote takes it (R40; log entry 49). ENTRY_DISPATCH of a lone entry that
completes leaves its effects and marks it to retire. Without such an entry they change nothing. -/
def Obligations.QueueEvents : Prop :=
  (∀ (s : State) (e : Entry) (rest : List Entry) (r : Retire), s.cur.queue = e :: rest → e.held = false → e.phase = .done r →
    r.deferred = none → r.hand = .nothing →
    exec .entryRetire s = .next (s.mod (fun t =>
      { t with
        queue := afterWriter t e.word rest, fflags := t.fflags ||| r.flags, fx := r.fx.getD t.fx, rowp := r.rowp.getD t.rowp, dirty := t.dirty ||| r.dirty
        es := if t.released ≠ 0 ∨ topLevel (e :: rest) = 0 then 0 else t.es, released := t.released - 1 }))) ∧
  (∀ (s : State) (d : Desc) (w : BitVec 32) (a : Acc) (v : Nat) (trim : Option Fail), descOf w = d → s.cur.queue = [] → lone w →
    Completes s d w a v trim →
    exec .entryDispatch (pushed s d w) = .next (dispatched s d w a v trim)) ∧
  (∀ s : State, (∀ e ∈ s.cur.queue, e.held = true) → exec .entryRetire s = .next s ∧ exec .entryDispatch s = .next s)

/-! ## Events of the part -/

/-- A thread that pre-emption takes off its slot (R94): it waits to be saved, awake, and fetches anew when it goes on. -/
def preempted (t : Thread) : Thread := { t with status := .leaving, asleep := none, woken := false, fetched := [], stuck := none }

/-- SLICE_EXPIRY and SLOT_UNBIND pre-empt the whole team of the slot, and the teams that are bound with it (R282, R290, R293): no record of a
thread of theirs stays valid. Where the current thread is the only one of them that is bound, has done work in its slice and holds no entry
that has dispatched, exactly that happens: it waits to be saved with its queue as it is (R94), and a slice that expired stands at 0. -/
def Obligations.Preemption : Prop :=
  ∀ (slot : Nat) (s : State) (m : Team), s.boundTeam slot = some m →
    let off := fun (l : List BindRecord) => l.map (fun y => if ∃ x ∈ s.together m, x.hub = some y.team.toNat then { y with valid := false } else y)
    (∀ groups : List Nat,
      (∃ u : State, exec (.slotUnbind slot groups) s = .next u ∧
        ∀ y ∈ u.binds, ∀ x ∈ s.together m, x.hub = some y.team.toNat → y.valid = false) ∧
      (∃ u : State, exec (.sliceExpiry slot groups) s = .next u ∧
        ∀ y ∈ u.binds, ∀ x ∈ s.together m, x.hub = some y.team.toNat → y.valid = false)) ∧
    (s.cur.slot = slot → s.cur.status = .running → s.cur.progress = true → s.cur.team = m.num → m ∈ s.together m →
      (∀ y ∈ s.others, y.status ≠ .unbound ∧ ∀ x ∈ s.together m, y.team ≠ x.num) → (∀ e ∈ s.cur.queue, e.isDone = false) →
      exec (.slotUnbind slot []) s = .next { s with cur := preempted s.cur, binds := off s.binds } ∧
      exec (.sliceExpiry slot []) s = .next { s with
        cur := preempted s.cur, binds := off (s.binds.map (fun y => if y.slot = slot then { y with left := 0 } else y)) })

/-- CONTEXT_SAVE writes the image of a thread that waits to be saved, once its engines are done and its entries have retired or not started
(R329 to R331, R334): the header, the g registers, the PC and every vector group that was written stand at their places on the frames of the
thread's 16 pages, where these frames are still the partition's (R4), no byte outside the team's save area changes, the bind record and the team
say saved, and the thread leaves the slot. -/
def Obligations.ContextSave : Prop :=
  ∀ (slot : Nat) (s : State) (b : BindRecord) (m : Team), wellFormed s → s.bindOf slot = some b → s.team s.cur.team = some m →
    s.cur.slot = slot → s.cur.status = .leaving → m.pages.length = 16 * m.record.threads + 1 → m.pages.Nodup →
    s.cur.lthread < m.record.threads → (∀ e ∈ s.cur.queue, e.isDone = false) → s.engineBusy s.cur.team s.cur.lthread = false →
    s.cur.queue.length ≤ 64 → (∀ n ∈ s.cur.dlen.toList, n ≤ 8) → (∀ y ∈ s.others, y.status ≠ .unbound → y.slot ≠ slot) →
    let frames := m.imageFrames s.cur.lthread
    ∃ u : State, exec (.contextSave slot) s = .next u ∧
      (s.framesUsable m.part frames = true →
       let num := fun (off n : Nat) => u.mem.num (frameAt frames off) n
       num 0 2 = 1 ∧ num 2 1 = s.cur.lg % 256 ∧ num 3 1 = s.cur.queue.length ∧ num 4 2 = s.cur.seq.toNat ∧ num 6 2 = s.cur.es.toNat ∧
       num 8 8 = s.cur.pc.toNat ∧ (∀ r : BitVec 5, num (0x100 + 8 * r.toNat) 8 = (s.cur.gread r).toNat) ∧
       num 0x200 8 = s.cur.vl.toNat ∧ num 0x208 8 = s.cur.vt.toNat) ∧
      (s.framesUsable m.part frames = true → ∀ (r : Fin 32) (k : Nat), k < 128 * s.cur.dlen[r] →
        u.mem.get (frameAt frames (0x8000 + 1024 * r.val + k)) = (s.cur.vread r.val).extractLsb' (8 * k) 8) ∧
      (∀ a, a / 4096 ∉ m.pages → u.mem.get a = s.mem.get a) ∧
      u.binds = s.binds.map (fun y => if y.slot = slot then { y with saved := true } else y) ∧
      (∀ x ∈ u.teams, x.num = m.num → x.saved.getD s.cur.lthread false = true) ∧ (∀ y ∈ u.threads, y.slot ≠ slot)

/-- SLOT_BIND (R283, R293, R334), for a team of which one thread is left, on a package whose current place is free. Where the firmware may not
bind the team nothing happens; where an image cannot be restored on the core the launch is torn down. A thread without an image starts: PC the
entry, g1 the parameter, every other g, v, p, h and k register 0, the streams unbound, VT with ILL set, VL 0, user mode, nothing queued. With an
image its PC and g registers come from the frames of its save area, and MOVED counts a resumption on another slot (R296). The record becomes
valid with a slice of at least one cycle. What makes an image one that cannot be restored, and a binding impossible on other pipe kinds, is log
entry 44; that an image is read under the key slot that it was saved with is log entry 4 (both the model's readings). -/
def Obligations.SlotBind : Prop :=
  (∀ (slot : Nat) (s : State), (s.bindOf slot).bind s.readyGroup = none → exec (.slotBind slot) s = .next s) ∧
  ∀ (slot : Nat) (s : State) (b : BindRecord) (m : Team), s.bindOf slot = some b → s.readyGroup b = some [m] →
    (s.teamRestorable m = false → ∀ l, s.launch m.part m.launch = some l → exec (.slotBind slot) s = .next (s.tearDown l)) ∧
    (s.teamRestorable m = true → s.recordsOf m = [b] → s.cur.status = .unbound → s.moveWindows m = s →
      let n := b.lthread.toNat
      let bound := fun (u : State) => u.cur.status = .running ∧ u.cur.slot = slot ∧ u.cur.team = m.num ∧ u.cur.lthread = n ∧
        u.cur.part = BitVec.ofNat 6 m.part ∧
        ∃ y ∈ u.binds, y.slot = slot ∧ y.valid = true ∧ y.saved = false ∧ 1 ≤ y.budget.toNat ∧ y.left = y.budget
      (m.saved.getD n false = false →
        ∃ u : State, exec (.slotBind slot) s = .next u ∧ bound u ∧ u.cur.pc = m.record.entry ∧
          (∀ r : BitVec 5, u.cur.gread r = if r = 1 then m.record.param else 0) ∧ (∀ r, u.cur.vread r = 0) ∧
          (∀ p : BitVec 3, p ≠ 0 → u.cur.pread p = 0) ∧ (∀ h, u.cur.hread h = 0) ∧ u.cur.k = Vector.replicate 4 0 ∧
          (∀ q, (u.cur.qread q).kind = .unbound) ∧ u.cur.vt = 0x1000 ∧ u.cur.vl = 0 ∧ u.cur.es = 0 ∧ u.cur.queue = [] ∧
          u.cur.priv = false ∧ u.cur.busy = false ∧ u.cur.fflags = 0 ∧ u.cur.fen = 0 ∧ u.cur.frm = 0 ∧ u.cur.moved = 0) ∧
      (let key := (m.marks.getD n Marks.none).key
       let frames := m.imageFrames n
       m.saved.getD n false = true → s.wild = [] → (∀ t ∈ s.lines, t.key = key) →
        ∃ u : State, exec (.slotBind slot) s = .next u ∧ bound u ∧ u.cur.pc = BitVec.ofNat 64 (s.mem.num (frameAt frames 8) 8) ∧
          (∀ r : BitVec 5, r ≠ 0 → u.cur.gread r = BitVec.ofNat 64 (s.mem.num (frameAt frames (0x100 + 8 * r.toNat)) 8)) ∧
          u.cur.moved = BitVec.ofNat 64 (s.mem.num (frameAt frames 0x270) 8) + (if (m.lastSlot.getD n none).any (fun x => x != slot) then 1 else 0)))

/-- What issuing a word has left of the stream registers, beside the advance: a store drops what streams have landed of its bytes (R166). -/
def storesOnly (s u : State) (t : Thread) : Prop := u.cur = { t with q := u.cur.q } ∧ u.others = s.others

/-- Memory holds the n low bytes of x at pa, and is as it was elsewhere. -/
def holdsAt (s u : State) (pa n x : Nat) : Prop := u.mem.num pa n = x % 2 ^ (8 * n) ∧ ∀ a, (a < pa ∨ pa + n ≤ a) → u.mem.get a = s.mem.get a

/-- The forms of streams, shape records and copies complete (R162, R164, R165, R170, R171, R173 to R176). qbind makes a binding at its first
element, qfree ends one, each with the ring binding of the register. vpop moves the next VL landed elements to vd, those below ES unwritten.
hld and hst move a record between a shape register and 128 plain bytes. tcopy hands its elements, whose bytes it has pinned, to the copy engine
and counts them on its barrier; it moves none itself. -/
def issueResults : Prop :=
  ∀ (f : FmtV) (w : BitVec 32) (s : State), lone w → Idle s → Pushes s (descOf w) w → Sized s.cur →
    let t := s.cur
    let q := f.vd.toNat
    (encode (.qbind f) = some w → (t.gread f.vb).toNat < 2 ^ 48 →
      exec (.qbind f) s = .next (after (s.unbindRing t.team t.lthread q) ((stepped t).qwrite q
        { kind := .memory, live := true, base := t.gread f.va, count := (t.gread f.vb).toNat, pos := 0, vt := t.vt12, landed := 0, ahead := []
          stop := none, engine := 0 }))) ∧
    (encode (.qfree f) = some w → (t.qread q).kind ≠ .unbound →
      exec (.qfree f) s = .next (after (s.unbindRing t.team t.lthread q) ((stepped t).qwrite q Stream.unboundReset))) ∧
    (encode (.vpop f) = some w → t.es.toNat < t.vl.toNat → ∀ xs : List Nat, LandedKeys s (t.qread f.va.toNat) xs → t.vl.toNat ≤ xs.length →
      (t.qread f.va.toNat).vt = t.vt12 → vtMem t.vt12 = vtType t.vt12 →
      let n := typeWidth (vtType t.vt12)
      ∃ u : State, exec (.vpop f) s = .next u ∧
        u = after s { (passed t).qwrite f.va.toNat ((t.qread f.va.toNat).advance t.vl.toNat) with
          v := u.cur.v, bad := u.cur.bad, dlen := u.cur.dlen, dirty := u.cur.dirty } ∧
        (∀ i < t.vlmax, u.cur.elem f.vd.toNat n i =
          if t.es.toNat ≤ i ∧ i < t.vl.toNat then xs.getD i 0 % 2 ^ n else t.elem f.vd.toNat n i) ∧ othersKept s u f.vd.toNat (vtGroup t.vt12)) ∧
    (encode (.hld f) = some w → ∀ bs, Holds s (t.gread f.va).toNat 128 128 Need.load bs →
      ∃ u : State, exec (.hld f) s = .next u ∧
        u = after s { stepped t with h := u.cur.h, hill := u.cur.hill, dirty := u.cur.dirty } ∧
        u.cur.hread q = BitVec.ofNat 1024 (leNat bs) ∧ u.cur.hill.getLsbD (q % 8) = illFormed (BitVec.ofNat 1024 (leNat bs)) ∧
        ∀ k < 8, k ≠ q % 8 → u.cur.hread k = t.hread k ∧ u.cur.hill.getLsbD k = t.hill.getLsbD k) ∧
    (encode (.hst f) = some w → wellFormed s → (t.gread f.va).toNat % 128 = 0 → ∀ pa : Nat,
      (∀ k < 16, Plain s ((t.gread f.va).toNat + 8 * k : Nat) 8 Need.store (pa + 8 * k)) →
      ∃ u : State, exec (.hst f) s = .next u ∧ storesOnly s u (stepped t) ∧ holdsAt s u pa 128 (t.hread q).toNat) ∧
    (encode (.tcopy f) = some w → t.es.toNat < t.vl.toNat → ∀ (from_ to_ : Nat → Nat),
      let src := shapeOf (t.hread f.va.toNat)
      let dst := shapeOf (t.hread f.vd.toNat)
      let desc := (t.gread f.vb).toNat
      let bar := BitVec.ofNat 6 desc
      let n := t.vl.toNat - t.es.toNat
      let bytes := fun (at_ : Nat) => (List.range src.unit).map (fun b => at_ + b)
      s.copyCheck f.va.toNat f.vd.toNat (viewOf s (descOf w) w) = none → src.block = false → src.base % src.unit = 0 → dst.base % dst.unit = 0 →
      s.expectedOver bar n = false → 2 * n ≤ s.pinRoom →
      (∀ i, t.es.toNat ≤ i → i < t.vl.toNat → desc / 2 ^ 16 + i < src.count ∧ desc / 2 ^ 16 + i < dst.count ∧
        Plain s (src.addr (desc / 2 ^ 16 + i)) src.unit Need.load (from_ i) ∧ Plain s (dst.addr (desc / 2 ^ 16 + i)) dst.unit Need.store (to_ i)) →
      ∃ (u : State) (c : Copy), exec (.tcopy f) s = .next u ∧ storesOnly s u (passed t) ∧ u.mem = s.mem ∧ u.copies = s.copies ++ [c] ∧
        c.num = s.nextOp ∧ c.team = t.team ∧ c.lthread = t.lthread ∧ c.bar = bar ∧
        c.moves = (List.range n).map (fun k => { index := t.es.toNat + k, src := bytes (from_ (t.es.toNat + k)), dst := bytes (to_ (t.es.toNat + k))
                                                 lo := 0, width := 0 }) ∧
        u.barriers = s.barriers.map (fun b => if b.team = t.team ∧ b.crew = s.crew ∧ b.num = bar then { b with expected := b.expected + n } else b))

/-- Sealed operations are issued (R214): a request block that keeps to R214, on a landing barrier, is handed to the security engine as it was
read, under the issuing translation, and counts one on the barrier. -/
def sealedIssued : Prop :=
  ∀ (f : FmtV) (w : BitVec 32) (s : State) (opens : Bool) (bs : List Byte),
    let i := if opens then Instr.kopen f else Instr.kseal f
    encode i = some w → lone w → Idle s → Pushes s (descOf w) w → s.cur.es = 0 → Holds s (s.cur.gread f.va).toNat 64 64 Need.both bs →
    let t := s.cur
    let bar := BitVec.ofNat 6 (t.gread f.vb).toNat
    (if opens then fieldAt bs 0x24 0x14 = 0 else fieldAt bs 0x20 0x18 = 0 ∧ 1 ≤ fieldAt bs 16 8 ∧ fieldAt bs 16 8 ≤ 256) →
    (t.gread f.vb).toNat < 64 → s.landingReason (t.gread f.vb).toNat = none → s.expectedOver bar 1 = false →
    ∃ u : State, exec i s = .next u ∧ u.cur = stepped t ∧ u.mem = s.mem ∧ u.seals = s.seals ++
      [{ num := s.nextOp, opens := opens, team := t.team, lthread := t.lthread, crew := s.crew, bar := bar, part := t.part.toNat, ptb := t.ptb
         key := t.keydef.toNat, user := t.user, block := t.gread f.va, req := bs }] ∧
      u.barriers = s.barriers.map (fun b => if b.team = t.team ∧ b.crew = s.crew ∧ b.num = bar then { b with expected := b.expected + 1 } else b)

/-- A tensor's header at `va` and the record of one of its slots, at `va_` and plain (R195, R197). -/
structure Stitched (s : State) (va slot pa ra : Nat) (h : Head) (r : SlotRecord) : Prop where
  head : Plain s (va : Nat) 64 Need.load pa ∧ h = headOf va (s.read pa 64) ∧ h.wellFormed (s.read pa 64) = true
  record : Plain s (h.slotAt slot : Nat) 16 Need.load ra
  fields : r = { version := leNat (s.read ra 4), pins := leNat (s.read (ra + 4) 2), nanch := leNat (s.read (ra + 6) 2), length := leNat (s.read (ra + 8) 8) }
  predictable : s.wild = []

/-- The stitched forms complete (R202 to R209). xpin counts a pin in the current slot and gives its handle; xunpin takes one back, and ends an
old version with its last; xlen gives the length of a handle's version. xrun gives 0 and VL 0 from the end of the version on, and below it,
where the version has one anchor and its entry holds the index, the address and what is left of the piece. xsplice and xreap, where the
unit's operation on the tensor does not stop, leave memory as it leaves it, gd being the new version and the number of entries reaped. -/
def stitchedResults : Prop :=
  ∀ (f : FmtV) (w : BitVec 32) (s : State), lone w → Idle s → Pushes s (descOf w) w → wellFormed s → s.cur.es = 0 →
    let t := s.cur
    let x := (t.gread f.va).toNat
    let slot := bitsOf x 5 3
    let valid := fun (pa ra : Nat) (h : Head) (r : SlotRecord) => Stitched s (64 * bitsOf x 55 6) slot pa ra h r ∧ bitsOf x 2 0 = 0 ∧
      h.live.testBit slot = true ∧ r.pins ≠ 0 ∧ r.version % 256 = bitsOf x 63 56
    ∀ (pa ra : Nat) (h : Head) (r : SlotRecord),
    (encode (.xpin f) = some w → Stitched s x h.curslot pa ra h r → Plain s (h.slotAt h.curslot + 4 : Nat) 2 Need.store (ra + 4) → r.pins ≠ 65535 →
      ∃ u : State, exec (.xpin f) s = .next u ∧ holdsAt s u (ra + 4) 2 (r.pins + 1) ∧
        storesOnly s u ((stepped t).gwrite f.vd (BitVec.ofNat 64 (h.cur % 256 * 2 ^ 56 + bitsOf x 55 6 * 64 + h.curslot * 8)))) ∧
    (encode (.xunpin f) = some w → valid pa ra h r → Plain s (h.slotAt slot + 4 : Nat) 2 Need.store (ra + 4) →
      ((r.pins ≠ 1 ∨ slot = h.curslot) → ∃ u : State, exec (.xunpin f) s = .next u ∧ holdsAt s u (ra + 4) 2 (r.pins - 1) ∧ storesOnly s u (stepped t)) ∧
      (r.pins = 1 → slot ≠ h.curslot → Plain s (h.va + 0x25 : Nat) 1 Need.store (pa + 0x25) → (pa + 0x25 < ra + 4 ∨ ra + 6 ≤ pa + 0x25) →
        ∃ u : State, exec (.xunpin f) s = .next u ∧ storesOnly s u (stepped t) ∧ u.mem.num (ra + 4) 2 = 0 ∧
          u.mem.num (pa + 0x25) 1 = h.live - 2 ^ slot ∧
          ∀ a, a ≠ pa + 0x25 → a ≠ ra + 4 → a ≠ ra + 5 → u.mem.get a = s.mem.get a)) ∧
    (encode (.xlen f) = some w → valid pa ra h r → exec (.xlen f) s = .next (after s ((stepped t).gwrite f.vd (BitVec.ofNat 64 r.length)))) ∧
    (encode (.xrun f) = some w → valid pa ra h r →
      let y := (t.gread f.vb).toNat
      (r.length ≤ y → exec (.xrun f) s = .next (after s { (stepped t).gwrite f.vd 0 with vl := 0 })) ∧
      (∀ (aa ea : Nat) (e : PoolEntry), y < r.length → r.nanch = 1 → Plain s (h.slotAt slot + 0x10 : Nat) 16 Need.load aa →
        Plain s (h.slotAt slot + 0x18 : Nat) 8 Need.load (aa + 8) → leNat (s.read (aa + 4) 4) = 0 →
        let first := leNat (s.read aa 4)
        let start := leNat (s.read (aa + 8) 8)
        first < h.cap → Plain s (h.entryAt first : Nat) 32 Need.load ea → s.read ea 32 = e.bytes → 0 < e.len → e.len < 2 ^ 32 → e.base < 2 ^ 64 →
        e.alive r.version = true → e.born < 2 ^ 32 → e.died < 2 ^ 32 → e.share < 2 ^ 16 → e.next < 2 ^ 32 → start ≤ y → y < start + e.len →
        exec (.xrun f) s = .next (after s { (stepped t).gwrite f.vd (BitVec.ofNat 64 (e.base + 2 ^ h.esz * (y - start))) with
          vl := BitVec.ofNat 16 (min t.vl.toNat (start + e.len - y)) }))) ∧
    (let started := UnitRun.start (pushed s (descOf w) w)
     let head := started.header x
     head.2.stop = none →
      (encode (.xsplice f) = some w →
        let d := head.2.descriptor head.1 (t.gread f.vb).toNat
        let done := d.2.2.2.splice head.1 d.1 d.2.1 d.2.2.1
        d.2.2.2.stop = none → done.stop = none →
        ∃ u : State, exec (.xsplice f) s = .next u ∧ u.mem = done.s.mem ∧ storesOnly s u ((stepped t).gwrite f.vd (BitVec.ofNat 64 (head.1.cur + 1)))) ∧
      (encode (.xreap f) = some w → t.vl ≠ 0 →
        let out := head.2.outputs (t.gread f.vb).toNat t.vl.toNat 0
        let live := out.2.2.versions head.1 (List.range 8)
        let list := live.2.list head.1 head.1.cap head.1.head
        let reaped := reapFrom live.1 out.1 list.1
        let done := list.2.commit (reapWrites head.1 (t.gread f.vb).toNat reaped.1 reaped.2)
        out.2.1 = none → done.stop = none →
        ∃ u : State, exec (.xreap f) s = .next u ∧ u.mem = done.s.mem ∧
          storesOnly s u { (stepped t).gwrite f.vd (BitVec.ofNat 64 reaped.2.length) with vl := BitVec.ofNat 16 reaped.2.length }))

/-- The engines beside the scalar part. STREAM_ENGINE_FETCH lands the next element of a bound memory stream from memory, for a thread in user
mode, or stops before it at the cause that it meets (R163); that it sets no A, which the instruction that takes the element sets, is the
model's reading (log entry 20). COPY_LANDING moves the next element of the oldest copy on its barrier, byte for
byte, and counts it there; an error in its source, which then reaches its destination, or in a destination that it writes in part is recorded
once (R176, R177; which element that is, where several moves were due: log entry 29). A sealed operation ends with its code on its barrier
(R214 to R217), unless it must wait for a copy of its thread that was issued before it (R62, R279), 3 where its partition has no session: that this comes before its other checks is the model's reading (log entry 41). An engine of a
qbind that has not retired lands nothing (R162). -/
def engineEvents : Prop :=
  (∀ (q : BitVec 3) (s s1 : State) (r : Reach), let st := s.cur.qread q.toNat
    st.kind = .memory → st.live = true → st.ahead = [] → st.stop = none → st.pos < st.count → s.cur.priv = false → s.cur.status = .running →
    s.reachElem s.cur.ctx oobPlain (st.base.toNat + st.size * st.pos : Nat) st.size Need.load = (r, s1) →
    (let u := (s1.cacheLeaf s.cur.ctx r.va r.leaf).noteAccess r.pa
     r.cands = [] → r.ns = false → s1.copyMeets r.pa st.size false = false → u.wild = [] →
      exec (.streamEngineFetch q) s = .next (u.tock.mod (fun t =>
        t.qwrite q.toNat { st with landed := max st.landed (st.pos + 1)
                                   ahead := [{ elem := st.pos, ctx := ctxOf s.cur.ptb, pa := r.pa, value := u.mem.num r.pa st.size }] }))) ∧
    (∀ c, firstCand r.cands = some c → r.ns = false → s1.copyHeals c [r] = false →
      exec (.streamEngineFetch q) s = .next (s1.mod (fun t =>
        t.qwrite q.toNat { st with stop := some { elem := st.pos, cause := c.cause, sub := c.sub, addr := c.addr } })))) ∧
  (∀ (q : BitVec 3) (s : State), (s.cur.qread q.toNat).kind ≠ .memory ∨ (s.cur.qread q.toNat).live = false ∨ s.cur.priv = true → exec (.streamEngineFetch q) s = .next s) ∧
  (∀ (s : State) (c : Copy) (m : CopyMove) (rest : List CopyMove), wellFormed s → s.copies.find? (fun x => x.num == c.num) = some c →
    s.mayLand c = true → c.moves = m :: rest → m.width = 0 → s.wild = [] → m.dst.Nodup → m.src.length = m.dst.length →
    let landed := fun (f : Barrier → Barrier) => s.barriers.map (fun b =>
      if b.team = c.team ∧ b.crew = c.crew ∧ b.num = c.bar then f { b with landed := b.landed + 1 } else b)
    let source := ∃ a ∈ m.src, s.poisoned a 1 = true
    let partly := ∃ x ∈ m.units, s.poisoned (32 * x) 32 = true ∧ x ∉ c.whole
    let whole := if source then c.whole.filter (fun x => !m.units.contains x) else c.whole
    let left := if rest = [] then s.copies.filter (fun x => x.num != c.num)
      else s.copies.map (fun x => if x.num = c.num then { x with moves := rest, whole := whole } else x)
    ∃ u : State, exec (.copyLanding c.num) s = .next u ∧ u.cur = s.cur ∧ u.others = s.others ∧ u.copies = left ∧
      (∀ k (h : k < m.dst.length) (h' : k < m.src.length), u.mem.get m.dst[k] = s.mem.get m.src[k]) ∧
      (∀ a, a ∉ m.dst → u.mem.get a = s.mem.get a) ∧
      (source → ∀ a ∈ m.dst, s.regionAt a = none → u.poisoned a 1 = true) ∧
      u.barriers = landed (fun b =>
        if (source ∨ partly) ∧ b.err = false then { b with err := true, elem := BitVec.ofNat 16 m.index, land := b.landed } else b)) ∧
  (∀ (s : State) (o : SealOp), s.seals.find? (fun x => x.num == o.num && x.opens == o.opens) = some o →
    let i := if o.opens then Instr.kopenCompletion o.num else Instr.ksealCompletion o.num
    let ends := ∃ (u : State) (code : Nat), code ≤ 5 ∧ (s.session o.part = none → code = 3) ∧ exec i s = .next u ∧
      u.seals = s.seals.filter (fun x => x.num != o.num) ∧
      u.barriers = s.barriers.map (fun b => if b.team = o.team ∧ b.crew = o.crew ∧ b.num = o.bar then
        { b with landed := b.landed + 1, svalid := true, code := if b.code = 0 then BitVec.ofNat 8 code else b.code } else b) ∧
      u.cur.g = s.cur.g ∧ u.cur.v = s.cur.v ∧ u.cur.pc = s.cur.pc
    let earlier := ∃ c ∈ s.copies, c.team = o.team ∧ c.lthread = o.lthread ∧ c.num < o.num
    (¬earlier → ends) ∧ (earlier → ends ∨ exec i s = .next s))

/-- The engines beside the scalar part, and the instructions that set them to work. STREAM_ENGINE_FETCH lands the next element of a bound memory
stream from memory, for a thread in user mode, or stops before it at the cause that it meets (R163; that it sets no A is log entry 20); an engine
of a qbind that has not retired lands nothing (R162). COPY_LANDING moves the next element of the oldest copy on its barrier, byte for byte, and counts it there, with its error
(R176, R177; which element that is, where several moves were due: log entry 29). A sealed operation ends, after its thread's earlier copies that it
meets, with its code on its barrier (R62, R214 to R217, R279), 3 where its partition has no session: that this comes before its other checks is the model's reading (log entry 41). qbind, qfree, vpop,
hld, hst and tcopy (R162 to R176), kseal and kopen (R214) and the stitched forms (R202 to R209) complete with the effect of their rules on the
streams, shape registers, copies, barriers, sealed operations and tensors. -/
def Obligations.EngineEvents : Prop := engineEvents ∧ issueResults ∧ sealedIssued ∧ stitchedResults

/-- BARRIER_PHASE_COMPLETE, once every crew of the scope instance has reported (R264): on each of those crews the phase rises by one and the
arrivals return to 0; nothing else changes. A bar.sync or bar.wait that waits there goes on as it runs again (`Obligations.BarrierArrivals`,
`Obligations.BarrierWaits`). AWAIT_WAKEUP wakes the sleeping await of a slot (R259). -/
def Obligations.PhaseAndWakeup : Prop :=
  (∀ (team : Nat) (bar : BitVec 6) (crews : List Nat) (s : State), s.readyPhase team bar = some crews →
    (∀ c ∈ crews, let b := s.barrierOf team c bar; b.kind = 1 ∧ 0 < b.count ∧ b.count ≤ b.arrivals) ∧
    exec (.barrierPhaseComplete team bar) s = .next { s with
      barriers := s.barriers.map (fun b => if b.team = team ∧ b.num = bar ∧ b.crew ∈ crews then { b with phase := b.phase + 1, arrivals := 0 } else b) }) ∧
  (∀ (team : Nat) (bar : BitVec 6) (s : State), s.readyPhase team bar = none → exec (.barrierPhaseComplete team bar) s = .next s) ∧
  (∀ (slot : Nat) (s : State),
    let up := fun (t : Thread) => { t with woken := t.woken || (t.slot == slot && t.asleep.isSome) }
    exec (.awaitWakeup slot) s = .next { s with cur := up s.cur, others := s.others.map up })

/-- What a broken engine keeps (R245): the reason, and of its arrivals the current block alone. -/
def brokenRing (r : Ring) : Ring :=
  { r with state := .broken, local_ := false, link := true, heads := r.heads.filter (fun h => r.current && h.arrival == r.next)
           pinned := r.pinned && r.current }

/-- The events of the ring engines (R233 to R235, R238, R245, R373), for an engine that runs and whose revolution the event does not complete:
the handshake with neighbours that agree starts a waiting engine; the next arrival in its order lands in its slot, payload after header, on
the pages that ring.cfg pinned; an arrival is forwarded once its slot downstream is free; a release is counted, also by an engine that still
waits for its other neighbour; a break flit and the loss of a link break the engine, which keeps no arrival but the current block; a retrained
link is up. Over a link that is down nothing passes. The counts `freed`, that credits count while an engine waits, and what the neighbours send,
which the event brings, are the model's (log entry 30). -/
def ringEvents : Prop :=
  (∀ (r : BitVec 2) (up down : RingPeer) (s : State), let e := s.ring r.toNat
    e.state = .waiting → s.portUp e.up = true → s.portUp e.down = true → 0 < e.n → e.next < e.total → up.tag = e.tag → up.n = e.n → up.rev = e.rev → up.pos = (e.m + e.n - 1) % e.n → down.tag = e.tag →
    down.n = e.n → down.rev = e.rev → down.pos = (e.m + 1) % e.n →
    exec (.ringHandshake r up down) s = .next (s.setRing r.toNat
      { e with state := .running, peerSlots := down.slots
               freed := min e.next (if e.toForward ≤ e.forwarded then e.total else e.forwarded) })) ∧
  (∀ (r : BitVec 2) (x : RingBlock) (s : State), wellFormed s → let e := s.ring r.toNat
    s.portUp e.up = true → e.accepts x = true → e.next < e.total →
    let va := e.slots.toNat + e.landed % max 1 e.s * e.ssize
    let at_ := fun (a : Nat) => e.paOf (va + a)
    (∀ a < 64 + x.payload.length, at_ a = e.paOf ((va + a) / 4096 * 4096) + (va + a) % 4096) →
    (∀ a < 64 + x.payload.length, ∀ b < 64 + x.payload.length, at_ a = at_ b → a = b) →
    (∀ a < 64 + x.payload.length, PageKept s e (va + a) true) →
    ∃ u : State, exec (.ringArrival r x) s = .next u ∧ u.cur = s.cur ∧
      (∀ k < x.payload.length, u.mem.get (at_ (64 + k)) = x.payload.getD k 0) ∧
      (∀ k < 8, u.mem.get (at_ k) = BitVec.ofNat 8 (e.tag.toNat / 256 ^ k)) ∧
      (u.ring r.toNat).landed = e.landed + 1 ∧
      (u.ring r.toNat).heads = e.heads ++ [{ arrival := e.landed, origin := x.origin, index := x.index, bytes := x.payload.length, toff := x.toff,
                                             tcnt := x.tcnt }]) ∧
  (∀ (r : BitVec 2) (s : State), let e := s.ring r.toNat
    (s.portUp e.down = true → e.mayForward = true → e.next < e.total →
      ∃ u : State, exec (.ringForward r) s = .next u ∧ u.ring r.toNat =
        { e with forwarded := e.forwarded + 1, freed := min e.next (if e.toForward ≤ e.forwarded + 1 then e.total else e.forwarded + 1) }) ∧
    (e.mayForward = false → exec (.ringForward r) s = .next s) ∧
    (s.portUp e.down = false → exec (.ringForward r) s = .next s ∧ exec (.ringSlotRelease r) s = .next s) ∧
    (s.portUp e.up = false → ∀ (x : RingBlock) (up down : RingPeer),
      exec (.ringArrival r x) s = .next s ∧ exec (.ringHandshake r up down) s = .next s) ∧
    (s.portUp e.down = true → e.state = .running ∨ e.state = .waiting → exec (.ringSlotRelease r) s = .next (s.setRing r.toNat { e with credits := e.credits + 1 })) ∧
    (e.state = .running ∨ e.state = .waiting → exec (.ringBreakFlit r) s = .next (s.setRing r.toNat (brokenRing e)))) ∧
  (∀ (port : BitVec 3) (s : State),
    exec (.thrumezLinkLoss port) s = .next { s with
      linkUp := s.linkUp &&& ~~~(1#8 <<< port.toNat)
      rings := s.rings.map (fun r => if (r.up = port.toNat ∨ r.down = port.toNat) ∧ (r.state = .waiting ∨ r.state = .running) then brokenRing r
        else r) } ∧
    exec (.thrumezLinkRetrain port) s = .next { s with linkUp := s.linkUp ||| (1#8 <<< port.toNat) })

/-- The ring instructions complete for an engine of the partition, here one whose revolution the instruction does not complete (R237 to R243,
R386). ring.cfg takes the record, the pages of its areas and the bitmap's marks, and waits for its neighbours. ring.post lands an own block in
its slot as the next arrival. qbind.ring binds a stream register to the engine. ring.hdr gives the current block, makes the next unmarked one
current, or gives the end of a revolution or a break. ring.done sets the block's bit and ends the block. ring.stat gives the state. ring.brk
breaks the revolution. -/
def ringResults : Prop :=
  ∀ (f : FmtV) (w : BitVec 32) (s : State), lone w → Idle s → Pushes s (descOf w) w → wellFormed s → s.wild = [] → s.cur.es = 0 →
    let t := s.cur
    let granted := fun (n : Nat) => (s.ringPorts t.part.toNat n).isSome = true
    let st := t.qread f.va.toNat
    let e := s.ring st.engine.toNat
    (encode (.ringCfg f) = some w → ∀ (bs : List Byte) (ports : Nat) (ps qs us : List Reach), Holds s (t.gread f.va).toNat 128 128 Need.load bs →
      let r := ringOf t.part.toNat bs
      let area := fun (need : Need) (va size : Nat) => reachArea t.ctx need s (size / 4096 + 2) va (va + size)
      let size := (r.total + 7) / 8
      let bitmap := partsOf r.done.toNat size
      let r1 := { r with pins := ((ps ++ qs ++ us).map (Reach.pin t.ctx)).eraseDups, pinned := true, user := (s.ring f.vd.toNat).user }
      s.ringPorts t.part.toNat f.vd.toNat = some ports → (s.ring f.vd.toNat).active = false → r.bad bs ports = false →
      area Need.both r.slots.toNat (r.s * r.ssize) = .ok ps → area Need.load r.own.toNat (32 * r.b) = .ok qs → area Need.both r.done.toNat size = .ok us →
      (∀ x ∈ ps ++ qs, s.cacheLeaf t.ctx x.va x.leaf = s) → (∀ x ∈ us, s.touch t.ctx x.va x.leaf false = s) → (∀ x ∈ ps, inAperture x.pa = true) →
      (∀ p ∈ bitmap, s.copyMeets (r1.paOf p.1) p.2 false = false ∧ s.poisoned (r1.paOf p.1) p.2 = false) →
      exec (.ringCfg f) s = .next (after (s.setRing f.vd.toNat { r1 with marked := (List.range r.total).filter (fun k =>
        ((bitmap.flatMap (fun p => s.mem.bytes (r1.paOf p.1) p.2)).getD (k / 8) 0).getLsbD (k % 8)) }) (stepped t))) ∧
    (encode (.ringPost f) = some w → ∀ (bs : List Byte) (source : Nat → Nat),
      let r := s.ring f.vd.toNat
      granted f.vd.toNat → r.state = .running → r.landed < r.b → r.next < r.total → Holds s (r.own.toNat + 32 * r.landed) 32 32 Need.load bs →
      let bytes := fieldAt bs 8 4
      let parts := partsOf (fieldAt bs 0 8) bytes
      let va := r.slots.toNat + r.landed % max 1 r.s * r.ssize
      let at_ := fun (a : Nat) => r.paOf (va + a)
      bytes + 64 ≤ r.ssize → fieldAt bs 12 4 + fieldAt bs 16 2 ≤ 2 ^ 32 → fieldAt bs 18 14 = 0 →
      (∀ p ∈ parts, Span s (p.1 : Nat) p.2 Need.load (source p.1)) →
      (∀ a < 64 + bytes, at_ a = r.paOf ((va + a) / 4096 * 4096) + (va + a) % 4096) →
      (∀ a < 64 + bytes, ∀ b < 64 + bytes, at_ a = at_ b → a = b) → (∀ a < 64 + bytes, PageKept s r (va + a) true) →
      ∃ u : State, exec (.ringPost f) s = .next u ∧ u.cur = stepped t ∧
        (∀ k < bytes, u.mem.get (at_ (64 + k)) = (parts.flatMap (fun p => s.read (source p.1) p.2)).getD k 0) ∧
        (∀ k < 8, u.mem.get (at_ k) = BitVec.ofNat 8 (r.tag.toNat / 256 ^ k)) ∧
        (∀ a, (∀ k < 64 + bytes, a ≠ at_ k) → u.mem.get a = s.mem.get a) ∧ (u.ring f.vd.toNat).landed = r.landed + 1 ∧
        (u.ring f.vd.toNat).heads = r.heads ++ [{ arrival := r.landed, origin := r.m, index := r.landed, bytes := bytes, toff := fieldAt bs 12 4
                                                  tcnt := fieldAt bs 16 2 }]) ∧
    (encode (.qbindRing f) = some w → let n := f.va.toNat
      granted n → (s.ring n).state ≠ .unconfigured → (s.ring n).user = none →
      exec (.qbindRing f) s = .next (after
        ((s.unbindRing t.team t.lthread f.vd.toNat).setRing n { s.ring n with user := some (t.team, t.lthread, f.vd.toNat) })
        ((stepped t).qwrite f.vd.toNat { kind := .ring, live := false, base := 0, count := 0, pos := 0, vt := t.vt12, landed := 0, ahead := []
                                         stop := none, engine := BitVec.ofNat 2 n }))) ∧
    (encode (.ringHdr f) = some w → st.kind = .ring →
      (∀ h, e.block = some h → exec (.ringHdr f) s = .next (after s ((stepped t).gwrite f.vd h.pack))) ∧
      (e.block = none → e.next = e.total → exec (.ringHdr f) s = .next (after s ((stepped t).gwrite f.vd (BitVec.allOnes 64)))) ∧
      (e.block = none → e.next ≠ e.total → e.state = .broken → e.heads.find? (fun h => h.arrival == e.next) = none →
        exec (.ringHdr f) s = .next (after s ((stepped t).gwrite f.vd 0xFFFFFFFFFFFFFFFE))) ∧
      (∀ h, e.block = none → e.next ≠ e.total → e.heads.find? (fun h => h.arrival == e.next) = some h → e.marked.contains (e.bit e.next) = false →
        exec (.ringHdr f) s = .next (after (s.setRing st.engine.toNat { e with current := true })
          (((stepped t).qwrite f.va.toNat { st with pos := 0 }).gwrite f.vd h.pack)))) ∧
    (encode (.ringDone f) = some w → st.kind = .ring → ∀ h, e.block = some h → e.state = .running → e.next + 1 < e.total →
      let bit := e.bit h.arrival
      let pa := e.paOf (e.done.toNat + bit / 8)
      s.copyMeets pa 1 true = false → PageKept s e (e.done.toNat + bit / 8) true →
      ∃ u : State, exec (.ringDone f) s = .next u ∧ u.cur = { (stepped t).qwrite f.va.toNat { st with pos := 0 } with q := u.cur.q } ∧
        holdsAt s u pa 1 (s.mem.num pa 1 ||| 2 ^ (bit % 8)) ∧
        u.ring st.engine.toNat = { e with
          current := false, next := e.next + 1, heads := e.heads.filter (fun x => x.arrival != h.arrival)
          freed := min (e.next + 1) (if e.toForward ≤ e.forwarded then e.total else e.forwarded) }) ∧
    (encode (.ringStat f) = some w → granted f.va.toNat → exec (.ringStat f) s = .next (after s ((stepped t).gwrite f.vd (s.ring f.va.toNat).stat))) ∧
    (encode (.ringBrk f) = some w → granted f.vd.toNat → let r := s.ring f.vd.toNat
      exec (.ringBrk f) s = .next (after (if r.state = .waiting ∨ r.state = .running then
        s.setRing f.vd.toNat { brokenRing r with local_ := true, link := false } else s) (stepped t)))

/-- The ring engines: their events and the instructions of major 0x22 (R231 to R245, R373, R386), for an engine that runs and whose revolution the
event or instruction does not complete. A handshake with neighbours that agree starts a waiting engine; arrivals land in their slots on the pages
that ring.cfg pinned and are forwarded once the slot downstream is free; breaks and link losses drop all but the current block; over a link that
is down nothing passes. ring.cfg, ring.post, qbind.ring, ring.hdr, ring.done, ring.stat and ring.brk complete with the effect of their rules.
The counts `freed`, that credits count while an engine waits, what the neighbours send, which the event brings, and when A and D of an engine's
pages are set, are the model's (log entry 30). -/
def Obligations.RingEvents : Prop := ringEvents ∧ ringResults

/-! ## Launches, the mailbox, boot and the hub -/

/-- The hub reads 64 bytes for a partition's launch port at `va`, under the layout's translation, and nothing is left to do (R372). -/
def HubReads (s : State) (part va : Nat) (bs : List Byte) : Prop :=
  let u : UnitRun := { s := s, c := s.layoutCtx part, core := false, issuer := none, stop := none }
  u.read64 va = (bs, u)

/-- LAUNCH_PORT_WRITE (R286, R288, R372): a write while one is pending does nothing; a record that breaks R284, or whose graph breaks R288, is reason
7; one that the hub refuses reports R291's reason and node; one that it accepts receives the partition's next number, which the port reports, and a
team that has not started, or one for each node of its graph. LAUNCH_START (R282, R292, R294) places the team of a launch that is not co-resident and may start on slots that fit:
a bind record, not yet valid, for each of its threads that has not exited, under a number that no other team within the hub bears. That the port
decides in the step of the write (R372 has `pend` set until the hub decides), and reports index 0 with reason 7, are the model's readings (log
entry 43). -/
def launchEvents : Prop :=
  (∀ (part : BitVec 6) (record : List Byte) (s : State),
    let p := part.toNat
    let bs := sized 64 record
    let k : LaunchAsk := { part := p, ctx := s.layoutCtx p, record := launchOf bs, graph := none, nodes := [launchOf bs] }
    let reports := fun (u : State) (number reason index : Nat) =>
      ({ part := p, number := number, reason := reason, index := index, pend := false, valid := true } : PortStatus) = u.port p
    ((s.port p).pend = true → exec (.launchPortWrite part record) s = .next s) ∧
    ((s.port p).pend = false → isGraph bs = false → recordBroken bs = true →
      ∃ u : State, exec (.launchPortWrite part record) s = .next u ∧ reports u 0 7 0 ∧ u.launches = s.launches ∧ u.mem = s.mem) ∧
    ((s.port p).pend = false → isGraph bs = false → recordBroken bs = false →
      (∀ reason index, s.refuseLaunch k = .error (reason, index) →
        ∃ u : State, exec (.launchPortWrite part record) s = .next u ∧ reports u 0 reason index ∧ u.launches = s.launches) ∧
      (∀ pages, s.refuseLaunch k = .ok pages →
        ∃ u : State, exec (.launchPortWrite part record) s = .next u ∧ reports u (s.nextLaunch p) 0 0 ∧
          u.nextLaunch p = s.nextLaunch p + 1 ∧ (∃ l : Launch, u.launches = s.launches ++ [l] ∧ l.part = p ∧ l.number = s.nextLaunch p ∧
            l.complete = false))) ∧
    (let at_ := fieldAt bs 0x20 8
     (s.port p).pend = false → isGraph bs = true → ∀ (head : List Byte) (nodes : List (List Byte)), HubReads s p at_ head →
      nodes.length = (if 256 < (graphOf head).count then 0 else (graphOf head).count) →
      (∀ n (h : n < nodes.length), HubReads s p ((graphOf head).nodes + 64 * n) nodes[n]) →
      let broken := recordBroken bs = true ∨ graphBroken head = true ∨ ∃ n, ∃ h : n < nodes.length, nodeBroken n nodes[n] = true
      let k : LaunchAsk :=
        { part := p, ctx := s.layoutCtx p, record := launchOf bs, graph := some (BitVec.ofNat 64 at_, graphOf head), nodes := nodes.map launchOf }
      (broken → ∃ (u : State) (n : Nat), exec (.launchPortWrite part record) s = .next u ∧ reports u 0 7 n ∧ u.launches = s.launches ∧ u.mem = s.mem) ∧
      (¬broken → ∀ reason index, s.refuseLaunch k = .error (reason, index) →
        ∃ u : State, exec (.launchPortWrite part record) s = .next u ∧ reports u 0 reason index ∧ u.launches = s.launches) ∧
      (¬broken → ∀ pages, s.refuseLaunch k = .ok pages →
        ∃ (u : State) (l : Launch), exec (.launchPortWrite part record) s = .next u ∧ reports u (s.nextLaunch p) 0 0 ∧ u.launches = s.launches ++ [l] ∧
          l.part = p ∧ l.number = s.nextLaunch p ∧ l.graph = some (BitVec.ofNat 64 at_) ∧ l.coresident = (graphOf head).coresident ∧
          l.concurrent = (graphOf head).concurrent ∧ l.complete = false ∧
          (u.teams.drop s.teams.length).map (fun x => x.record) = nodes.map launchOf ∧ ∀ x ∈ u.teams.drop s.teams.length, x.started = false))) ∧
  (∀ (team : Nat) (placement : List Nat) (s : State) (t : Team) (l : Launch), s.team team = some t → s.launch t.part t.launch = some l →
    l.coresident = false → s.launchReady l = true → s.nodeReady l t = true → t.ended = false → t.num ∉ s.layout.heldTeams →
    (∀ x ∈ s.threads, x.team ≠ t.num) → placement.length = t.record.threads →
    seatsAgree (s.takenSeats.filter (fun x => x.team != t.num)) (t.seats placement) = true → s.coresFit t placement = true →
    s.teams.length < 2 ^ 16 → placement.length ≤ 4096 →
    ∃ (u : State) (hub : Nat), exec (.launchStart team placement) s = .next u ∧ u.cur = s.cur ∧ u.mem = s.mem ∧
      (∀ x ∈ u.teams, if x.num = t.num then x.started = true ∧ x.placement = placement ∧ x.hub = some hub else x.hub ≠ some hub) ∧
      (∀ n < placement.length, t.exited.getD n false = false → ∃ y ∈ u.binds, y.slot = placement.getD n 0 ∧ y.valid = false ∧ y.exited = false ∧
        y.team.toNat = hub ∧ y.lthread.toNat = n))

/-- spawn (R286, R288, R289, R299): a launch that the hub accepts receives the partition's next number, which g(gd) receives, and a team that has not
started, or one for each node of its graph; one that it refuses traps with 0x4F, the reason and the node in EINFO. -/
def spawnResults : Prop :=
  ∀ (f : FmtSR) (w : BitVec 32) (s : State) (bs head : List Byte) (nodes : List (List Byte)) (k : LaunchAsk), encode (.spawn f) = some w → lone w → Idle s →
    Pushes s (descOf w) w → s.cur.es = 0 → Holds s (s.cur.gread f.ga).toNat 64 64 Need.load bs →
    (if isGraph bs then Holds s (fieldAt bs 0x20 8) 64 64 Need.load head ∧ nodes.length = (graphOf head).count ∧ nodes.length ≤ 256 ∧
        ∀ n (h : n < nodes.length), Holds s ((graphOf head).nodes + 64 * n) 64 64 Need.load nodes[n]
      else head = [] ∧ nodes = []) →
    let t := s.cur
    askOf t.part.toNat t.ctx bs head nodes = .ok k →
    (∀ pages, s.refuseLaunch k = .ok pages → ∃ (u : State) (l : Launch), exec (.spawn f) s = .next u ∧
      u.cur = (stepped t).gwrite f.gd (BitVec.ofNat 64 (s.nextLaunch t.part.toNat)) ∧ u.mem = s.mem ∧ u.launches = s.launches ++ [l] ∧
      l.part = t.part.toNat ∧ l.number = s.nextLaunch t.part.toNat ∧ l.complete = false ∧
      u.nextLaunch t.part.toNat = s.nextLaunch t.part.toNat + 1 ∧
      (u.teams.drop s.teams.length).map (fun x => x.record) = (if isGraph bs then nodes else [bs]).map launchOf ∧
      ∀ x ∈ u.teams.drop s.teams.length, x.started = false) ∧
    (∀ reason index, s.refuseLaunch k = .error (reason, index) → t.busy = false → ∃ u : State, exec (.spawn f) s = .next u ∧
      u.cur.ecause = 0x14F ∧ u.cur.eaddr = t.pc ∧ u.cur.einfo = BitVec.ofNat 64 (reason + 2 ^ 10 * index) ∧ u.cur.pc = t.tvec ∧ u.cur.priv = true ∧
      u.cur.g = t.g ∧ u.launches = s.launches ∧ u.teams = s.teams ∧ u.mem = s.mem)

/-- Launches, from the launch port and from spawn. LAUNCH_PORT_WRITE (R286, R372) and spawn (R299) submit a record, alone or with a graph (R288): at the
port one that breaks R284 or R288 is reason 7, one that the hub refuses gives R291's reason and node (spawn: trap 0x4F), and one that it accepts
receives the partition's next number and a team that has not started, or one for each node of its graph. LAUNCH_START (R282, R292, R294) places a team that may start on slots that fit: a
bind record, not yet valid, for each of its threads that has not exited, under a number that no other team within the hub bears. That the port
decides in the step of the write (R372 has `pend` set until the hub decides), and reports index 0 with reason 7, are the model's readings (log
entry 43). -/
def Obligations.LaunchEvents : Prop := launchEvents ∧ spawnResults

/-- A mailbox request is taken up (R365, R367): nothing is being carried out, the firmware serves, and door, reserved field and length are as
the request asks. -/
structure Accepted (s : State) (d : Doorbell) (len : Nat) : Prop where
  idle : s.mailbox.busy = false
  served : s.served = true
  door : d.door.toNat < 2 ^ 16
  reserved : d.rsv = 0
  length : d.len.toNat = len

/-- What stands after a request (R365, R366): tag, code, length and response, done set, busy clear. -/
def answeredWith (u : State) (d : Doorbell) (code : Nat) (bytes : List Byte) : State :=
  { u with mailbox := { u.mailbox with tag := d.door.setWidth 16, code := BitVec.ofNat 8 code, rlen := BitVec.ofNat 16 bytes.length, busy := false, done := true
                                       response := bytes ++ u.mailbox.response.drop bytes.length } }

/-- The mailbox requests answer (R365 to R367, R370, R374, R377, R379 to R384), each from the bytes of its body: the layout state, which clears
the abandoned mark; a session, which replaces the partition's; an energy reading, whose number rises, and the attestation report, each signed
under the identity key; the enabled units; the event counts; page counters inside the partition's DRAM; a promotion's number, and its
cancelling while queued; the start count cleared; an image chunk stored; an image committed for the next reset, or turned away with 2 where its
digest or signature fails; a launch that does not run, 4; an unknown code, 6.
A layout that fails its checks is answered 2; with no thread bound, a whole commit raises the generation and puts its grants in force, and moves
nothing in memory where no unit is to be removed (R381). While a request is under way every other is ignored. That an image chunk longer than the
staging area is answered 1, after 2, is log entry 13; that the signatures are ML-DSA's, computed here, log entry 12; which launch a tear-down finds
running, and a commit's corners, log entry 45 (the model's readings). -/
def Obligations.MailboxAnswers : Prop :=
  ∀ (d : Doorbell) (s : State),
    let u := fun (code : Nat) => s.ring_ code d
    let bs := fun (n : Nat) => sized n d.body
    let part := fieldAt d.body 0 1
    (s.mailbox.busy = true → ∀ i ∈ [Instr.readLayoutState d, .registerSession d, .energyReading d, .attestation d, .readCounts d,
        .readEnabledUnits d, .configurePageCounters d, .promote d, .cancelPromotion d, .clearStartCount d, .imageChunk d, .commitImage d,
        .tearDownLaunch d, .commitLayout d .whole, .unknownRequestCode 0 d], exec i s = .next s) ∧
    (Accepted s d 0 →
      exec (.readLayoutState d) s = .next (answeredWith { u 2 with layout := { s.layout with abandoned := false } } d 0
        (leBytes 8 s.layout.generation ++ [if s.layout.abandoned then 1 else 0])) ∧
      exec (.readEnabledUnits d) s = .next (answeredWith (u 7) d 0 s.units.map) ∧
      exec (.clearStartCount d) s = .next (answeredWith { u 0x0B with boot := { s.boot with startCount := 0 } } d 0 []) ∧
      (∀ cut, ({ u 1 with units := s.units.retire } : State).checkLayout (u 1).mailbox.staging = none →
        exec (.commitLayout d cut) s = .next (answeredWith (u 1) d 2 (leBytes 8 s.layout.generation))) ∧
      (∀ gs, ({ u 1 with units := s.units.retire } : State).checkLayout (u 1).mailbox.staging = some gs → s.threads = [] →
        ∃ t : State, exec (.commitLayout d .whole) s = .next t ∧ t.layout.generation = s.layout.generation + 1 ∧ t.layout.grants = gs ∧
          t.layout.journal = .committed (s.layout.generation + 1) ∧ t.mailbox.code = 0 ∧ t.mailbox.done = true ∧
          (s.units.removing = [] → t.mem = s.mem))) ∧
    (Accepted s d 3952 → part < 64 → (∀ k < 7, (bs 3952).getD (1 + k) 0 = 0) → s.partition part = true →
      ∃ t : State, exec (.registerSession d) s = .next t ∧ t.mailbox.code = 0 ∧ t.mailbox.done = true ∧
        ∃ k : Session, t.session part = some k ∧ k.tenant = ((bs 3952).drop 8).take 8 ∧ k.model = ((bs 3952).drop 0x10).take 32 ∧
          k.wdigest = ((bs 3952).drop 0x30).take 32 ∧ k.publicKey = ((bs 3952).drop 0x50).take 1312 ∧
          k.privateKey = ((bs 3952).drop 0x570).take 2560) ∧
    (Accepted s d 1 → d.body.length = 1 →
      (part < 64 → s.partition part = true →
        let k := (s.counts.find? (fun c => c.part == part)).getD
          { part := part, corrected := 0, demotions := 0, abandoned := 0, late := 0, overflows := 0, lost := 0 }
        exec (.readCounts d) s = .next (answeredWith (u 6) d 0 (leBytes 8 k.corrected.toNat ++ leBytes 8 k.demotions.toNat ++
          leBytes 8 k.abandoned.toNat ++ leBytes 8 k.late.toNat ++ leBytes 8 k.overflows.toNat ++ leBytes 8 k.lost.toNat))) ∧
      (∀ a, ((part < 64 ∧ s.partition part = true) ∨ part = 255) → s.accounts.find? (fun x => x.id == part) = some a →
        ∃ random : List Byte, exec (.energyReading d) s = .next (answeredWith { u 4 with
          tick := s.tick + 1, accounts := s.accounts.map (fun x => if x.id = part then { x with readings := x.readings + 1 } else x) } d 0
          (a.record ++ MlDsa.sign Config.identityKey a.record random)))) ∧
    (Accepted s d 32 →
      (∃ random : List Byte, exec (.attestation d) s = .next (answeredWith { u 5 with tick := s.tick + 1 } d 0
        (s.report (bs 32) ++ MlDsa.sign Config.identityKey (s.report (bs 32)) random))) ∧
      (let image := s.boot.store.bytes 0 s.boot.length
       exec (.commitImage d) s = .next (
        if sha3 image = bs 32 ∧ MlDsa.verify Config.imageKey (bs 32) (Config.imageSignature image) = true then
          answeredWith { u 0x0D with boot := { s.boot with pending := some image, length := 0 } } d 0 []
        else answeredWith (u 0x0D) d 2 []))) ∧
    (Accepted s d 24 → part < 64 → fieldAt (bs 24) 1 1 = 0 → 0 < fieldAt (bs 24) 2 2 → fieldAt (bs 24) 4 4 = 0 → fieldAt (bs 24) 8 8 % 65536 = 0 →
      fieldAt (bs 24) 16 8 % 8 = 0 → s.partition part = true → s.inDram part (fieldAt (bs 24) 8 8) 65536 = true →
      s.inDram part (fieldAt (bs 24) 16 8) 8 = true →
      exec (.configurePageCounters d) s = .next (answeredWith { u 8 with
        pageQueues := { part := part, threshold := fieldAt (bs 24) 2 2, queue := fieldAt (bs 24) 8 8, tail := fieldAt (bs 24) 16 8, written := 0 } ::
          s.pageQueues.filter (fun x => x.part != part) } d 0 [])) ∧
    (Accepted s d 16 → part < 64 → fieldAt (bs 16) 1 1 < 8 → fieldAt (bs 16) 2 6 = 0 → fieldAt (bs 16) 8 8 < 2 ^ 36 → s.partition part = true →
      s.inDram part (4096 * fieldAt (bs 16) 8 8) 4096 = true →
      exec (.promote d) s = .next (answeredWith { u 9 with
        promotions := s.promotions ++ [{ number := s.nextPromotion, part := part, frame := fieldAt (bs 16) 8 8, target := fieldAt (bs 16) 1 1
                                         state := .queued }]
        nextPromotion := s.nextPromotion + 1 } d 0 (leBytes 8 s.nextPromotion))) ∧
    (Accepted s d 8 →
      (∀ p, s.promotions.find? (fun p => p.number == fieldAt (bs 8) 0 8) = some p →
        (p.state = .queued → exec (.cancelPromotion d) s = .next (answeredWith { u 0x0A with
          promotions := s.promotions.map (fun x => if x.number = p.number then { x with state := .cancelled } else x) } d 0 [])) ∧
        (p.state = .started → exec (.cancelPromotion d) s = .next (answeredWith (u 0x0A) d 5 [])) ∧
        (p.state = .finished ∨ p.state = .cancelled → exec (.cancelPromotion d) s = .next (answeredWith (u 0x0A) d 4 []))) ∧
      (let off := fieldAt (bs 8) 0 4
       let n := fieldAt (bs 8) 4 4
       (2 ^ 22 < off + n → exec (.imageChunk d) s = .next (answeredWith (u 0x0C) d 2 [])) ∧
       (off + n ≤ 2 ^ 22 → 49152 < n → exec (.imageChunk d) s = .next (answeredWith (u 0x0C) d 1 [])) ∧
       (n ≤ 49152 → off + n ≤ 2 ^ 22 → exec (.imageChunk d) s = .next (answeredWith { u 0x0C with
          boot := { s.boot with store := s.boot.store.write off (sized n ((u 0x0C).mailbox.staging.take n)), length := max s.boot.length (off + n) } }
          d 0 []))) ∧
      (fieldAt (bs 8) 0 1 < 64 → fieldAt (bs 8) 1 3 = 0 → s.launch (fieldAt (bs 8) 0 1) (fieldAt (bs 8) 4 4) = none →
        exec (.tearDownLaunch d) s = .next (answeredWith (u 0x0E) d 4 [])) ∧
      (fieldAt (bs 8) 0 1 < 64 → fieldAt (bs 8) 1 3 = 0 → ∀ l, s.launch (fieldAt (bs 8) 0 1) (fieldAt (bs 8) 4 4) = some l →
        l.complete = false → (∃ x ∈ s.teamsOf l, x.started = true) →
        ∃ t : State, exec (.tearDownLaunch d) s = .next t ∧ t.mailbox.code = 0 ∧ t.mailbox.done = true ∧
          (∀ x ∈ t.launches, x.part = l.part → x.number = l.number → x.complete = true ∧ x.torn = true) ∧
          (∀ x ∈ t.threads, ∀ y ∈ s.teamsOf l, x.team ≠ y.num))) ∧
    (∀ code : BitVec 16, code = 0 ∨ 14 < code.toNat → Accepted s d d.len.toNat →
      exec (.unknownRequestCode code d) s = .next (answeredWith (u code.toNat) d 6 []))

/-- Boot (R379, R374, R376, R378). POWER_UP counts the start in readable storage, and enters minimal mode at a count of 3; FIRMWARE_READY of
firmware that runs returns the count to 0. A reset of the package and a loss of power leave the state after reset but for what survives:
retention storage, image, journal, units and the accounts, each of which a loss of power moves to class 2; memory survives a reset and not a
loss of power. The watchdog counts a start, abandons a prepared commit, with the old grants active again where every island had flipped, and leaves
the memory as it is, and otherwise the threads too unless its count enters minimal mode, with the tracts in reset; its firmware runs the image that
the ROM accepted. -/
def Obligations.BootEvents : Prop :=
  (∀ (b : BootInput) (s : State), s.boot.powered = false →
    ∃ u : State, exec (.powerUp b) s = .next u ∧ u.boot.powered = true ∧ u.boot.ready = false ∧ u.mem = s.mem ∧ u.boot.pending = s.boot.pending ∧
      u.boot.startCount = (if b.storageReadable then s.boot.startCount + 1 else s.boot.startCount) ∧
      (u.boot.minimal.isSome = true ↔ b.storageReadable = false ∨ 3 ≤ s.boot.startCount + 1) ∧
      (b.storageReadable = false → u.boot.minimal = some 4) ∧ (b.storageReadable = true → b.trained = false → u.boot.running = false) ∧ (u.boot.minimal.isSome = true → u.boot.running = false)) ∧
  (∀ s : State, (s.boot.running = true → s.boot.minimal = none →
      exec .firmwareReady s = .next { s with boot := { s.boot with ready := true, startCount := 0 } }) ∧
    (s.boot.running = false ∨ s.boot.minimal ≠ none → exec .firmwareReady s = .next s)) ∧
  (∀ s : State, s.boot.powered = true →
    (∃ u : State, exec .powerLoss s = .next u ∧ u.cur = State.reset.cur ∧ u.others = [] ∧ u.mem.cells = [] ∧ u.boot.powered = false ∧
      u.boot.startCount = s.boot.startCount ∧ u.boot.store = s.boot.store ∧ u.layout.generation = s.layout.generation ∧
      u.layout.journal = s.layout.journal ∧ u.units = s.units ∧ u.accounts = s.accounts.map (fun a => { a with cls := 2, gap := a.gap + 2730000 })) ∧
    (∀ m : EnergyMeasure, ∃ u : State, exec (.packageReset m) s = .next u ∧ u.cur = State.reset.cur ∧ u.others = [] ∧ u.mem = s.mem ∧
      u.boot.powered = false ∧ u.boot.startCount = s.boot.startCount ∧ u.layout.generation = s.layout.generation ∧ u.units = s.units) ∧
    (∀ m : EnergyMeasure, ∃ u : State, exec (.watchdogReset m) s = .next u ∧ u.mem = s.mem ∧ u.boot.startCount = s.boot.startCount + 1 ∧
      (s.boot.minimal ≠ none ∨ s.boot.startCount + 1 < 3 → u.boot.minimal = s.boot.minimal ∧
        (s.layout.flipped < 512 → u.cur = s.cur ∧ u.others = s.others)) ∧
      (s.boot.minimal ≠ none ∨ s.boot.startCount + 1 < 3 → 512 ≤ s.layout.flipped → ∀ g old, s.layout.journal = .prepared g → s.layout.shadow = some old →
        u.layout.grants = old) ∧
      (s.boot.minimal = none → u.boot.ready = false ∧ (s.boot.startCount + 1 < 3 → u.boot.running = s.boot.refused.isNone) ∧
        (3 ≤ s.boot.startCount + 1 → u.cur = State.reset.cur ∧ u.others = [] ∧ u.boot.running = false ∧
          u.boot.minimal = some (s.boot.refused.getD 2))) ∧ u.layout.generation = s.layout.generation ∧ u.layout.shadow =
        (match s.layout.journal with | .prepared _ => none | _ => s.layout.shadow) ∧
      (∀ g, s.layout.journal = .prepared g → u.layout.abandoned = true ∧ u.layout.journal = .committed s.layout.generation)))

/-- What an account bears of an interval's energy in a category (R376). -/
def borne (gs : List Grant) (m : EnergyMeasure) (id cat : Nat) : Nat :=
  (((m.islands.flatMap (IslandMeasure.shares gs)).filter (fun x => x.1 = id ∧ x.2.1 = cat)).map (fun x => x.2.2)).sum

/-- The categories in which an island's energy is borne (R376). -/
def categories : IslandKind → List Nat
  | .core => [0, 1, 6]
  | .vault => [2]
  | .llc => [3, 6]
  | .fabric => [4, 6]
  | .dram => [5, 6]
  | .hub => [7]

/-- Whether an address lies in a notification queue or its tail doubleword (R383). -/
def inQueues (s : State) (a : Nat) : Prop := ∃ q ∈ s.pageQueues, (q.queue ≤ a ∧ a < q.queue + 65536) ∨ (q.tail ≤ a ∧ a < q.tail + 8)

/-- The hub's other events. The host reads and writes the frames that a process was granted, by physical address, in the requests of R371, and
reads a launch port's status, the mailbox's status and response and the boot status (R364 to R366); a record written to a port is a launch, and
a doorbell takes up the request in the buffer. Energy is borne in the categories of its island, all of it, and by the owner of an island that
owns it whole (R376); islands count on (R375). A lane group with an uncorrected error, or 16 corrected ones in 1,024 intervals, leaves service (R77,
R381). So does a unit, with the next layout where its data can be read, else at once: its holders hear of it, and a tract takes the launches with
it that have a thread on its cores (R12, R381). A queued promotion starts, and completes into a frame that is free, whose bytes are then those of
the old frame (R384). In minimal mode the firmware does none of this (R379). The model's readings: the layout of the boot status (log entry 63), what
an island's number names and where energy without counts goes (log entry 62), which frames stay where they are in a promotion (log entry 17). -/
def Obligations.HubEvents : Prop :=
  (∀ (cls : HostClass) (offset n : Nat) (s : State), cls ≠ .orderedWrite →
    (∀ part : BitVec 6, s.inDram part.toNat offset n = true →
      ∃ u : State, exec (.hostMemoryRead cls ⟨.memory part, offset⟩ n) s = .next u ∧ u.hostRead = s.read offset n ∧ u.cur = s.cur ∧
        (∀ a, ¬ inQueues s a → u.mem.get a = s.mem.get a)) ∧
    (∀ part : BitVec 6, exec (.hostMemoryRead cls ⟨.ports, 4096 * part.toNat + 64⟩ 8) s =
      .next { s with hostRead := leBytes 8 (s.port part.toNat).word.toNat }) ∧
    exec (.hostMemoryRead cls ⟨.mailbox, 0x2008⟩ 8) s = .next { s with hostRead := leBytes 8 s.mailbox.status.toNat } ∧
    (n ≤ 4096 → exec (.hostMemoryRead cls ⟨.mailbox, 0x1000⟩ n) s = .next { s with hostRead := (sized 4096 s.mailbox.response).take n }) ∧
    exec (.hostMemoryRead cls ⟨.boot, 0⟩ 16) s =
      .next { s with hostRead := leBytes 8 s.boot.startCount ++ leBytes 8 ((s.boot.minimal.map (·.toNat)).getD 0) }) ∧
  (∀ (cls : HostClass) (offset : Nat) (bytes : List Byte) (s : State), cls ≠ .orderedRead → wellFormed s →
    (∀ part : BitVec 6, s.inDram part.toNat offset bytes.length = true →
      ∃ u : State, exec (.hostMemoryWrite cls ⟨.memory part, offset⟩ bytes) s = .next u ∧ u.cur = s.cur ∧
        (∀ k < bytes.length, ¬ inQueues s (offset + k) → u.mem.get (offset + k) = bytes.getD k 0) ∧
        (∀ a, a < offset ∨ offset + bytes.length ≤ a → ¬ inQueues s a → u.mem.get a = s.mem.get a)) ∧
    (∀ part : BitVec 6, bytes.length = 64 →
      exec (.hostMemoryWrite .orderedWrite ⟨.ports, 4096 * part.toNat⟩ bytes) s = exec (.launchPortWrite part bytes) s) ∧
    (offset + bytes.length ≤ 4096 → ∃ u : State, exec (.hostMemoryWrite cls ⟨.mailbox, offset⟩ bytes) s = .next u ∧
      u = { s with mailbox := { s.mailbox with request := u.mailbox.request } } ∧ (u.mailbox.request.drop offset).take bytes.length = bytes) ∧
    (∀ tag : Word, fieldAt (sized 4096 s.mailbox.request) 0 2 = 7 →
      exec (.hostMemoryWrite .orderedWrite ⟨.mailbox, 0x2000⟩ (leBytes 8 tag.toNat)) s = exec (.readEnabledUnits
        { door := tag, len := BitVec.ofNat 16 (fieldAt (sized 4096 s.mailbox.request) 2 2)
          rsv := BitVec.ofNat 32 (fieldAt (sized 4096 s.mailbox.request) 4 4)
          body := (sized 4096 s.mailbox.request).drop 8, staging := s.mailbox.staging }) s) ∧
    exec (.hostMemoryWrite cls ⟨.boot, offset⟩ bytes) s = .next s) ∧
  (∀ (m : EnergyMeasure) (s : State),
    ∃ u : State, exec (.energyAttribution m) s = .next u ∧ u.cur = s.cur ∧ u.mem = s.mem ∧
      u.layout = { s.layout with energyGen := s.layout.generation, energyGrants := s.layout.grants } ∧
      u.accounts = s.accounts.map (fun a => { a with
        cats := (List.range 8).map (fun c => (a.cats.getD c 0 + borne s.layout.energyGrants m a.id c) % 2 ^ 64), gen := s.layout.energyGen }) ∧
      ((m.islands.map (·.id)).Nodup → ∀ x ∈ m.islands,
        let old := (s.islands.find? (fun i => i.id == x.id)).getD { id := x.id, cycles := 0, energy := 0 }
        { old with cycles := old.cycles + BitVec.ofNat 64 x.cycles, energy := old.energy + x.dynamic + x.idle } ∈ u.islands)) ∧
  (∀ (gs : List Grant) (x : IslandMeasure),
    ((IslandMeasure.shares gs x).map (fun y => y.2.2)).sum = x.dynamic + x.idle ∧ (∀ y ∈ IslandMeasure.shares gs x, y.2.1 ∈ categories (islandOf x.id).1) ∧
    (∀ n p, islandOf x.id = (.core, n) → islandOwner gs n = some p → IslandMeasure.shares gs x = [(p, 0, x.dynamic + x.idle)])) ∧
  (∀ (core lg : Nat) (uncorrected : Bool) (s : State), core < 1024 → lg < 8 →
    (s.served = true → uncorrected = true ∨ 16 ≤ s.units.recent (.laneGroup core lg) →
      ∃ off : List (Nat × Nat), (∀ x, x ∈ off ↔ x = (core, lg) ∨ x ∈ s.units.lanesOff) ∧
        exec (.laneGroupDisable core lg uncorrected) s = .next { s with units := { s.units with lanesOff := off } }) ∧
    (uncorrected = false → s.units.recent (.laneGroup core lg) < 16 → exec (.laneGroupDisable core lg uncorrected) s = .next s)) ∧
  (∀ (x : ServiceUnit) (s : State),
    let waits : State := { s with units := { s.units with removing := s.units.removing ++ [x] } }
    (s.served = false → ∀ why, exec (.unitRemoval x why) s = .next s) ∧
    (s.served = true → exec (.unitRemoval x .uncorrected) s = .next waits) ∧
    (s.served = true → (∃ c ∈ countedIn x, 16 ≤ s.units.recent c) → exec (.unitRemoval x .corrected) s = .next waits) ∧
    ((∀ c ∈ countedIn x, s.units.recent c < 16) → exec (.unitRemoval x .corrected) s = .next s) ∧
    (s.served = true → ∃ u : State, exec (.unitRemoval x .unreadable) s = .next u ∧ u.units.removing = s.units.removing ∧
      u.reports = s.reports ++ (s.holders x).map (fun p => (p, x)) ∧
      (match x with
       | .vault n => n ∈ u.units.vaultsOff ∧ u.mem = s.mem ∧ u.cur = s.cur
       | .channel n => n ∈ u.units.channelsOff ∧ u.mem = s.mem ∧ u.cur = s.cur
       | .slice n => n ∈ u.units.slicesOff ∧ u.mem = s.mem ∧ u.cur = s.cur
       | .tract n => n ∈ u.units.tractsOff ∧ ∀ t ∈ s.threads, coreOf t.slot / 128 = n → ∀ m l, s.team t.team = some m →
           s.launch m.part m.launch = some l →
           ∀ y ∈ u.launches, y.part = l.part → y.number = l.number → y.complete = true ∧ y.torn = true))) ∧
  (∀ (number target : Nat) (s : State) (p : Promotion), s.promotions.find? (fun x => x.number == number) = some p →
    let set := fun (l : List Promotion) (x : PromotionState) => l.map (fun p => if p.number = number then { p with state := x } else p)
    (s.served = false → exec (.pagePromotion number target) s = .next s) ∧
    (s.served = true → p.state = .queued → exec (.pagePromotion number target) s = .next { s with promotions := set s.promotions .started }) ∧
    (s.served = true → p.state = .started → wellFormed s → s.frameStays p.part p.frame = false → s.frameFree p.part target p.target = true →
      ∃ u : State, exec (.pagePromotion number target) s = .next u ∧ u.promotions = set s.promotions .finished ∧
        (∀ k < 4096, u.mem.get (4096 * target + k) = s.mem.get (4096 * p.frame + k)) ∧
        (∀ a, a / 4096 ≠ target → s.tablesMeet p.part (a / 4096 * 4096) 4096 = false → u.mem.get a = s.mem.get a)) ∧
    (p.state = .started → s.frameStays p.part p.frame = true → exec (.pagePromotion number target) s = .next s) ∧
    (p.state = .finished ∨ p.state = .cancelled → exec (.pagePromotion number target) s = .next s))

/-! ## The whole machine -/

/-- Right after reset (R67, R78, R243, R283, R305, R372): no thread is bound, nothing is queued, and of the registers of a thread's start VT has
ILL set, VL is 0, the streams are unbound, the mode is user, DIRTY says that every register may have been written; the ring engines are not
configured, no launch port is pending, and no byte of memory is listed. -/
def Obligations.ResetValues : Prop :=
  let s := State.reset
  let t := s.cur
  t.status = .unbound ∧ s.others = [] ∧ t.queue = [] ∧ t.vt = 0x1000 ∧ t.vl = 0 ∧ t.es = 0 ∧ (∀ q, (t.qread q).kind = .unbound) ∧
  t.priv = false ∧ t.busy = false ∧ t.fflags = 0 ∧ t.fen = 0 ∧ t.frm = 0 ∧ t.dirty = 0x000FFFFEFFFFFFFF ∧ (∀ r, t.gread r = 0) ∧
  (∀ r, (s.ring r).state = .unconfigured) ∧ (∀ p, (s.port p).pend = false) ∧ s.mem.cells = [] ∧ wellFormed s

/-- Every step keeps memory in its canonical form: addresses strictly rising, no byte listed that reads as it would unlisted. -/
def Obligations.MemoryStaysCanonical : Prop := ∀ s t : State, wellFormed s → step s = .next t → wellFormed t

/-- No instruction of a thread in user mode changes a privileged register but through a trap's entry (R48, R66, R305, R308): TVEC, PTB, KEYDEF,
PART, its colour, HSAVE0 and HSAVE1 keep their values, and the thread stays in user mode or stands at its handler with ppriv clear. -/
def Obligations.UserKeepsPrivileged : Prop :=
  ∀ (i : Instr) (w : BitVec 32) (s t : State), encode i = some w → s.cur.priv = false → exec i s = .next t →
    t.cur.tvec = s.cur.tvec ∧ t.cur.ptb = s.cur.ptb ∧ t.cur.keydef = s.cur.keydef ∧ t.cur.part = s.cur.part ∧ t.cur.colour = s.cur.colour ∧
    t.cur.hsave0 = s.cur.hsave0 ∧ t.cur.hsave1 = s.cur.hsave1 ∧
    (t.cur.priv = false ∨ (t.cur.ppriv = false ∧ t.cur.busy = true ∧ t.cur.pc = s.cur.tvec))
end

