-- ==== Sys2Proof/Laws/State.lean ====
section
/-!
SUPPORT. What each named update of the state leaves: one lemma for each field and update, so that no later proof unfolds a record
update.
-/
namespace Sys2Proof.Machine

/-! ## A change of the current thread -/

@[simp] theorem State.mod_cur (s : State) (f : Thread → Thread) : (s.mod f).cur = f s.cur := rfl
@[simp] theorem State.mod_others (s : State) (f : Thread → Thread) : (s.mod f).others = s.others := rfl
@[simp] theorem State.mod_mem (s : State) (f : Thread → Thread) : (s.mod f).mem = s.mem := rfl
@[simp] theorem State.mod_poison (s : State) (f : Thread → Thread) : (s.mod f).poison = s.poison := rfl
@[simp] theorem State.mod_badBytes (s : State) (f : Thread → Thread) : (s.mod f).badBytes = s.badBytes := rfl
@[simp] theorem State.mod_wild (s : State) (f : Thread → Thread) : (s.mod f).wild = s.wild := rfl
@[simp] theorem State.mod_sizes (s : State) (f : Thread → Thread) : (s.mod f).sizes = s.sizes := rfl
@[simp] theorem State.mod_lines (s : State) (f : Thread → Thread) : (s.mod f).lines = s.lines := rfl
@[simp] theorem State.mod_strong (s : State) (f : Thread → Thread) : (s.mod f).strong = s.strong := rfl
@[simp] theorem State.mod_tlb (s : State) (f : Thread → Thread) : (s.mod f).tlb = s.tlb := rfl
@[simp] theorem State.mod_barriers (s : State) (f : Thread → Thread) : (s.mod f).barriers = s.barriers := rfl
@[simp] theorem State.mod_copies (s : State) (f : Thread → Thread) : (s.mod f).copies = s.copies := rfl
@[simp] theorem State.mod_seals (s : State) (f : Thread → Thread) : (s.mod f).seals = s.seals := rfl
@[simp] theorem State.mod_nextOp (s : State) (f : Thread → Thread) : (s.mod f).nextOp = s.nextOp := rfl
@[simp] theorem State.mod_rings (s : State) (f : Thread → Thread) : (s.mod f).rings = s.rings := rfl
@[simp] theorem State.mod_linkUp (s : State) (f : Thread → Thread) : (s.mod f).linkUp = s.linkUp := rfl
@[simp] theorem State.mod_binds (s : State) (f : Thread → Thread) : (s.mod f).binds = s.binds := rfl
@[simp] theorem State.mod_teams (s : State) (f : Thread → Thread) : (s.mod f).teams = s.teams := rfl
@[simp] theorem State.mod_launches (s : State) (f : Thread → Thread) : (s.mod f).launches = s.launches := rfl
@[simp] theorem State.mod_launchNumbers (s : State) (f : Thread → Thread) : (s.mod f).launchNumbers = s.launchNumbers := rfl
@[simp] theorem State.mod_ports (s : State) (f : Thread → Thread) : (s.mod f).ports = s.ports := rfl
@[simp] theorem State.mod_layout (s : State) (f : Thread → Thread) : (s.mod f).layout = s.layout := rfl
@[simp] theorem State.mod_keys (s : State) (f : Thread → Thread) : (s.mod f).keys = s.keys := rfl
@[simp] theorem State.mod_mailbox (s : State) (f : Thread → Thread) : (s.mod f).mailbox = s.mailbox := rfl
@[simp] theorem State.mod_sessions (s : State) (f : Thread → Thread) : (s.mod f).sessions = s.sessions := rfl
@[simp] theorem State.mod_accounts (s : State) (f : Thread → Thread) : (s.mod f).accounts = s.accounts := rfl
@[simp] theorem State.mod_counts (s : State) (f : Thread → Thread) : (s.mod f).counts = s.counts := rfl
@[simp] theorem State.mod_pageCounters (s : State) (f : Thread → Thread) : (s.mod f).pageCounters = s.pageCounters := rfl
@[simp] theorem State.mod_pageQueues (s : State) (f : Thread → Thread) : (s.mod f).pageQueues = s.pageQueues := rfl
@[simp] theorem State.mod_promotions (s : State) (f : Thread → Thread) : (s.mod f).promotions = s.promotions := rfl
@[simp] theorem State.mod_nextPromotion (s : State) (f : Thread → Thread) : (s.mod f).nextPromotion = s.nextPromotion := rfl
@[simp] theorem State.mod_boot (s : State) (f : Thread → Thread) : (s.mod f).boot = s.boot := rfl
@[simp] theorem State.mod_units (s : State) (f : Thread → Thread) : (s.mod f).units = s.units := rfl
@[simp] theorem State.mod_islands (s : State) (f : Thread → Thread) : (s.mod f).islands = s.islands := rfl
@[simp] theorem State.mod_reports (s : State) (f : Thread → Thread) : (s.mod f).reports = s.reports := rfl
@[simp] theorem State.mod_hostRead (s : State) (f : Thread → Thread) : (s.mod f).hostRead = s.hostRead := rfl
@[simp] theorem State.mod_agenda (s : State) (f : Thread → Thread) : (s.mod f).agenda = s.agenda := rfl
@[simp] theorem State.mod_pace (s : State) (f : Thread → Thread) : (s.mod f).pace = s.pace := rfl
@[simp] theorem State.mod_tick (s : State) (f : Thread → Thread) : (s.mod f).tick = s.tick := rfl

/-! ## Going on to the next word -/

@[simp] theorem Thread.next_pc (t : Thread) : t.next.pc = t.pc + 4 := rfl
@[simp] theorem Thread.next_status (t : Thread) : t.next.status = t.status := rfl
@[simp] theorem Thread.next_part (t : Thread) : t.next.part = t.part := rfl
@[simp] theorem Thread.next_team (t : Thread) : t.next.team = t.team := rfl
@[simp] theorem Thread.next_lthread (t : Thread) : t.next.lthread = t.lthread := rfl
@[simp] theorem Thread.next_slot (t : Thread) : t.next.slot = t.slot := rfl
@[simp] theorem Thread.next_pipes (t : Thread) : t.next.pipes = t.pipes := rfl
@[simp] theorem Thread.next_lg (t : Thread) : t.next.lg = t.lg := rfl
@[simp] theorem Thread.next_laneSet (t : Thread) : t.next.laneSet = t.laneSet := rfl
@[simp] theorem Thread.next_g (t : Thread) : t.next.g = t.g := rfl
@[simp] theorem Thread.next_v (t : Thread) : t.next.v = t.v := rfl
@[simp] theorem Thread.next_bad (t : Thread) : t.next.bad = t.bad := rfl
@[simp] theorem Thread.next_side (t : Thread) : t.next.side = t.side := rfl
@[simp] theorem Thread.next_sideBad (t : Thread) : t.next.sideBad = t.sideBad := rfl
@[simp] theorem Thread.next_p (t : Thread) : t.next.p = t.p := rfl
@[simp] theorem Thread.next_q (t : Thread) : t.next.q = t.q := rfl
@[simp] theorem Thread.next_h (t : Thread) : t.next.h = t.h := rfl
@[simp] theorem Thread.next_hill (t : Thread) : t.next.hill = t.hill := rfl
@[simp] theorem Thread.next_k (t : Thread) : t.next.k = t.k := rfl
@[simp] theorem Thread.next_vl (t : Thread) : t.next.vl = t.vl := rfl
@[simp] theorem Thread.next_vt (t : Thread) : t.next.vt = t.vt := rfl
@[simp] theorem Thread.next_es (t : Thread) : t.next.es = t.es := rfl
@[simp] theorem Thread.next_trc (t : Thread) : t.next.trc = t.trc := rfl
@[simp] theorem Thread.next_tra (t : Thread) : t.next.tra = t.tra := rfl
@[simp] theorem Thread.next_rowp (t : Thread) : t.next.rowp = t.rowp := rfl
@[simp] theorem Thread.next_trl (t : Thread) : t.next.trl = t.trl := rfl
@[simp] theorem Thread.next_fflags (t : Thread) : t.next.fflags = t.fflags := rfl
@[simp] theorem Thread.next_fen (t : Thread) : t.next.fen = t.fen := rfl
@[simp] theorem Thread.next_frm (t : Thread) : t.next.frm = t.frm := rfl
@[simp] theorem Thread.next_fx (t : Thread) : t.next.fx = t.fx := rfl
@[simp] theorem Thread.next_moved (t : Thread) : t.next.moved = t.moved := rfl
@[simp] theorem Thread.next_amode (t : Thread) : t.next.amode = t.amode := rfl
@[simp] theorem Thread.next_tvec (t : Thread) : t.next.tvec = t.tvec := rfl
@[simp] theorem Thread.next_epc (t : Thread) : t.next.epc = t.epc := rfl
@[simp] theorem Thread.next_ecause (t : Thread) : t.next.ecause = t.ecause := rfl
@[simp] theorem Thread.next_eaddr (t : Thread) : t.next.eaddr = t.eaddr := rfl
@[simp] theorem Thread.next_einfo (t : Thread) : t.next.einfo = t.einfo := rfl
@[simp] theorem Thread.next_priv (t : Thread) : t.next.priv = t.priv := rfl
@[simp] theorem Thread.next_ppriv (t : Thread) : t.next.ppriv = t.ppriv := rfl
@[simp] theorem Thread.next_busy (t : Thread) : t.next.busy = t.busy := rfl
@[simp] theorem Thread.next_ptb (t : Thread) : t.next.ptb = t.ptb := rfl
@[simp] theorem Thread.next_colour (t : Thread) : t.next.colour = t.colour := rfl
@[simp] theorem Thread.next_keydef (t : Thread) : t.next.keydef = t.keydef := rfl
@[simp] theorem Thread.next_dirty (t : Thread) : t.next.dirty = t.dirty := rfl
@[simp] theorem Thread.next_hsave0 (t : Thread) : t.next.hsave0 = t.hsave0 := rfl
@[simp] theorem Thread.next_hsave1 (t : Thread) : t.next.hsave1 = t.hsave1 := rfl
@[simp] theorem Thread.next_queue (t : Thread) : t.next.queue = t.queue := rfl
@[simp] theorem Thread.next_seq (t : Thread) : t.next.seq = t.seq := rfl
@[simp] theorem Thread.next_nextSlot (t : Thread) : t.next.nextSlot = t.nextSlot := rfl
@[simp] theorem Thread.next_epoch (t : Thread) : t.next.epoch = t.epoch := rfl
@[simp] theorem Thread.next_epochs (t : Thread) : t.next.epochs = t.epochs := rfl
@[simp] theorem Thread.next_tokens (t : Thread) : t.next.tokens = t.tokens := rfl
@[simp] theorem Thread.next_dlen (t : Thread) : t.next.dlen = t.dlen := rfl
@[simp] theorem Thread.next_fetched (t : Thread) : t.next.fetched = t.fetched := rfl
@[simp] theorem Thread.next_asleep (t : Thread) : t.next.asleep = t.asleep := rfl
@[simp] theorem Thread.next_woken (t : Thread) : t.next.woken = t.woken := rfl
@[simp] theorem Thread.next_syncing (t : Thread) : t.next.syncing = t.syncing := rfl
@[simp] theorem Thread.next_released (t : Thread) : t.next.released = t.released := rfl
@[simp] theorem Thread.next_stuck (t : Thread) : t.next.stuck = t.stuck := rfl
@[simp] theorem Thread.next_residue (t : Thread) : t.next.residue = t.residue := rfl
@[simp] theorem Thread.next_progress (t : Thread) : t.next.progress = t.progress := rfl


/-! ## A write of a scalar register (R52) -/

@[simp] theorem Thread.gwrite_status (t : Thread) (r : BitVec 5) (x : Word) : (t.gwrite r x).status = t.status := by
  unfold Thread.gwrite; split <;> rfl
@[simp] theorem Thread.gwrite_part (t : Thread) (r : BitVec 5) (x : Word) : (t.gwrite r x).part = t.part := by
  unfold Thread.gwrite; split <;> rfl
@[simp] theorem Thread.gwrite_team (t : Thread) (r : BitVec 5) (x : Word) : (t.gwrite r x).team = t.team := by
  unfold Thread.gwrite; split <;> rfl
@[simp] theorem Thread.gwrite_lthread (t : Thread) (r : BitVec 5) (x : Word) : (t.gwrite r x).lthread = t.lthread := by
  unfold Thread.gwrite; split <;> rfl
@[simp] theorem Thread.gwrite_slot (t : Thread) (r : BitVec 5) (x : Word) : (t.gwrite r x).slot = t.slot := by
  unfold Thread.gwrite; split <;> rfl
@[simp] theorem Thread.gwrite_pipes (t : Thread) (r : BitVec 5) (x : Word) : (t.gwrite r x).pipes = t.pipes := by
  unfold Thread.gwrite; split <;> rfl
@[simp] theorem Thread.gwrite_lg (t : Thread) (r : BitVec 5) (x : Word) : (t.gwrite r x).lg = t.lg := by
  unfold Thread.gwrite; split <;> rfl
@[simp] theorem Thread.gwrite_laneSet (t : Thread) (r : BitVec 5) (x : Word) : (t.gwrite r x).laneSet = t.laneSet := by
  unfold Thread.gwrite; split <;> rfl
@[simp] theorem Thread.gwrite_pc (t : Thread) (r : BitVec 5) (x : Word) : (t.gwrite r x).pc = t.pc := by
  unfold Thread.gwrite; split <;> rfl
@[simp] theorem Thread.gwrite_v (t : Thread) (r : BitVec 5) (x : Word) : (t.gwrite r x).v = t.v := by
  unfold Thread.gwrite; split <;> rfl
@[simp] theorem Thread.gwrite_bad (t : Thread) (r : BitVec 5) (x : Word) : (t.gwrite r x).bad = t.bad := by
  unfold Thread.gwrite; split <;> rfl
@[simp] theorem Thread.gwrite_side (t : Thread) (r : BitVec 5) (x : Word) : (t.gwrite r x).side = t.side := by
  unfold Thread.gwrite; split <;> rfl
@[simp] theorem Thread.gwrite_sideBad (t : Thread) (r : BitVec 5) (x : Word) : (t.gwrite r x).sideBad = t.sideBad := by
  unfold Thread.gwrite; split <;> rfl
@[simp] theorem Thread.gwrite_p (t : Thread) (r : BitVec 5) (x : Word) : (t.gwrite r x).p = t.p := by
  unfold Thread.gwrite; split <;> rfl
@[simp] theorem Thread.gwrite_q (t : Thread) (r : BitVec 5) (x : Word) : (t.gwrite r x).q = t.q := by
  unfold Thread.gwrite; split <;> rfl
@[simp] theorem Thread.gwrite_h (t : Thread) (r : BitVec 5) (x : Word) : (t.gwrite r x).h = t.h := by
  unfold Thread.gwrite; split <;> rfl
@[simp] theorem Thread.gwrite_hill (t : Thread) (r : BitVec 5) (x : Word) : (t.gwrite r x).hill = t.hill := by
  unfold Thread.gwrite; split <;> rfl
@[simp] theorem Thread.gwrite_k (t : Thread) (r : BitVec 5) (x : Word) : (t.gwrite r x).k = t.k := by
  unfold Thread.gwrite; split <;> rfl
@[simp] theorem Thread.gwrite_vl (t : Thread) (r : BitVec 5) (x : Word) : (t.gwrite r x).vl = t.vl := by
  unfold Thread.gwrite; split <;> rfl
@[simp] theorem Thread.gwrite_vt (t : Thread) (r : BitVec 5) (x : Word) : (t.gwrite r x).vt = t.vt := by
  unfold Thread.gwrite; split <;> rfl
@[simp] theorem Thread.gwrite_es (t : Thread) (r : BitVec 5) (x : Word) : (t.gwrite r x).es = t.es := by
  unfold Thread.gwrite; split <;> rfl
@[simp] theorem Thread.gwrite_trc (t : Thread) (r : BitVec 5) (x : Word) : (t.gwrite r x).trc = t.trc := by
  unfold Thread.gwrite; split <;> rfl
@[simp] theorem Thread.gwrite_tra (t : Thread) (r : BitVec 5) (x : Word) : (t.gwrite r x).tra = t.tra := by
  unfold Thread.gwrite; split <;> rfl
@[simp] theorem Thread.gwrite_rowp (t : Thread) (r : BitVec 5) (x : Word) : (t.gwrite r x).rowp = t.rowp := by
  unfold Thread.gwrite; split <;> rfl
@[simp] theorem Thread.gwrite_trl (t : Thread) (r : BitVec 5) (x : Word) : (t.gwrite r x).trl = t.trl := by
  unfold Thread.gwrite; split <;> rfl
@[simp] theorem Thread.gwrite_fflags (t : Thread) (r : BitVec 5) (x : Word) : (t.gwrite r x).fflags = t.fflags := by
  unfold Thread.gwrite; split <;> rfl
@[simp] theorem Thread.gwrite_fen (t : Thread) (r : BitVec 5) (x : Word) : (t.gwrite r x).fen = t.fen := by
  unfold Thread.gwrite; split <;> rfl
@[simp] theorem Thread.gwrite_frm (t : Thread) (r : BitVec 5) (x : Word) : (t.gwrite r x).frm = t.frm := by
  unfold Thread.gwrite; split <;> rfl
@[simp] theorem Thread.gwrite_fx (t : Thread) (r : BitVec 5) (x : Word) : (t.gwrite r x).fx = t.fx := by
  unfold Thread.gwrite; split <;> rfl
@[simp] theorem Thread.gwrite_moved (t : Thread) (r : BitVec 5) (x : Word) : (t.gwrite r x).moved = t.moved := by
  unfold Thread.gwrite; split <;> rfl
@[simp] theorem Thread.gwrite_amode (t : Thread) (r : BitVec 5) (x : Word) : (t.gwrite r x).amode = t.amode := by
  unfold Thread.gwrite; split <;> rfl
@[simp] theorem Thread.gwrite_tvec (t : Thread) (r : BitVec 5) (x : Word) : (t.gwrite r x).tvec = t.tvec := by
  unfold Thread.gwrite; split <;> rfl
@[simp] theorem Thread.gwrite_epc (t : Thread) (r : BitVec 5) (x : Word) : (t.gwrite r x).epc = t.epc := by
  unfold Thread.gwrite; split <;> rfl
@[simp] theorem Thread.gwrite_ecause (t : Thread) (r : BitVec 5) (x : Word) : (t.gwrite r x).ecause = t.ecause := by
  unfold Thread.gwrite; split <;> rfl
@[simp] theorem Thread.gwrite_eaddr (t : Thread) (r : BitVec 5) (x : Word) : (t.gwrite r x).eaddr = t.eaddr := by
  unfold Thread.gwrite; split <;> rfl
@[simp] theorem Thread.gwrite_einfo (t : Thread) (r : BitVec 5) (x : Word) : (t.gwrite r x).einfo = t.einfo := by
  unfold Thread.gwrite; split <;> rfl
@[simp] theorem Thread.gwrite_priv (t : Thread) (r : BitVec 5) (x : Word) : (t.gwrite r x).priv = t.priv := by
  unfold Thread.gwrite; split <;> rfl
@[simp] theorem Thread.gwrite_ppriv (t : Thread) (r : BitVec 5) (x : Word) : (t.gwrite r x).ppriv = t.ppriv := by
  unfold Thread.gwrite; split <;> rfl
@[simp] theorem Thread.gwrite_busy (t : Thread) (r : BitVec 5) (x : Word) : (t.gwrite r x).busy = t.busy := by
  unfold Thread.gwrite; split <;> rfl
@[simp] theorem Thread.gwrite_ptb (t : Thread) (r : BitVec 5) (x : Word) : (t.gwrite r x).ptb = t.ptb := by
  unfold Thread.gwrite; split <;> rfl
@[simp] theorem Thread.gwrite_colour (t : Thread) (r : BitVec 5) (x : Word) : (t.gwrite r x).colour = t.colour := by
  unfold Thread.gwrite; split <;> rfl
@[simp] theorem Thread.gwrite_keydef (t : Thread) (r : BitVec 5) (x : Word) : (t.gwrite r x).keydef = t.keydef := by
  unfold Thread.gwrite; split <;> rfl
@[simp] theorem Thread.gwrite_dirty (t : Thread) (r : BitVec 5) (x : Word) : (t.gwrite r x).dirty = t.dirty := by
  unfold Thread.gwrite; split <;> rfl
@[simp] theorem Thread.gwrite_hsave0 (t : Thread) (r : BitVec 5) (x : Word) : (t.gwrite r x).hsave0 = t.hsave0 := by
  unfold Thread.gwrite; split <;> rfl
@[simp] theorem Thread.gwrite_hsave1 (t : Thread) (r : BitVec 5) (x : Word) : (t.gwrite r x).hsave1 = t.hsave1 := by
  unfold Thread.gwrite; split <;> rfl
@[simp] theorem Thread.gwrite_queue (t : Thread) (r : BitVec 5) (x : Word) : (t.gwrite r x).queue = t.queue := by
  unfold Thread.gwrite; split <;> rfl
@[simp] theorem Thread.gwrite_seq (t : Thread) (r : BitVec 5) (x : Word) : (t.gwrite r x).seq = t.seq := by
  unfold Thread.gwrite; split <;> rfl
@[simp] theorem Thread.gwrite_nextSlot (t : Thread) (r : BitVec 5) (x : Word) : (t.gwrite r x).nextSlot = t.nextSlot := by
  unfold Thread.gwrite; split <;> rfl
@[simp] theorem Thread.gwrite_epoch (t : Thread) (r : BitVec 5) (x : Word) : (t.gwrite r x).epoch = t.epoch := by
  unfold Thread.gwrite; split <;> rfl
@[simp] theorem Thread.gwrite_epochs (t : Thread) (r : BitVec 5) (x : Word) : (t.gwrite r x).epochs = t.epochs := by
  unfold Thread.gwrite; split <;> rfl
@[simp] theorem Thread.gwrite_tokens (t : Thread) (r : BitVec 5) (x : Word) : (t.gwrite r x).tokens = t.tokens := by
  unfold Thread.gwrite; split <;> rfl
@[simp] theorem Thread.gwrite_dlen (t : Thread) (r : BitVec 5) (x : Word) : (t.gwrite r x).dlen = t.dlen := by
  unfold Thread.gwrite; split <;> rfl
@[simp] theorem Thread.gwrite_fetched (t : Thread) (r : BitVec 5) (x : Word) : (t.gwrite r x).fetched = t.fetched := by
  unfold Thread.gwrite; split <;> rfl
@[simp] theorem Thread.gwrite_asleep (t : Thread) (r : BitVec 5) (x : Word) : (t.gwrite r x).asleep = t.asleep := by
  unfold Thread.gwrite; split <;> rfl
@[simp] theorem Thread.gwrite_woken (t : Thread) (r : BitVec 5) (x : Word) : (t.gwrite r x).woken = t.woken := by
  unfold Thread.gwrite; split <;> rfl
@[simp] theorem Thread.gwrite_syncing (t : Thread) (r : BitVec 5) (x : Word) : (t.gwrite r x).syncing = t.syncing := by
  unfold Thread.gwrite; split <;> rfl
@[simp] theorem Thread.gwrite_released (t : Thread) (r : BitVec 5) (x : Word) : (t.gwrite r x).released = t.released := by
  unfold Thread.gwrite; split <;> rfl
@[simp] theorem Thread.gwrite_stuck (t : Thread) (r : BitVec 5) (x : Word) : (t.gwrite r x).stuck = t.stuck := by
  unfold Thread.gwrite; split <;> rfl
@[simp] theorem Thread.gwrite_residue (t : Thread) (r : BitVec 5) (x : Word) : (t.gwrite r x).residue = t.residue := by
  unfold Thread.gwrite; split <;> rfl
@[simp] theorem Thread.gwrite_progress (t : Thread) (r : BitVec 5) (x : Word) : (t.gwrite r x).progress = t.progress := by
  unfold Thread.gwrite; split <;> rfl


/-! ## A write of a predicate register (R31) -/

@[simp] theorem Thread.pwrite_status (t : Thread) (r : BitVec 3) (x : BitVec 2048) : (t.pwrite r x).status = t.status := by
  unfold Thread.pwrite; split <;> rfl
@[simp] theorem Thread.pwrite_part (t : Thread) (r : BitVec 3) (x : BitVec 2048) : (t.pwrite r x).part = t.part := by
  unfold Thread.pwrite; split <;> rfl
@[simp] theorem Thread.pwrite_team (t : Thread) (r : BitVec 3) (x : BitVec 2048) : (t.pwrite r x).team = t.team := by
  unfold Thread.pwrite; split <;> rfl
@[simp] theorem Thread.pwrite_lthread (t : Thread) (r : BitVec 3) (x : BitVec 2048) : (t.pwrite r x).lthread = t.lthread := by
  unfold Thread.pwrite; split <;> rfl
@[simp] theorem Thread.pwrite_slot (t : Thread) (r : BitVec 3) (x : BitVec 2048) : (t.pwrite r x).slot = t.slot := by
  unfold Thread.pwrite; split <;> rfl
@[simp] theorem Thread.pwrite_pipes (t : Thread) (r : BitVec 3) (x : BitVec 2048) : (t.pwrite r x).pipes = t.pipes := by
  unfold Thread.pwrite; split <;> rfl
@[simp] theorem Thread.pwrite_lg (t : Thread) (r : BitVec 3) (x : BitVec 2048) : (t.pwrite r x).lg = t.lg := by
  unfold Thread.pwrite; split <;> rfl
@[simp] theorem Thread.pwrite_laneSet (t : Thread) (r : BitVec 3) (x : BitVec 2048) : (t.pwrite r x).laneSet = t.laneSet := by
  unfold Thread.pwrite; split <;> rfl
@[simp] theorem Thread.pwrite_pc (t : Thread) (r : BitVec 3) (x : BitVec 2048) : (t.pwrite r x).pc = t.pc := by
  unfold Thread.pwrite; split <;> rfl
@[simp] theorem Thread.pwrite_g (t : Thread) (r : BitVec 3) (x : BitVec 2048) : (t.pwrite r x).g = t.g := by
  unfold Thread.pwrite; split <;> rfl
@[simp] theorem Thread.pwrite_v (t : Thread) (r : BitVec 3) (x : BitVec 2048) : (t.pwrite r x).v = t.v := by
  unfold Thread.pwrite; split <;> rfl
@[simp] theorem Thread.pwrite_bad (t : Thread) (r : BitVec 3) (x : BitVec 2048) : (t.pwrite r x).bad = t.bad := by
  unfold Thread.pwrite; split <;> rfl
@[simp] theorem Thread.pwrite_side (t : Thread) (r : BitVec 3) (x : BitVec 2048) : (t.pwrite r x).side = t.side := by
  unfold Thread.pwrite; split <;> rfl
@[simp] theorem Thread.pwrite_sideBad (t : Thread) (r : BitVec 3) (x : BitVec 2048) : (t.pwrite r x).sideBad = t.sideBad := by
  unfold Thread.pwrite; split <;> rfl
@[simp] theorem Thread.pwrite_q (t : Thread) (r : BitVec 3) (x : BitVec 2048) : (t.pwrite r x).q = t.q := by
  unfold Thread.pwrite; split <;> rfl
@[simp] theorem Thread.pwrite_h (t : Thread) (r : BitVec 3) (x : BitVec 2048) : (t.pwrite r x).h = t.h := by
  unfold Thread.pwrite; split <;> rfl
@[simp] theorem Thread.pwrite_hill (t : Thread) (r : BitVec 3) (x : BitVec 2048) : (t.pwrite r x).hill = t.hill := by
  unfold Thread.pwrite; split <;> rfl
@[simp] theorem Thread.pwrite_k (t : Thread) (r : BitVec 3) (x : BitVec 2048) : (t.pwrite r x).k = t.k := by
  unfold Thread.pwrite; split <;> rfl
@[simp] theorem Thread.pwrite_vl (t : Thread) (r : BitVec 3) (x : BitVec 2048) : (t.pwrite r x).vl = t.vl := by
  unfold Thread.pwrite; split <;> rfl
@[simp] theorem Thread.pwrite_vt (t : Thread) (r : BitVec 3) (x : BitVec 2048) : (t.pwrite r x).vt = t.vt := by
  unfold Thread.pwrite; split <;> rfl
@[simp] theorem Thread.pwrite_es (t : Thread) (r : BitVec 3) (x : BitVec 2048) : (t.pwrite r x).es = t.es := by
  unfold Thread.pwrite; split <;> rfl
@[simp] theorem Thread.pwrite_trc (t : Thread) (r : BitVec 3) (x : BitVec 2048) : (t.pwrite r x).trc = t.trc := by
  unfold Thread.pwrite; split <;> rfl
@[simp] theorem Thread.pwrite_tra (t : Thread) (r : BitVec 3) (x : BitVec 2048) : (t.pwrite r x).tra = t.tra := by
  unfold Thread.pwrite; split <;> rfl
@[simp] theorem Thread.pwrite_rowp (t : Thread) (r : BitVec 3) (x : BitVec 2048) : (t.pwrite r x).rowp = t.rowp := by
  unfold Thread.pwrite; split <;> rfl
@[simp] theorem Thread.pwrite_trl (t : Thread) (r : BitVec 3) (x : BitVec 2048) : (t.pwrite r x).trl = t.trl := by
  unfold Thread.pwrite; split <;> rfl
@[simp] theorem Thread.pwrite_fflags (t : Thread) (r : BitVec 3) (x : BitVec 2048) : (t.pwrite r x).fflags = t.fflags := by
  unfold Thread.pwrite; split <;> rfl
@[simp] theorem Thread.pwrite_fen (t : Thread) (r : BitVec 3) (x : BitVec 2048) : (t.pwrite r x).fen = t.fen := by
  unfold Thread.pwrite; split <;> rfl
@[simp] theorem Thread.pwrite_frm (t : Thread) (r : BitVec 3) (x : BitVec 2048) : (t.pwrite r x).frm = t.frm := by
  unfold Thread.pwrite; split <;> rfl
@[simp] theorem Thread.pwrite_fx (t : Thread) (r : BitVec 3) (x : BitVec 2048) : (t.pwrite r x).fx = t.fx := by
  unfold Thread.pwrite; split <;> rfl
@[simp] theorem Thread.pwrite_moved (t : Thread) (r : BitVec 3) (x : BitVec 2048) : (t.pwrite r x).moved = t.moved := by
  unfold Thread.pwrite; split <;> rfl
@[simp] theorem Thread.pwrite_amode (t : Thread) (r : BitVec 3) (x : BitVec 2048) : (t.pwrite r x).amode = t.amode := by
  unfold Thread.pwrite; split <;> rfl
@[simp] theorem Thread.pwrite_tvec (t : Thread) (r : BitVec 3) (x : BitVec 2048) : (t.pwrite r x).tvec = t.tvec := by
  unfold Thread.pwrite; split <;> rfl
@[simp] theorem Thread.pwrite_epc (t : Thread) (r : BitVec 3) (x : BitVec 2048) : (t.pwrite r x).epc = t.epc := by
  unfold Thread.pwrite; split <;> rfl
@[simp] theorem Thread.pwrite_ecause (t : Thread) (r : BitVec 3) (x : BitVec 2048) : (t.pwrite r x).ecause = t.ecause := by
  unfold Thread.pwrite; split <;> rfl
@[simp] theorem Thread.pwrite_eaddr (t : Thread) (r : BitVec 3) (x : BitVec 2048) : (t.pwrite r x).eaddr = t.eaddr := by
  unfold Thread.pwrite; split <;> rfl
@[simp] theorem Thread.pwrite_einfo (t : Thread) (r : BitVec 3) (x : BitVec 2048) : (t.pwrite r x).einfo = t.einfo := by
  unfold Thread.pwrite; split <;> rfl
@[simp] theorem Thread.pwrite_priv (t : Thread) (r : BitVec 3) (x : BitVec 2048) : (t.pwrite r x).priv = t.priv := by
  unfold Thread.pwrite; split <;> rfl
@[simp] theorem Thread.pwrite_ppriv (t : Thread) (r : BitVec 3) (x : BitVec 2048) : (t.pwrite r x).ppriv = t.ppriv := by
  unfold Thread.pwrite; split <;> rfl
@[simp] theorem Thread.pwrite_busy (t : Thread) (r : BitVec 3) (x : BitVec 2048) : (t.pwrite r x).busy = t.busy := by
  unfold Thread.pwrite; split <;> rfl
@[simp] theorem Thread.pwrite_ptb (t : Thread) (r : BitVec 3) (x : BitVec 2048) : (t.pwrite r x).ptb = t.ptb := by
  unfold Thread.pwrite; split <;> rfl
@[simp] theorem Thread.pwrite_colour (t : Thread) (r : BitVec 3) (x : BitVec 2048) : (t.pwrite r x).colour = t.colour := by
  unfold Thread.pwrite; split <;> rfl
@[simp] theorem Thread.pwrite_keydef (t : Thread) (r : BitVec 3) (x : BitVec 2048) : (t.pwrite r x).keydef = t.keydef := by
  unfold Thread.pwrite; split <;> rfl
@[simp] theorem Thread.pwrite_dirty (t : Thread) (r : BitVec 3) (x : BitVec 2048) : (t.pwrite r x).dirty = t.dirty := by
  unfold Thread.pwrite; split <;> rfl
@[simp] theorem Thread.pwrite_hsave0 (t : Thread) (r : BitVec 3) (x : BitVec 2048) : (t.pwrite r x).hsave0 = t.hsave0 := by
  unfold Thread.pwrite; split <;> rfl
@[simp] theorem Thread.pwrite_hsave1 (t : Thread) (r : BitVec 3) (x : BitVec 2048) : (t.pwrite r x).hsave1 = t.hsave1 := by
  unfold Thread.pwrite; split <;> rfl
@[simp] theorem Thread.pwrite_queue (t : Thread) (r : BitVec 3) (x : BitVec 2048) : (t.pwrite r x).queue = t.queue := by
  unfold Thread.pwrite; split <;> rfl
@[simp] theorem Thread.pwrite_seq (t : Thread) (r : BitVec 3) (x : BitVec 2048) : (t.pwrite r x).seq = t.seq := by
  unfold Thread.pwrite; split <;> rfl
@[simp] theorem Thread.pwrite_nextSlot (t : Thread) (r : BitVec 3) (x : BitVec 2048) : (t.pwrite r x).nextSlot = t.nextSlot := by
  unfold Thread.pwrite; split <;> rfl
@[simp] theorem Thread.pwrite_epoch (t : Thread) (r : BitVec 3) (x : BitVec 2048) : (t.pwrite r x).epoch = t.epoch := by
  unfold Thread.pwrite; split <;> rfl
@[simp] theorem Thread.pwrite_epochs (t : Thread) (r : BitVec 3) (x : BitVec 2048) : (t.pwrite r x).epochs = t.epochs := by
  unfold Thread.pwrite; split <;> rfl
@[simp] theorem Thread.pwrite_tokens (t : Thread) (r : BitVec 3) (x : BitVec 2048) : (t.pwrite r x).tokens = t.tokens := by
  unfold Thread.pwrite; split <;> rfl
@[simp] theorem Thread.pwrite_dlen (t : Thread) (r : BitVec 3) (x : BitVec 2048) : (t.pwrite r x).dlen = t.dlen := by
  unfold Thread.pwrite; split <;> rfl
@[simp] theorem Thread.pwrite_fetched (t : Thread) (r : BitVec 3) (x : BitVec 2048) : (t.pwrite r x).fetched = t.fetched := by
  unfold Thread.pwrite; split <;> rfl
@[simp] theorem Thread.pwrite_asleep (t : Thread) (r : BitVec 3) (x : BitVec 2048) : (t.pwrite r x).asleep = t.asleep := by
  unfold Thread.pwrite; split <;> rfl
@[simp] theorem Thread.pwrite_woken (t : Thread) (r : BitVec 3) (x : BitVec 2048) : (t.pwrite r x).woken = t.woken := by
  unfold Thread.pwrite; split <;> rfl
@[simp] theorem Thread.pwrite_syncing (t : Thread) (r : BitVec 3) (x : BitVec 2048) : (t.pwrite r x).syncing = t.syncing := by
  unfold Thread.pwrite; split <;> rfl
@[simp] theorem Thread.pwrite_released (t : Thread) (r : BitVec 3) (x : BitVec 2048) : (t.pwrite r x).released = t.released := by
  unfold Thread.pwrite; split <;> rfl
@[simp] theorem Thread.pwrite_stuck (t : Thread) (r : BitVec 3) (x : BitVec 2048) : (t.pwrite r x).stuck = t.stuck := by
  unfold Thread.pwrite; split <;> rfl
@[simp] theorem Thread.pwrite_residue (t : Thread) (r : BitVec 3) (x : BitVec 2048) : (t.pwrite r x).residue = t.residue := by
  unfold Thread.pwrite; split <;> rfl
@[simp] theorem Thread.pwrite_progress (t : Thread) (r : BitVec 3) (x : BitVec 2048) : (t.pwrite r x).progress = t.progress := by
  unfold Thread.pwrite; split <;> rfl


/-! ## A write of a vector register -/

@[simp] theorem Thread.vwrite_status (t : Thread) (r : Nat) (x : BitVec 8192) : (t.vwrite r x).status = t.status := rfl
@[simp] theorem Thread.vwrite_part (t : Thread) (r : Nat) (x : BitVec 8192) : (t.vwrite r x).part = t.part := rfl
@[simp] theorem Thread.vwrite_team (t : Thread) (r : Nat) (x : BitVec 8192) : (t.vwrite r x).team = t.team := rfl
@[simp] theorem Thread.vwrite_lthread (t : Thread) (r : Nat) (x : BitVec 8192) : (t.vwrite r x).lthread = t.lthread := rfl
@[simp] theorem Thread.vwrite_slot (t : Thread) (r : Nat) (x : BitVec 8192) : (t.vwrite r x).slot = t.slot := rfl
@[simp] theorem Thread.vwrite_pipes (t : Thread) (r : Nat) (x : BitVec 8192) : (t.vwrite r x).pipes = t.pipes := rfl
@[simp] theorem Thread.vwrite_lg (t : Thread) (r : Nat) (x : BitVec 8192) : (t.vwrite r x).lg = t.lg := rfl
@[simp] theorem Thread.vwrite_laneSet (t : Thread) (r : Nat) (x : BitVec 8192) : (t.vwrite r x).laneSet = t.laneSet := rfl
@[simp] theorem Thread.vwrite_pc (t : Thread) (r : Nat) (x : BitVec 8192) : (t.vwrite r x).pc = t.pc := rfl
@[simp] theorem Thread.vwrite_g (t : Thread) (r : Nat) (x : BitVec 8192) : (t.vwrite r x).g = t.g := rfl
@[simp] theorem Thread.vwrite_bad (t : Thread) (r : Nat) (x : BitVec 8192) : (t.vwrite r x).bad = t.bad := rfl
@[simp] theorem Thread.vwrite_side (t : Thread) (r : Nat) (x : BitVec 8192) : (t.vwrite r x).side = t.side := rfl
@[simp] theorem Thread.vwrite_sideBad (t : Thread) (r : Nat) (x : BitVec 8192) : (t.vwrite r x).sideBad = t.sideBad := rfl
@[simp] theorem Thread.vwrite_p (t : Thread) (r : Nat) (x : BitVec 8192) : (t.vwrite r x).p = t.p := rfl
@[simp] theorem Thread.vwrite_q (t : Thread) (r : Nat) (x : BitVec 8192) : (t.vwrite r x).q = t.q := rfl
@[simp] theorem Thread.vwrite_h (t : Thread) (r : Nat) (x : BitVec 8192) : (t.vwrite r x).h = t.h := rfl
@[simp] theorem Thread.vwrite_hill (t : Thread) (r : Nat) (x : BitVec 8192) : (t.vwrite r x).hill = t.hill := rfl
@[simp] theorem Thread.vwrite_k (t : Thread) (r : Nat) (x : BitVec 8192) : (t.vwrite r x).k = t.k := rfl
@[simp] theorem Thread.vwrite_vl (t : Thread) (r : Nat) (x : BitVec 8192) : (t.vwrite r x).vl = t.vl := rfl
@[simp] theorem Thread.vwrite_vt (t : Thread) (r : Nat) (x : BitVec 8192) : (t.vwrite r x).vt = t.vt := rfl
@[simp] theorem Thread.vwrite_es (t : Thread) (r : Nat) (x : BitVec 8192) : (t.vwrite r x).es = t.es := rfl
@[simp] theorem Thread.vwrite_trc (t : Thread) (r : Nat) (x : BitVec 8192) : (t.vwrite r x).trc = t.trc := rfl
@[simp] theorem Thread.vwrite_tra (t : Thread) (r : Nat) (x : BitVec 8192) : (t.vwrite r x).tra = t.tra := rfl
@[simp] theorem Thread.vwrite_rowp (t : Thread) (r : Nat) (x : BitVec 8192) : (t.vwrite r x).rowp = t.rowp := rfl
@[simp] theorem Thread.vwrite_trl (t : Thread) (r : Nat) (x : BitVec 8192) : (t.vwrite r x).trl = t.trl := rfl
@[simp] theorem Thread.vwrite_fflags (t : Thread) (r : Nat) (x : BitVec 8192) : (t.vwrite r x).fflags = t.fflags := rfl
@[simp] theorem Thread.vwrite_fen (t : Thread) (r : Nat) (x : BitVec 8192) : (t.vwrite r x).fen = t.fen := rfl
@[simp] theorem Thread.vwrite_frm (t : Thread) (r : Nat) (x : BitVec 8192) : (t.vwrite r x).frm = t.frm := rfl
@[simp] theorem Thread.vwrite_fx (t : Thread) (r : Nat) (x : BitVec 8192) : (t.vwrite r x).fx = t.fx := rfl
@[simp] theorem Thread.vwrite_moved (t : Thread) (r : Nat) (x : BitVec 8192) : (t.vwrite r x).moved = t.moved := rfl
@[simp] theorem Thread.vwrite_amode (t : Thread) (r : Nat) (x : BitVec 8192) : (t.vwrite r x).amode = t.amode := rfl
@[simp] theorem Thread.vwrite_tvec (t : Thread) (r : Nat) (x : BitVec 8192) : (t.vwrite r x).tvec = t.tvec := rfl
@[simp] theorem Thread.vwrite_epc (t : Thread) (r : Nat) (x : BitVec 8192) : (t.vwrite r x).epc = t.epc := rfl
@[simp] theorem Thread.vwrite_ecause (t : Thread) (r : Nat) (x : BitVec 8192) : (t.vwrite r x).ecause = t.ecause := rfl
@[simp] theorem Thread.vwrite_eaddr (t : Thread) (r : Nat) (x : BitVec 8192) : (t.vwrite r x).eaddr = t.eaddr := rfl
@[simp] theorem Thread.vwrite_einfo (t : Thread) (r : Nat) (x : BitVec 8192) : (t.vwrite r x).einfo = t.einfo := rfl
@[simp] theorem Thread.vwrite_priv (t : Thread) (r : Nat) (x : BitVec 8192) : (t.vwrite r x).priv = t.priv := rfl
@[simp] theorem Thread.vwrite_ppriv (t : Thread) (r : Nat) (x : BitVec 8192) : (t.vwrite r x).ppriv = t.ppriv := rfl
@[simp] theorem Thread.vwrite_busy (t : Thread) (r : Nat) (x : BitVec 8192) : (t.vwrite r x).busy = t.busy := rfl
@[simp] theorem Thread.vwrite_ptb (t : Thread) (r : Nat) (x : BitVec 8192) : (t.vwrite r x).ptb = t.ptb := rfl
@[simp] theorem Thread.vwrite_colour (t : Thread) (r : Nat) (x : BitVec 8192) : (t.vwrite r x).colour = t.colour := rfl
@[simp] theorem Thread.vwrite_keydef (t : Thread) (r : Nat) (x : BitVec 8192) : (t.vwrite r x).keydef = t.keydef := rfl
@[simp] theorem Thread.vwrite_dirty (t : Thread) (r : Nat) (x : BitVec 8192) : (t.vwrite r x).dirty = t.dirty := rfl
@[simp] theorem Thread.vwrite_hsave0 (t : Thread) (r : Nat) (x : BitVec 8192) : (t.vwrite r x).hsave0 = t.hsave0 := rfl
@[simp] theorem Thread.vwrite_hsave1 (t : Thread) (r : Nat) (x : BitVec 8192) : (t.vwrite r x).hsave1 = t.hsave1 := rfl
@[simp] theorem Thread.vwrite_queue (t : Thread) (r : Nat) (x : BitVec 8192) : (t.vwrite r x).queue = t.queue := rfl
@[simp] theorem Thread.vwrite_seq (t : Thread) (r : Nat) (x : BitVec 8192) : (t.vwrite r x).seq = t.seq := rfl
@[simp] theorem Thread.vwrite_nextSlot (t : Thread) (r : Nat) (x : BitVec 8192) : (t.vwrite r x).nextSlot = t.nextSlot := rfl
@[simp] theorem Thread.vwrite_epoch (t : Thread) (r : Nat) (x : BitVec 8192) : (t.vwrite r x).epoch = t.epoch := rfl
@[simp] theorem Thread.vwrite_epochs (t : Thread) (r : Nat) (x : BitVec 8192) : (t.vwrite r x).epochs = t.epochs := rfl
@[simp] theorem Thread.vwrite_tokens (t : Thread) (r : Nat) (x : BitVec 8192) : (t.vwrite r x).tokens = t.tokens := rfl
@[simp] theorem Thread.vwrite_dlen (t : Thread) (r : Nat) (x : BitVec 8192) : (t.vwrite r x).dlen = t.dlen := rfl
@[simp] theorem Thread.vwrite_fetched (t : Thread) (r : Nat) (x : BitVec 8192) : (t.vwrite r x).fetched = t.fetched := rfl
@[simp] theorem Thread.vwrite_asleep (t : Thread) (r : Nat) (x : BitVec 8192) : (t.vwrite r x).asleep = t.asleep := rfl
@[simp] theorem Thread.vwrite_woken (t : Thread) (r : Nat) (x : BitVec 8192) : (t.vwrite r x).woken = t.woken := rfl
@[simp] theorem Thread.vwrite_syncing (t : Thread) (r : Nat) (x : BitVec 8192) : (t.vwrite r x).syncing = t.syncing := rfl
@[simp] theorem Thread.vwrite_released (t : Thread) (r : Nat) (x : BitVec 8192) : (t.vwrite r x).released = t.released := rfl
@[simp] theorem Thread.vwrite_stuck (t : Thread) (r : Nat) (x : BitVec 8192) : (t.vwrite r x).stuck = t.stuck := rfl
@[simp] theorem Thread.vwrite_residue (t : Thread) (r : Nat) (x : BitVec 8192) : (t.vwrite r x).residue = t.residue := rfl
@[simp] theorem Thread.vwrite_progress (t : Thread) (r : Nat) (x : BitVec 8192) : (t.vwrite r x).progress = t.progress := rfl


/-! ## A write of an exponent side-file (R123) -/

@[simp] theorem Thread.sideWrite_status (t : Thread) (r : Nat) (x : BitVec 512) : (t.sideWrite r x).status = t.status := rfl
@[simp] theorem Thread.sideWrite_part (t : Thread) (r : Nat) (x : BitVec 512) : (t.sideWrite r x).part = t.part := rfl
@[simp] theorem Thread.sideWrite_team (t : Thread) (r : Nat) (x : BitVec 512) : (t.sideWrite r x).team = t.team := rfl
@[simp] theorem Thread.sideWrite_lthread (t : Thread) (r : Nat) (x : BitVec 512) : (t.sideWrite r x).lthread = t.lthread := rfl
@[simp] theorem Thread.sideWrite_slot (t : Thread) (r : Nat) (x : BitVec 512) : (t.sideWrite r x).slot = t.slot := rfl
@[simp] theorem Thread.sideWrite_pipes (t : Thread) (r : Nat) (x : BitVec 512) : (t.sideWrite r x).pipes = t.pipes := rfl
@[simp] theorem Thread.sideWrite_lg (t : Thread) (r : Nat) (x : BitVec 512) : (t.sideWrite r x).lg = t.lg := rfl
@[simp] theorem Thread.sideWrite_laneSet (t : Thread) (r : Nat) (x : BitVec 512) : (t.sideWrite r x).laneSet = t.laneSet := rfl
@[simp] theorem Thread.sideWrite_pc (t : Thread) (r : Nat) (x : BitVec 512) : (t.sideWrite r x).pc = t.pc := rfl
@[simp] theorem Thread.sideWrite_g (t : Thread) (r : Nat) (x : BitVec 512) : (t.sideWrite r x).g = t.g := rfl
@[simp] theorem Thread.sideWrite_v (t : Thread) (r : Nat) (x : BitVec 512) : (t.sideWrite r x).v = t.v := rfl
@[simp] theorem Thread.sideWrite_bad (t : Thread) (r : Nat) (x : BitVec 512) : (t.sideWrite r x).bad = t.bad := rfl
@[simp] theorem Thread.sideWrite_sideBad (t : Thread) (r : Nat) (x : BitVec 512) : (t.sideWrite r x).sideBad = t.sideBad := rfl
@[simp] theorem Thread.sideWrite_p (t : Thread) (r : Nat) (x : BitVec 512) : (t.sideWrite r x).p = t.p := rfl
@[simp] theorem Thread.sideWrite_q (t : Thread) (r : Nat) (x : BitVec 512) : (t.sideWrite r x).q = t.q := rfl
@[simp] theorem Thread.sideWrite_h (t : Thread) (r : Nat) (x : BitVec 512) : (t.sideWrite r x).h = t.h := rfl
@[simp] theorem Thread.sideWrite_hill (t : Thread) (r : Nat) (x : BitVec 512) : (t.sideWrite r x).hill = t.hill := rfl
@[simp] theorem Thread.sideWrite_k (t : Thread) (r : Nat) (x : BitVec 512) : (t.sideWrite r x).k = t.k := rfl
@[simp] theorem Thread.sideWrite_vl (t : Thread) (r : Nat) (x : BitVec 512) : (t.sideWrite r x).vl = t.vl := rfl
@[simp] theorem Thread.sideWrite_vt (t : Thread) (r : Nat) (x : BitVec 512) : (t.sideWrite r x).vt = t.vt := rfl
@[simp] theorem Thread.sideWrite_es (t : Thread) (r : Nat) (x : BitVec 512) : (t.sideWrite r x).es = t.es := rfl
@[simp] theorem Thread.sideWrite_trc (t : Thread) (r : Nat) (x : BitVec 512) : (t.sideWrite r x).trc = t.trc := rfl
@[simp] theorem Thread.sideWrite_tra (t : Thread) (r : Nat) (x : BitVec 512) : (t.sideWrite r x).tra = t.tra := rfl
@[simp] theorem Thread.sideWrite_rowp (t : Thread) (r : Nat) (x : BitVec 512) : (t.sideWrite r x).rowp = t.rowp := rfl
@[simp] theorem Thread.sideWrite_trl (t : Thread) (r : Nat) (x : BitVec 512) : (t.sideWrite r x).trl = t.trl := rfl
@[simp] theorem Thread.sideWrite_fflags (t : Thread) (r : Nat) (x : BitVec 512) : (t.sideWrite r x).fflags = t.fflags := rfl
@[simp] theorem Thread.sideWrite_fen (t : Thread) (r : Nat) (x : BitVec 512) : (t.sideWrite r x).fen = t.fen := rfl
@[simp] theorem Thread.sideWrite_frm (t : Thread) (r : Nat) (x : BitVec 512) : (t.sideWrite r x).frm = t.frm := rfl
@[simp] theorem Thread.sideWrite_fx (t : Thread) (r : Nat) (x : BitVec 512) : (t.sideWrite r x).fx = t.fx := rfl
@[simp] theorem Thread.sideWrite_moved (t : Thread) (r : Nat) (x : BitVec 512) : (t.sideWrite r x).moved = t.moved := rfl
@[simp] theorem Thread.sideWrite_amode (t : Thread) (r : Nat) (x : BitVec 512) : (t.sideWrite r x).amode = t.amode := rfl
@[simp] theorem Thread.sideWrite_tvec (t : Thread) (r : Nat) (x : BitVec 512) : (t.sideWrite r x).tvec = t.tvec := rfl
@[simp] theorem Thread.sideWrite_epc (t : Thread) (r : Nat) (x : BitVec 512) : (t.sideWrite r x).epc = t.epc := rfl
@[simp] theorem Thread.sideWrite_ecause (t : Thread) (r : Nat) (x : BitVec 512) : (t.sideWrite r x).ecause = t.ecause := rfl
@[simp] theorem Thread.sideWrite_eaddr (t : Thread) (r : Nat) (x : BitVec 512) : (t.sideWrite r x).eaddr = t.eaddr := rfl
@[simp] theorem Thread.sideWrite_einfo (t : Thread) (r : Nat) (x : BitVec 512) : (t.sideWrite r x).einfo = t.einfo := rfl
@[simp] theorem Thread.sideWrite_priv (t : Thread) (r : Nat) (x : BitVec 512) : (t.sideWrite r x).priv = t.priv := rfl
@[simp] theorem Thread.sideWrite_ppriv (t : Thread) (r : Nat) (x : BitVec 512) : (t.sideWrite r x).ppriv = t.ppriv := rfl
@[simp] theorem Thread.sideWrite_busy (t : Thread) (r : Nat) (x : BitVec 512) : (t.sideWrite r x).busy = t.busy := rfl
@[simp] theorem Thread.sideWrite_ptb (t : Thread) (r : Nat) (x : BitVec 512) : (t.sideWrite r x).ptb = t.ptb := rfl
@[simp] theorem Thread.sideWrite_colour (t : Thread) (r : Nat) (x : BitVec 512) : (t.sideWrite r x).colour = t.colour := rfl
@[simp] theorem Thread.sideWrite_keydef (t : Thread) (r : Nat) (x : BitVec 512) : (t.sideWrite r x).keydef = t.keydef := rfl
@[simp] theorem Thread.sideWrite_dirty (t : Thread) (r : Nat) (x : BitVec 512) : (t.sideWrite r x).dirty = t.dirty := rfl
@[simp] theorem Thread.sideWrite_hsave0 (t : Thread) (r : Nat) (x : BitVec 512) : (t.sideWrite r x).hsave0 = t.hsave0 := rfl
@[simp] theorem Thread.sideWrite_hsave1 (t : Thread) (r : Nat) (x : BitVec 512) : (t.sideWrite r x).hsave1 = t.hsave1 := rfl
@[simp] theorem Thread.sideWrite_queue (t : Thread) (r : Nat) (x : BitVec 512) : (t.sideWrite r x).queue = t.queue := rfl
@[simp] theorem Thread.sideWrite_seq (t : Thread) (r : Nat) (x : BitVec 512) : (t.sideWrite r x).seq = t.seq := rfl
@[simp] theorem Thread.sideWrite_nextSlot (t : Thread) (r : Nat) (x : BitVec 512) : (t.sideWrite r x).nextSlot = t.nextSlot := rfl
@[simp] theorem Thread.sideWrite_epoch (t : Thread) (r : Nat) (x : BitVec 512) : (t.sideWrite r x).epoch = t.epoch := rfl
@[simp] theorem Thread.sideWrite_epochs (t : Thread) (r : Nat) (x : BitVec 512) : (t.sideWrite r x).epochs = t.epochs := rfl
@[simp] theorem Thread.sideWrite_tokens (t : Thread) (r : Nat) (x : BitVec 512) : (t.sideWrite r x).tokens = t.tokens := rfl
@[simp] theorem Thread.sideWrite_dlen (t : Thread) (r : Nat) (x : BitVec 512) : (t.sideWrite r x).dlen = t.dlen := rfl
@[simp] theorem Thread.sideWrite_fetched (t : Thread) (r : Nat) (x : BitVec 512) : (t.sideWrite r x).fetched = t.fetched := rfl
@[simp] theorem Thread.sideWrite_asleep (t : Thread) (r : Nat) (x : BitVec 512) : (t.sideWrite r x).asleep = t.asleep := rfl
@[simp] theorem Thread.sideWrite_woken (t : Thread) (r : Nat) (x : BitVec 512) : (t.sideWrite r x).woken = t.woken := rfl
@[simp] theorem Thread.sideWrite_syncing (t : Thread) (r : Nat) (x : BitVec 512) : (t.sideWrite r x).syncing = t.syncing := rfl
@[simp] theorem Thread.sideWrite_released (t : Thread) (r : Nat) (x : BitVec 512) : (t.sideWrite r x).released = t.released := rfl
@[simp] theorem Thread.sideWrite_stuck (t : Thread) (r : Nat) (x : BitVec 512) : (t.sideWrite r x).stuck = t.stuck := rfl
@[simp] theorem Thread.sideWrite_residue (t : Thread) (r : Nat) (x : BitVec 512) : (t.sideWrite r x).residue = t.residue := rfl
@[simp] theorem Thread.sideWrite_progress (t : Thread) (r : Nat) (x : BitVec 512) : (t.sideWrite r x).progress = t.progress := rfl


/-! ## The counter goes on -/

@[simp] theorem State.tock_tick (s : State) : s.tock.tick = s.tick + 1 := rfl
@[simp] theorem State.tock_cur (s : State) : s.tock.cur = s.cur := rfl
@[simp] theorem State.tock_others (s : State) : s.tock.others = s.others := rfl
@[simp] theorem State.tock_mem (s : State) : s.tock.mem = s.mem := rfl
@[simp] theorem State.tock_poison (s : State) : s.tock.poison = s.poison := rfl
@[simp] theorem State.tock_badBytes (s : State) : s.tock.badBytes = s.badBytes := rfl
@[simp] theorem State.tock_wild (s : State) : s.tock.wild = s.wild := rfl
@[simp] theorem State.tock_sizes (s : State) : s.tock.sizes = s.sizes := rfl
@[simp] theorem State.tock_strong (s : State) : s.tock.strong = s.strong := rfl
@[simp] theorem State.tock_lines (s : State) : s.tock.lines = s.lines := rfl
@[simp] theorem State.tock_tlb (s : State) : s.tock.tlb = s.tlb := rfl
@[simp] theorem State.tock_barriers (s : State) : s.tock.barriers = s.barriers := rfl
@[simp] theorem State.tock_copies (s : State) : s.tock.copies = s.copies := rfl
@[simp] theorem State.tock_seals (s : State) : s.tock.seals = s.seals := rfl
@[simp] theorem State.tock_nextOp (s : State) : s.tock.nextOp = s.nextOp := rfl
@[simp] theorem State.tock_rings (s : State) : s.tock.rings = s.rings := rfl
@[simp] theorem State.tock_linkUp (s : State) : s.tock.linkUp = s.linkUp := rfl
@[simp] theorem State.tock_binds (s : State) : s.tock.binds = s.binds := rfl
@[simp] theorem State.tock_teams (s : State) : s.tock.teams = s.teams := rfl
@[simp] theorem State.tock_launches (s : State) : s.tock.launches = s.launches := rfl
@[simp] theorem State.tock_launchNumbers (s : State) : s.tock.launchNumbers = s.launchNumbers := rfl
@[simp] theorem State.tock_ports (s : State) : s.tock.ports = s.ports := rfl
@[simp] theorem State.tock_layout (s : State) : s.tock.layout = s.layout := rfl
@[simp] theorem State.tock_keys (s : State) : s.tock.keys = s.keys := rfl
@[simp] theorem State.tock_mailbox (s : State) : s.tock.mailbox = s.mailbox := rfl
@[simp] theorem State.tock_sessions (s : State) : s.tock.sessions = s.sessions := rfl
@[simp] theorem State.tock_accounts (s : State) : s.tock.accounts = s.accounts := rfl
@[simp] theorem State.tock_counts (s : State) : s.tock.counts = s.counts := rfl
@[simp] theorem State.tock_pageCounters (s : State) : s.tock.pageCounters = s.pageCounters := rfl
@[simp] theorem State.tock_pageQueues (s : State) : s.tock.pageQueues = s.pageQueues := rfl
@[simp] theorem State.tock_promotions (s : State) : s.tock.promotions = s.promotions := rfl
@[simp] theorem State.tock_nextPromotion (s : State) : s.tock.nextPromotion = s.nextPromotion := rfl
@[simp] theorem State.tock_boot (s : State) : s.tock.boot = s.boot := rfl
@[simp] theorem State.tock_units (s : State) : s.tock.units = s.units := rfl
@[simp] theorem State.tock_islands (s : State) : s.tock.islands = s.islands := rfl
@[simp] theorem State.tock_reports (s : State) : s.tock.reports = s.reports := rfl
@[simp] theorem State.tock_hostRead (s : State) : s.tock.hostRead = s.hostRead := rfl
@[simp] theorem State.tock_agenda (s : State) : s.tock.agenda = s.agenda := rfl
@[simp] theorem State.tock_pace (s : State) : s.tock.pace = s.pace := rfl

/-! ## Bytes written by physical address -/

@[simp] theorem State.put_mem (s : State) (pa : Nat) (bs : List Byte) : (s.put pa bs).mem = s.mem.write pa bs := rfl
@[simp] theorem State.put_cur (s : State) (pa : Nat) (bs : List Byte) : (s.put pa bs).cur = s.cur := rfl
@[simp] theorem State.put_others (s : State) (pa : Nat) (bs : List Byte) : (s.put pa bs).others = s.others := rfl
@[simp] theorem State.put_badBytes (s : State) (pa : Nat) (bs : List Byte) : (s.put pa bs).badBytes = s.badBytes := rfl
@[simp] theorem State.put_sizes (s : State) (pa : Nat) (bs : List Byte) : (s.put pa bs).sizes = s.sizes := rfl
@[simp] theorem State.put_lines (s : State) (pa : Nat) (bs : List Byte) : (s.put pa bs).lines = s.lines := rfl
@[simp] theorem State.put_tlb (s : State) (pa : Nat) (bs : List Byte) : (s.put pa bs).tlb = s.tlb := rfl
@[simp] theorem State.put_barriers (s : State) (pa : Nat) (bs : List Byte) : (s.put pa bs).barriers = s.barriers := rfl
@[simp] theorem State.put_copies (s : State) (pa : Nat) (bs : List Byte) : (s.put pa bs).copies = s.copies := rfl
@[simp] theorem State.put_seals (s : State) (pa : Nat) (bs : List Byte) : (s.put pa bs).seals = s.seals := rfl
@[simp] theorem State.put_nextOp (s : State) (pa : Nat) (bs : List Byte) : (s.put pa bs).nextOp = s.nextOp := rfl
@[simp] theorem State.put_rings (s : State) (pa : Nat) (bs : List Byte) : (s.put pa bs).rings = s.rings := rfl
@[simp] theorem State.put_linkUp (s : State) (pa : Nat) (bs : List Byte) : (s.put pa bs).linkUp = s.linkUp := rfl
@[simp] theorem State.put_binds (s : State) (pa : Nat) (bs : List Byte) : (s.put pa bs).binds = s.binds := rfl
@[simp] theorem State.put_teams (s : State) (pa : Nat) (bs : List Byte) : (s.put pa bs).teams = s.teams := rfl
@[simp] theorem State.put_launches (s : State) (pa : Nat) (bs : List Byte) : (s.put pa bs).launches = s.launches := rfl
@[simp] theorem State.put_launchNumbers (s : State) (pa : Nat) (bs : List Byte) : (s.put pa bs).launchNumbers = s.launchNumbers := rfl
@[simp] theorem State.put_ports (s : State) (pa : Nat) (bs : List Byte) : (s.put pa bs).ports = s.ports := rfl
@[simp] theorem State.put_layout (s : State) (pa : Nat) (bs : List Byte) : (s.put pa bs).layout = s.layout := rfl
@[simp] theorem State.put_keys (s : State) (pa : Nat) (bs : List Byte) : (s.put pa bs).keys = s.keys := rfl
@[simp] theorem State.put_mailbox (s : State) (pa : Nat) (bs : List Byte) : (s.put pa bs).mailbox = s.mailbox := rfl
@[simp] theorem State.put_sessions (s : State) (pa : Nat) (bs : List Byte) : (s.put pa bs).sessions = s.sessions := rfl
@[simp] theorem State.put_accounts (s : State) (pa : Nat) (bs : List Byte) : (s.put pa bs).accounts = s.accounts := rfl
@[simp] theorem State.put_counts (s : State) (pa : Nat) (bs : List Byte) : (s.put pa bs).counts = s.counts := rfl
@[simp] theorem State.put_pageCounters (s : State) (pa : Nat) (bs : List Byte) : (s.put pa bs).pageCounters = s.pageCounters := rfl
@[simp] theorem State.put_pageQueues (s : State) (pa : Nat) (bs : List Byte) : (s.put pa bs).pageQueues = s.pageQueues := rfl
@[simp] theorem State.put_promotions (s : State) (pa : Nat) (bs : List Byte) : (s.put pa bs).promotions = s.promotions := rfl
@[simp] theorem State.put_nextPromotion (s : State) (pa : Nat) (bs : List Byte) : (s.put pa bs).nextPromotion = s.nextPromotion := rfl
@[simp] theorem State.put_boot (s : State) (pa : Nat) (bs : List Byte) : (s.put pa bs).boot = s.boot := rfl
@[simp] theorem State.put_units (s : State) (pa : Nat) (bs : List Byte) : (s.put pa bs).units = s.units := rfl
@[simp] theorem State.put_islands (s : State) (pa : Nat) (bs : List Byte) : (s.put pa bs).islands = s.islands := rfl
@[simp] theorem State.put_reports (s : State) (pa : Nat) (bs : List Byte) : (s.put pa bs).reports = s.reports := rfl
@[simp] theorem State.put_hostRead (s : State) (pa : Nat) (bs : List Byte) : (s.put pa bs).hostRead = s.hostRead := rfl
@[simp] theorem State.put_agenda (s : State) (pa : Nat) (bs : List Byte) : (s.put pa bs).agenda = s.agenda := rfl
@[simp] theorem State.put_pace (s : State) (pa : Nat) (bs : List Byte) : (s.put pa bs).pace = s.pace := rfl
@[simp] theorem State.put_tick (s : State) (pa : Nat) (bs : List Byte) : (s.put pa bs).tick = s.tick := rfl

/-! ## Landed stream data that a store drops (R166) -/

@[simp] theorem State.dropLanded_cur (s : State) (pa n : Nat) :
    (s.dropLanded pa n).cur = { s.cur with q := s.cur.q.map (Stream.dropOver pa n) } := rfl
@[simp] theorem State.dropLanded_others (s : State) (pa n : Nat) : (s.dropLanded pa n).others = s.others := rfl
@[simp] theorem State.dropLanded_mem (s : State) (pa n : Nat) : (s.dropLanded pa n).mem = s.mem := rfl
@[simp] theorem State.dropLanded_poison (s : State) (pa n : Nat) : (s.dropLanded pa n).poison = s.poison := rfl
@[simp] theorem State.dropLanded_badBytes (s : State) (pa n : Nat) : (s.dropLanded pa n).badBytes = s.badBytes := rfl
@[simp] theorem State.dropLanded_wild (s : State) (pa n : Nat) : (s.dropLanded pa n).wild = s.wild := rfl
@[simp] theorem State.dropLanded_sizes (s : State) (pa n : Nat) : (s.dropLanded pa n).sizes = s.sizes := rfl
@[simp] theorem State.dropLanded_lines (s : State) (pa n : Nat) : (s.dropLanded pa n).lines = s.lines := rfl
@[simp] theorem State.dropLanded_strong (s : State) (pa n : Nat) : (s.dropLanded pa n).strong = s.strong := rfl
@[simp] theorem State.dropLanded_tlb (s : State) (pa n : Nat) : (s.dropLanded pa n).tlb = s.tlb := rfl
@[simp] theorem State.dropLanded_barriers (s : State) (pa n : Nat) : (s.dropLanded pa n).barriers = s.barriers := rfl
@[simp] theorem State.dropLanded_copies (s : State) (pa n : Nat) : (s.dropLanded pa n).copies = s.copies := rfl
@[simp] theorem State.dropLanded_seals (s : State) (pa n : Nat) : (s.dropLanded pa n).seals = s.seals := rfl
@[simp] theorem State.dropLanded_nextOp (s : State) (pa n : Nat) : (s.dropLanded pa n).nextOp = s.nextOp := rfl
@[simp] theorem State.dropLanded_rings (s : State) (pa n : Nat) : (s.dropLanded pa n).rings = s.rings := rfl
@[simp] theorem State.dropLanded_linkUp (s : State) (pa n : Nat) : (s.dropLanded pa n).linkUp = s.linkUp := rfl
@[simp] theorem State.dropLanded_binds (s : State) (pa n : Nat) : (s.dropLanded pa n).binds = s.binds := rfl
@[simp] theorem State.dropLanded_teams (s : State) (pa n : Nat) : (s.dropLanded pa n).teams = s.teams := rfl
@[simp] theorem State.dropLanded_launches (s : State) (pa n : Nat) : (s.dropLanded pa n).launches = s.launches := rfl
@[simp] theorem State.dropLanded_launchNumbers (s : State) (pa n : Nat) : (s.dropLanded pa n).launchNumbers = s.launchNumbers := rfl
@[simp] theorem State.dropLanded_ports (s : State) (pa n : Nat) : (s.dropLanded pa n).ports = s.ports := rfl
@[simp] theorem State.dropLanded_layout (s : State) (pa n : Nat) : (s.dropLanded pa n).layout = s.layout := rfl
@[simp] theorem State.dropLanded_keys (s : State) (pa n : Nat) : (s.dropLanded pa n).keys = s.keys := rfl
@[simp] theorem State.dropLanded_mailbox (s : State) (pa n : Nat) : (s.dropLanded pa n).mailbox = s.mailbox := rfl
@[simp] theorem State.dropLanded_sessions (s : State) (pa n : Nat) : (s.dropLanded pa n).sessions = s.sessions := rfl
@[simp] theorem State.dropLanded_accounts (s : State) (pa n : Nat) : (s.dropLanded pa n).accounts = s.accounts := rfl
@[simp] theorem State.dropLanded_counts (s : State) (pa n : Nat) : (s.dropLanded pa n).counts = s.counts := rfl
@[simp] theorem State.dropLanded_pageCounters (s : State) (pa n : Nat) : (s.dropLanded pa n).pageCounters = s.pageCounters := rfl
@[simp] theorem State.dropLanded_pageQueues (s : State) (pa n : Nat) : (s.dropLanded pa n).pageQueues = s.pageQueues := rfl
@[simp] theorem State.dropLanded_promotions (s : State) (pa n : Nat) : (s.dropLanded pa n).promotions = s.promotions := rfl
@[simp] theorem State.dropLanded_nextPromotion (s : State) (pa n : Nat) : (s.dropLanded pa n).nextPromotion = s.nextPromotion := rfl
@[simp] theorem State.dropLanded_boot (s : State) (pa n : Nat) : (s.dropLanded pa n).boot = s.boot := rfl
@[simp] theorem State.dropLanded_units (s : State) (pa n : Nat) : (s.dropLanded pa n).units = s.units := rfl
@[simp] theorem State.dropLanded_islands (s : State) (pa n : Nat) : (s.dropLanded pa n).islands = s.islands := rfl
@[simp] theorem State.dropLanded_reports (s : State) (pa n : Nat) : (s.dropLanded pa n).reports = s.reports := rfl
@[simp] theorem State.dropLanded_hostRead (s : State) (pa n : Nat) : (s.dropLanded pa n).hostRead = s.hostRead := rfl
@[simp] theorem State.dropLanded_agenda (s : State) (pa n : Nat) : (s.dropLanded pa n).agenda = s.agenda := rfl
@[simp] theorem State.dropLanded_pace (s : State) (pa n : Nat) : (s.dropLanded pa n).pace = s.pace := rfl
@[simp] theorem State.dropLanded_tick (s : State) (pa n : Nat) : (s.dropLanded pa n).tick = s.tick := rfl

end Sys2Proof.Machine
end

