-- ==== Sys2Proof/Laws/Memory.lean ====
section
/-!
SUPPORT. Memory (R5, R20): its canonical form is kept by every operation, a read after a write to the same byte gives the byte
written, a write leaves every other byte alone, and equal bytes are equal memories.
-/
namespace Sys2Proof.Machine

/-- A list that is canonical from `n` on lists nothing below `n`. -/
theorem cellGet_below : ∀ (l : List Host.Cell) (n x : Nat), canonicalFrom n l = true → x < n → cellGet l x = Memory.blank
  | [], _, _, _, _ => rfl
  | (a, b) :: rest, n, x, h, hx => by
    simp only [canonicalFrom, Bool.and_eq_true, decide_eq_true_eq] at h
    obtain ⟨⟨h1, _⟩, h3⟩ := h
    rw [cellGet, if_neg (by omega)]
    exact cellGet_below rest (a + 1) x h3 (by omega)

/-- The canonical form from a place on holds from every earlier place on. -/
theorem canonicalFrom_mono : ∀ (l : List Host.Cell) (m n : Nat), m ≤ n → canonicalFrom n l = true → canonicalFrom m l = true
  | [], _, _, _, _ => rfl
  | (a, b) :: rest, m, n, hmn, h => by
    simp only [canonicalFrom, Bool.and_eq_true, decide_eq_true_eq] at h ⊢
    exact ⟨⟨by omega, h.1.2⟩, h.2⟩

/-- Setting a byte keeps the canonical form. -/
theorem canonicalFrom_cellSet : ∀ (l : List Host.Cell) (n x : Nat) (y : Byte), canonicalFrom n l = true → n ≤ x →
    canonicalFrom n (cellSet l x y) = true
  | [], n, x, y, _, hx => by
    unfold cellSet
    split
    · rfl
    · simp_all [canonicalFrom]
  | (a, b) :: rest, n, x, y, h, hx => by
    have h' := h
    simp only [canonicalFrom, Bool.and_eq_true, decide_eq_true_eq] at h
    obtain ⟨⟨h1, h2⟩, h3⟩ := h
    unfold cellSet
    split
    · split
      · exact h'
      · next hlt hy =>
        simp only [canonicalFrom, Bool.and_eq_true, decide_eq_true_eq]
        exact ⟨⟨hx, hy⟩, ⟨by omega, h2⟩, h3⟩
    · split
      · split
        · exact canonicalFrom_mono rest n (a + 1) (by omega) h3
        · next hy =>
          simp only [canonicalFrom, Bool.and_eq_true, decide_eq_true_eq]
          exact ⟨⟨h1, hy⟩, h3⟩
      · simp only [canonicalFrom, Bool.and_eq_true, decide_eq_true_eq]
        exact ⟨⟨h1, h2⟩, canonicalFrom_cellSet rest (a + 1) x y h3 (by omega)⟩

/-- What a byte reads as after one byte was set. -/
theorem cellGet_cellSet : ∀ (l : List Host.Cell) (n x z : Nat) (y : Byte), canonicalFrom n l = true →
    cellGet (cellSet l x y) z = if z = x then y else cellGet l z
  | [], _, x, z, y, _ => by
    unfold cellSet
    split
    · next hy => simp [cellGet, hy]
    · simp only [cellGet, eq_comm]
  | (a, b) :: rest, n, x, z, y, h => by
    simp only [canonicalFrom, Bool.and_eq_true, decide_eq_true_eq] at h
    obtain ⟨⟨_, _⟩, h3⟩ := h
    unfold cellSet
    split
    · next hlt =>
      split
      · next hy =>
        split
        · next hz => rw [cellGet, if_neg (by omega), cellGet_below rest (a + 1) z h3 (by omega), hy]
        · rfl
      · rw [cellGet]; simp only [eq_comm]
    · split
      · next hxa =>
        subst hxa
        split
        · next hy =>
          split
          · next hz => rw [hz, cellGet_below rest (x + 1) x h3 (by omega), hy]
          · next hz => rw [cellGet, if_neg (fun e => hz e.symm)]
        · rw [cellGet, cellGet]
          by_cases hz : z = x
          · simp [hz]
          · simp [hz, Ne.symm hz]
      · next hlt hxa =>
        rw [cellGet, cellGet, cellGet_cellSet rest (a + 1) x z y h3]
        by_cases hz : a = z
        · subst hz; simp [Ne.symm hxa]
        · simp [hz]

/-- A write of one byte keeps the canonical form. -/
theorem Memory.wf_set {m : Memory} (a : Nat) (b : Byte) (h : m.wf = true) : (m.set a b).wf = true :=
  canonicalFrom_cellSet m.cells 0 a b h (Nat.zero_le a)

/-- A part of a canonical list is canonical. -/
theorem canonicalFrom_filter (f : Host.Cell → Bool) : ∀ (l : List Host.Cell) (n : Nat), canonicalFrom n l = true →
    canonicalFrom n (l.filter f) = true
  | [], _, _ => rfl
  | (a, b) :: rest, n, h => by
    have h' := h
    simp only [canonicalFrom, Bool.and_eq_true, decide_eq_true_eq] at h
    rw [List.filter_cons]
    split
    · simp only [canonicalFrom, Bool.and_eq_true, decide_eq_true_eq]
      exact ⟨h.1, canonicalFrom_filter f rest (a + 1) h.2⟩
    · exact canonicalFrom_filter f rest n (canonicalFrom_mono rest n (a + 1) (by omega) h.2)

/-- Setting bytes one after the other keeps the canonical form. -/
theorem Memory.wf_setAll : ∀ (l : List Host.Cell) (m : Memory), m.wf = true → (l.foldl (fun m c => m.set c.1 c.2) m).wf = true
  | [], _, h => h
  | c :: l, _, h => Memory.wf_setAll l _ (Memory.wf_set c.1 c.2 h)

/-- A read of one byte after a write of one byte. -/
theorem Memory.get_set {m : Memory} (a x : Nat) (b : Byte) (h : m.wf = true) :
    (m.set a b).get x = if x = a then b else m.get x :=
  cellGet_cellSet m.cells 0 a x b h

/-- A write of bytes keeps the canonical form. -/
theorem Memory.wf_write : ∀ (bs : List Byte) (m : Memory) (a : Nat), m.wf = true → (m.write a bs).wf = true
  | [], _, _, h => h
  | _ :: bs, _, a, h => Memory.wf_write bs _ (a + 1) (Memory.wf_set a _ h)

/-- A byte outside a write reads as before. -/
theorem Memory.get_write_outside : ∀ (bs : List Byte) (m : Memory) (a x : Nat), m.wf = true →
    (x < a ∨ a + bs.length ≤ x) → (m.write a bs).get x = m.get x
  | [], _, _, _, _, _ => rfl
  | b :: bs, m, a, x, h, hx => by
    simp only [List.length_cons] at hx
    rw [Memory.write, Memory.get_write_outside bs _ (a + 1) x (Memory.wf_set a b h) (by omega), Memory.get_set a x b h,
      if_neg (by omega)]

/-- A byte inside a write reads as written. -/
theorem Memory.get_write_inside : ∀ (bs : List Byte) (m : Memory) (a i : Nat) (hi : i < bs.length), m.wf = true →
    (m.write a bs).get (a + i) = bs[i]
  | b :: bs, m, a, 0, _, h => by
    rw [Memory.write, Memory.get_write_outside bs _ (a + 1) (a + 0) (Memory.wf_set a b h) (by omega), Memory.get_set a _ b h]
    simp
  | b :: bs, m, a, i + 1, hi, h => by
    rw [Memory.write, show a + (i + 1) = a + 1 + i by omega,
      Memory.get_write_inside bs _ (a + 1) i (by simpa using hi) (Memory.wf_set a b h)]
    simp

/-- Reading back what was just written. -/
theorem Memory.bytes_write : ∀ (bs : List Byte) (m : Memory) (a : Nat), m.wf = true → (m.write a bs).bytes a bs.length = bs
  | [], _, _, _ => rfl
  | b :: bs, m, a, h => by
    rw [List.length_cons, Memory.bytes, Memory.write, Memory.bytes_write bs _ (a + 1) (Memory.wf_set a b h),
      Memory.get_write_outside bs _ (a + 1) a (Memory.wf_set a b h) (by omega), Memory.get_set a a b h]
    simp

/-- Memories in canonical form that read alike everywhere are equal. -/
theorem cells_ext : ∀ (l k : List Host.Cell) (n : Nat), canonicalFrom n l = true → canonicalFrom n k = true →
    (∀ x, cellGet l x = cellGet k x) → l = k
  | [], [], _, _, _, _ => rfl
  | [], (a, b) :: rest, _, _, hk, he => by
    simp only [canonicalFrom, Bool.and_eq_true, decide_eq_true_eq] at hk
    have := he a
    simp only [cellGet, if_true] at this
    exact absurd this.symm hk.1.2
  | (a, b) :: rest, [], _, hl, _, he => by
    simp only [canonicalFrom, Bool.and_eq_true, decide_eq_true_eq] at hl
    have := he a
    simp only [cellGet, if_true] at this
    exact absurd this hl.1.2
  | (a, b) :: l, (c, d) :: k, n, hl, hk, he => by
    simp only [canonicalFrom, Bool.and_eq_true, decide_eq_true_eq] at hl hk
    have hac : a = c := by
      rcases Nat.lt_trichotomy a c with h | h | h
      · have := he a
        simp only [cellGet, if_true, if_neg (show ¬c = a by omega), cellGet_below k (c + 1) a hk.2 (by omega)] at this
        exact absurd this hl.1.2
      · exact h
      · have := he c
        simp only [cellGet, if_true, if_neg (show ¬a = c by omega), cellGet_below l (a + 1) c hl.2 (by omega)] at this
        exact absurd this.symm hk.1.2
    subst hac
    have hbd := he a
    simp only [cellGet, if_true] at hbd
    subst hbd
    congr 1
    refine cells_ext l k (a + 1) hl.2 hk.2 (fun x => ?_)
    by_cases hx : x < a + 1
    · rw [cellGet_below l (a + 1) x hl.2 hx, cellGet_below k (a + 1) x hk.2 hx]
    · have := he x
      simpa only [cellGet, if_neg (show ¬a = x by omega)] using this

/-- Equal bytes are equal memories. -/
theorem Memory.ext_get {m k : Memory} (hm : m.wf = true) (hk : k.wf = true) (h : ∀ x, m.get x = k.get x) : m = k := by
  cases m; cases k
  congr 1
  exact cells_ext _ _ 0 hm hk h

/-- The number of bytes that a read answers. -/
@[simp] theorem Memory.length_bytes : ∀ (n : Nat) (m : Memory) (a : Nat), (m.bytes a n).length = n
  | 0, _, _ => rfl
  | n + 1, m, a => by rw [Memory.bytes, List.length_cons, Memory.length_bytes n]

/-- The number of bytes of a little-endian number. -/
@[simp] theorem length_leBytes : ∀ (n x : Nat), (leBytes n x).length = n
  | 0, _ => rfl
  | n + 1, x => by rw [leBytes, List.length_cons, length_leBytes n]

/-- A number written as bytes reads back, kept to its width. -/
theorem leNat_leBytes : ∀ (n x : Nat), leNat (leBytes n x) = x % 2 ^ (8 * n)
  | 0, x => by simp [leBytes, leNat, Nat.mod_one]
  | n + 1, x => by
    rw [leBytes, leNat, leNat_leBytes n, BitVec.toNat_ofNat, show 8 * (n + 1) = 8 + 8 * n by omega, Nat.pow_add, Nat.mod_mul]

end Sys2Proof.Machine
end

