-- ==== Sys2Proof/Laws/Access.lean ====
section
/-!
SUPPORT. What an access does besides its own bytes: `touch` changes only memory, the TLB and, with the leaf, what is known of strong
accesses and which bytes are unpredictable; the count of a remote access only memory, that, and the page counters with their queues; a check only
what is known of lines.
-/
namespace Sys2Proof.Machine

open Sys2Proof.Safety

/-- A list of unpredictable ranges changes in `addWild` alone. -/
theorem State.addWild_eq (s : State) (pa n : Nat) : s.addWild pa n = { s with wild := (s.addWild pa n).wild } := by
  unfold State.addWild
  split <;> rfl

/-- The same of `addWildBytes`. -/
theorem State.addWildBytes_eq (s : State) (bs : List Nat) : s.addWildBytes bs = { s with wild := (s.addWildBytes bs).wild } := by
  induction bs generalizing s with
  | nil => rfl
  | cons b bs ih =>
    show (s.addWild b 1).addWildBytes bs = { s with wild := ((s.addWild b 1).addWildBytes bs).wild }
    rw [ih, State.addWild_eq]

@[simp] theorem State.addWildBytes_mem (s : State) (bs : List Nat) : (s.addWildBytes bs).mem = s.mem := by rw [State.addWildBytes_eq]

@[simp] theorem State.noteStrong_mem (s : State) (pa n : Nat) : (s.noteStrong pa n).mem = s.mem := rfl
@[simp] theorem State.noteStrong_cur (s : State) (pa n : Nat) : (s.noteStrong pa n).cur = s.cur := rfl
@[simp] theorem State.noteStrong_others (s : State) (pa n : Nat) : (s.noteStrong pa n).others = s.others := rfl
@[simp] theorem State.noteStrong_tlb (s : State) (pa n : Nat) : (s.noteStrong pa n).tlb = s.tlb := rfl

/-- Caching a translation changes the TLB alone. -/
theorem State.cacheLeaf_eq (s : State) (c : Ctx) (va : Nat) (l : Leaf) : s.cacheLeaf c va l = { s with tlb := (s.cacheLeaf c va l).tlb } := by
  unfold State.cacheLeaf
  split <;> rfl

/-- Setting bits of a leaf changes memory, what is known of strong accesses and which bytes are unpredictable. -/
theorem State.setAD_eq (s : State) (at_ : Nat) (bits : Word) :
    s.setAD at_ bits =
      { s with
        mem := (s.setAD at_ bits).mem, wild := (s.setAD at_ bits).wild, sizes := (s.setAD at_ bits).sizes, strong := (s.setAD at_ bits).strong } := by
  unfold State.setAD
  rw [State.addWildBytes_eq]
  rfl

/-- `touch` changes memory, the TLB and, where it updates the leaf, what is known of strong accesses and which bytes are unpredictable. -/
theorem State.touch_eq (s : State) (c : Ctx) (va : Nat) (l : Leaf) (w : Bool) :
    s.touch c va l w =
      { s with
        mem := (s.touch c va l w).mem, tlb := (s.touch c va l w).tlb, wild := (s.touch c va l w).wild
        sizes := (s.touch c va l w).sizes, strong := (s.touch c va l w).strong } := by
  unfold State.touch
  dsimp only
  rw [State.cacheLeaf_eq]
  split
  · rfl
  · rw [State.setAD_eq]

/-- Where the leaf holds the bits that an access sets, `touch` changes the TLB alone. -/
theorem State.touch_set (s : State) (c : Ctx) (va : Nat) {l : Leaf} {w : Bool} (h : bitsAD w &&& ~~~l.word = 0) :
    s.touch c va l w = { s with tlb := (s.touch c va l w).tlb } := by
  unfold State.touch
  dsimp only
  rw [if_pos h, State.cacheLeaf_eq]

/-- Fewer than 32 bytes cover no sector in full. -/
theorem fullSectors_short {pa n : Nat} (h : n < 32) : fullSectors pa n = [] := by
  rw [fullSectors, List.filter_eq_nil_iff]
  intro x _
  simp only [decide_eq_true_eq]
  omega

/-- A write of fewer than 32 bytes changes memory and which bytes are unpredictable. -/
theorem State.put_short {s : State} {pa : Nat} {bs : List Byte} (h : bs.length < 32) :
    s.put pa bs = { s with mem := (s.put pa bs).mem, wild := (s.put pa bs).wild } := by
  simp [State.put, fullSectors_short h]

/-- The count of a remote access changes memory, which bytes are unpredictable, the page counters with their queues and the partition's counts
alone. -/
theorem State.countRemote_eq (s : State) (frame source : Nat) :
    s.countRemote frame source =
      { s with
        mem := (s.countRemote frame source).mem, pageCounters := (s.countRemote frame source).pageCounters
        wild := (s.countRemote frame source).wild
        counts := (s.countRemote frame source).counts, pageQueues := (s.countRemote frame source).pageQueues } := by
  unfold State.countRemote
  dsimp only
  cases s.frameOwner frame with
  | none => rfl
  | some part =>
    dsimp only
    cases s.pageQueues.find? (fun q => q.part == part) with
    | none => rfl
    | some q =>
      dsimp only
      split
      · rfl
      · split
        · rfl
        · rw [State.put_short (by simp), State.put_short (by simp [notification])]

@[simp] theorem State.touch_cur (s : State) (c : Ctx) (va : Nat) (l : Leaf) (w : Bool) : (s.touch c va l w).cur = s.cur := by
  rw [State.touch_eq]

@[simp] theorem State.touch_others (s : State) (c : Ctx) (va : Nat) (l : Leaf) (w : Bool) : (s.touch c va l w).others = s.others := by
  rw [State.touch_eq]

@[simp] theorem State.touch_poison (s : State) (c : Ctx) (va : Nat) (l : Leaf) (w : Bool) : (s.touch c va l w).poison = s.poison := by
  rw [State.touch_eq]

@[simp] theorem State.touch_badBytes (s : State) (c : Ctx) (va : Nat) (l : Leaf) (w : Bool) : (s.touch c va l w).badBytes = s.badBytes := by
  rw [State.touch_eq]

@[simp] theorem State.touch_lines (s : State) (c : Ctx) (va : Nat) (l : Leaf) (w : Bool) : (s.touch c va l w).lines = s.lines := by
  rw [State.touch_eq]

@[simp] theorem State.touch_barriers (s : State) (c : Ctx) (va : Nat) (l : Leaf) (w : Bool) : (s.touch c va l w).barriers = s.barriers := by
  rw [State.touch_eq]

@[simp] theorem State.touch_copies (s : State) (c : Ctx) (va : Nat) (l : Leaf) (w : Bool) : (s.touch c va l w).copies = s.copies := by
  rw [State.touch_eq]

@[simp] theorem State.touch_seals (s : State) (c : Ctx) (va : Nat) (l : Leaf) (w : Bool) : (s.touch c va l w).seals = s.seals := by
  rw [State.touch_eq]

@[simp] theorem State.touch_nextOp (s : State) (c : Ctx) (va : Nat) (l : Leaf) (w : Bool) : (s.touch c va l w).nextOp = s.nextOp := by
  rw [State.touch_eq]

@[simp] theorem State.touch_rings (s : State) (c : Ctx) (va : Nat) (l : Leaf) (w : Bool) : (s.touch c va l w).rings = s.rings := by
  rw [State.touch_eq]

@[simp] theorem State.touch_linkUp (s : State) (c : Ctx) (va : Nat) (l : Leaf) (w : Bool) : (s.touch c va l w).linkUp = s.linkUp := by
  rw [State.touch_eq]

@[simp] theorem State.touch_binds (s : State) (c : Ctx) (va : Nat) (l : Leaf) (w : Bool) : (s.touch c va l w).binds = s.binds := by
  rw [State.touch_eq]

@[simp] theorem State.touch_teams (s : State) (c : Ctx) (va : Nat) (l : Leaf) (w : Bool) : (s.touch c va l w).teams = s.teams := by
  rw [State.touch_eq]

@[simp] theorem State.touch_launches (s : State) (c : Ctx) (va : Nat) (l : Leaf) (w : Bool) : (s.touch c va l w).launches = s.launches := by
  rw [State.touch_eq]

@[simp] theorem State.touch_launchNumbers (s : State) (c : Ctx) (va : Nat) (l : Leaf) (w : Bool) : (s.touch c va l w).launchNumbers = s.launchNumbers := by
  rw [State.touch_eq]

@[simp] theorem State.touch_ports (s : State) (c : Ctx) (va : Nat) (l : Leaf) (w : Bool) : (s.touch c va l w).ports = s.ports := by
  rw [State.touch_eq]

@[simp] theorem State.touch_layout (s : State) (c : Ctx) (va : Nat) (l : Leaf) (w : Bool) : (s.touch c va l w).layout = s.layout := by
  rw [State.touch_eq]

@[simp] theorem State.touch_keys (s : State) (c : Ctx) (va : Nat) (l : Leaf) (w : Bool) : (s.touch c va l w).keys = s.keys := by
  rw [State.touch_eq]

@[simp] theorem State.touch_mailbox (s : State) (c : Ctx) (va : Nat) (l : Leaf) (w : Bool) : (s.touch c va l w).mailbox = s.mailbox := by
  rw [State.touch_eq]

@[simp] theorem State.touch_sessions (s : State) (c : Ctx) (va : Nat) (l : Leaf) (w : Bool) : (s.touch c va l w).sessions = s.sessions := by
  rw [State.touch_eq]

@[simp] theorem State.touch_accounts (s : State) (c : Ctx) (va : Nat) (l : Leaf) (w : Bool) : (s.touch c va l w).accounts = s.accounts := by
  rw [State.touch_eq]

@[simp] theorem State.touch_counts (s : State) (c : Ctx) (va : Nat) (l : Leaf) (w : Bool) : (s.touch c va l w).counts = s.counts := by
  rw [State.touch_eq]

@[simp] theorem State.touch_pageCounters (s : State) (c : Ctx) (va : Nat) (l : Leaf) (w : Bool) : (s.touch c va l w).pageCounters = s.pageCounters := by
  rw [State.touch_eq]

@[simp] theorem State.touch_pageQueues (s : State) (c : Ctx) (va : Nat) (l : Leaf) (w : Bool) : (s.touch c va l w).pageQueues = s.pageQueues := by
  rw [State.touch_eq]

@[simp] theorem State.touch_promotions (s : State) (c : Ctx) (va : Nat) (l : Leaf) (w : Bool) : (s.touch c va l w).promotions = s.promotions := by
  rw [State.touch_eq]

@[simp] theorem State.touch_nextPromotion (s : State) (c : Ctx) (va : Nat) (l : Leaf) (w : Bool) : (s.touch c va l w).nextPromotion = s.nextPromotion := by
  rw [State.touch_eq]

@[simp] theorem State.touch_boot (s : State) (c : Ctx) (va : Nat) (l : Leaf) (w : Bool) : (s.touch c va l w).boot = s.boot := by
  rw [State.touch_eq]

@[simp] theorem State.touch_units (s : State) (c : Ctx) (va : Nat) (l : Leaf) (w : Bool) : (s.touch c va l w).units = s.units := by
  rw [State.touch_eq]

@[simp] theorem State.touch_islands (s : State) (c : Ctx) (va : Nat) (l : Leaf) (w : Bool) : (s.touch c va l w).islands = s.islands := by
  rw [State.touch_eq]

@[simp] theorem State.touch_reports (s : State) (c : Ctx) (va : Nat) (l : Leaf) (w : Bool) : (s.touch c va l w).reports = s.reports := by
  rw [State.touch_eq]

@[simp] theorem State.touch_hostRead (s : State) (c : Ctx) (va : Nat) (l : Leaf) (w : Bool) : (s.touch c va l w).hostRead = s.hostRead := by
  rw [State.touch_eq]

@[simp] theorem State.touch_agenda (s : State) (c : Ctx) (va : Nat) (l : Leaf) (w : Bool) : (s.touch c va l w).agenda = s.agenda := by
  rw [State.touch_eq]

@[simp] theorem State.touch_pace (s : State) (c : Ctx) (va : Nat) (l : Leaf) (w : Bool) : (s.touch c va l w).pace = s.pace := by
  rw [State.touch_eq]

@[simp] theorem State.touch_tick (s : State) (c : Ctx) (va : Nat) (l : Leaf) (w : Bool) : (s.touch c va l w).tick = s.tick := by
  rw [State.touch_eq]

@[simp] theorem State.countRemote_cur (s : State) (frame source : Nat) : (s.countRemote frame source).cur = s.cur := by
  rw [State.countRemote_eq]

@[simp] theorem State.countRemote_others (s : State) (frame source : Nat) : (s.countRemote frame source).others = s.others := by
  rw [State.countRemote_eq]

@[simp] theorem State.countRemote_poison (s : State) (frame source : Nat) : (s.countRemote frame source).poison = s.poison := by
  rw [State.countRemote_eq]

@[simp] theorem State.countRemote_badBytes (s : State) (frame source : Nat) : (s.countRemote frame source).badBytes = s.badBytes := by
  rw [State.countRemote_eq]

@[simp] theorem State.countRemote_sizes (s : State) (frame source : Nat) : (s.countRemote frame source).sizes = s.sizes := by
  rw [State.countRemote_eq]

@[simp] theorem State.countRemote_lines (s : State) (frame source : Nat) : (s.countRemote frame source).lines = s.lines := by
  rw [State.countRemote_eq]

@[simp] theorem State.countRemote_strong (s : State) (frame source : Nat) : (s.countRemote frame source).strong = s.strong := by
  rw [State.countRemote_eq]

@[simp] theorem State.countRemote_tlb (s : State) (frame source : Nat) : (s.countRemote frame source).tlb = s.tlb := by
  rw [State.countRemote_eq]

@[simp] theorem State.countRemote_barriers (s : State) (frame source : Nat) : (s.countRemote frame source).barriers = s.barriers := by
  rw [State.countRemote_eq]

@[simp] theorem State.countRemote_copies (s : State) (frame source : Nat) : (s.countRemote frame source).copies = s.copies := by
  rw [State.countRemote_eq]

@[simp] theorem State.countRemote_seals (s : State) (frame source : Nat) : (s.countRemote frame source).seals = s.seals := by
  rw [State.countRemote_eq]

@[simp] theorem State.countRemote_nextOp (s : State) (frame source : Nat) : (s.countRemote frame source).nextOp = s.nextOp := by
  rw [State.countRemote_eq]

@[simp] theorem State.countRemote_rings (s : State) (frame source : Nat) : (s.countRemote frame source).rings = s.rings := by
  rw [State.countRemote_eq]

@[simp] theorem State.countRemote_linkUp (s : State) (frame source : Nat) : (s.countRemote frame source).linkUp = s.linkUp := by
  rw [State.countRemote_eq]

@[simp] theorem State.countRemote_binds (s : State) (frame source : Nat) : (s.countRemote frame source).binds = s.binds := by
  rw [State.countRemote_eq]

@[simp] theorem State.countRemote_teams (s : State) (frame source : Nat) : (s.countRemote frame source).teams = s.teams := by
  rw [State.countRemote_eq]

@[simp] theorem State.countRemote_launches (s : State) (frame source : Nat) : (s.countRemote frame source).launches = s.launches := by
  rw [State.countRemote_eq]

@[simp] theorem State.countRemote_launchNumbers (s : State) (frame source : Nat) : (s.countRemote frame source).launchNumbers = s.launchNumbers := by
  rw [State.countRemote_eq]

@[simp] theorem State.countRemote_ports (s : State) (frame source : Nat) : (s.countRemote frame source).ports = s.ports := by
  rw [State.countRemote_eq]

@[simp] theorem State.countRemote_layout (s : State) (frame source : Nat) : (s.countRemote frame source).layout = s.layout := by
  rw [State.countRemote_eq]

@[simp] theorem State.countRemote_keys (s : State) (frame source : Nat) : (s.countRemote frame source).keys = s.keys := by
  rw [State.countRemote_eq]

@[simp] theorem State.countRemote_mailbox (s : State) (frame source : Nat) : (s.countRemote frame source).mailbox = s.mailbox := by
  rw [State.countRemote_eq]

@[simp] theorem State.countRemote_sessions (s : State) (frame source : Nat) : (s.countRemote frame source).sessions = s.sessions := by
  rw [State.countRemote_eq]

@[simp] theorem State.countRemote_accounts (s : State) (frame source : Nat) : (s.countRemote frame source).accounts = s.accounts := by
  rw [State.countRemote_eq]

@[simp] theorem State.countRemote_promotions (s : State) (frame source : Nat) : (s.countRemote frame source).promotions = s.promotions := by
  rw [State.countRemote_eq]

@[simp] theorem State.countRemote_nextPromotion (s : State) (frame source : Nat) : (s.countRemote frame source).nextPromotion = s.nextPromotion := by
  rw [State.countRemote_eq]

@[simp] theorem State.countRemote_boot (s : State) (frame source : Nat) : (s.countRemote frame source).boot = s.boot := by
  rw [State.countRemote_eq]

@[simp] theorem State.countRemote_units (s : State) (frame source : Nat) : (s.countRemote frame source).units = s.units := by
  rw [State.countRemote_eq]

@[simp] theorem State.countRemote_islands (s : State) (frame source : Nat) : (s.countRemote frame source).islands = s.islands := by
  rw [State.countRemote_eq]

@[simp] theorem State.countRemote_reports (s : State) (frame source : Nat) : (s.countRemote frame source).reports = s.reports := by
  rw [State.countRemote_eq]

@[simp] theorem State.countRemote_hostRead (s : State) (frame source : Nat) : (s.countRemote frame source).hostRead = s.hostRead := by
  rw [State.countRemote_eq]

@[simp] theorem State.countRemote_agenda (s : State) (frame source : Nat) : (s.countRemote frame source).agenda = s.agenda := by
  rw [State.countRemote_eq]

@[simp] theorem State.countRemote_pace (s : State) (frame source : Nat) : (s.countRemote frame source).pace = s.pace := by
  rw [State.countRemote_eq]

@[simp] theorem State.countRemote_tick (s : State) (frame source : Nat) : (s.countRemote frame source).tick = s.tick := by
  rw [State.countRemote_eq]

@[simp] theorem State.noteAccess_cur (s : State) (pa : Nat) : (s.noteAccess pa).cur = s.cur := by
  unfold State.noteAccess
  split <;> simp

@[simp] theorem State.noteAccess_others (s : State) (pa : Nat) : (s.noteAccess pa).others = s.others := by
  unfold State.noteAccess
  split <;> simp

@[simp] theorem State.noteAccess_poison (s : State) (pa : Nat) : (s.noteAccess pa).poison = s.poison := by
  unfold State.noteAccess
  split <;> simp

@[simp] theorem State.noteAccess_badBytes (s : State) (pa : Nat) : (s.noteAccess pa).badBytes = s.badBytes := by
  unfold State.noteAccess
  split <;> simp

@[simp] theorem State.noteAccess_sizes (s : State) (pa : Nat) : (s.noteAccess pa).sizes = s.sizes := by
  unfold State.noteAccess
  split <;> simp

@[simp] theorem State.noteAccess_lines (s : State) (pa : Nat) : (s.noteAccess pa).lines = s.lines := by
  unfold State.noteAccess
  split <;> simp

@[simp] theorem State.noteAccess_strong (s : State) (pa : Nat) : (s.noteAccess pa).strong = s.strong := by
  unfold State.noteAccess
  split <;> simp

@[simp] theorem State.noteAccess_tlb (s : State) (pa : Nat) : (s.noteAccess pa).tlb = s.tlb := by
  unfold State.noteAccess
  split <;> simp

@[simp] theorem State.noteAccess_barriers (s : State) (pa : Nat) : (s.noteAccess pa).barriers = s.barriers := by
  unfold State.noteAccess
  split <;> simp

@[simp] theorem State.noteAccess_copies (s : State) (pa : Nat) : (s.noteAccess pa).copies = s.copies := by
  unfold State.noteAccess
  split <;> simp

@[simp] theorem State.noteAccess_seals (s : State) (pa : Nat) : (s.noteAccess pa).seals = s.seals := by
  unfold State.noteAccess
  split <;> simp

@[simp] theorem State.noteAccess_nextOp (s : State) (pa : Nat) : (s.noteAccess pa).nextOp = s.nextOp := by
  unfold State.noteAccess
  split <;> simp

@[simp] theorem State.noteAccess_rings (s : State) (pa : Nat) : (s.noteAccess pa).rings = s.rings := by
  unfold State.noteAccess
  split <;> simp

@[simp] theorem State.noteAccess_linkUp (s : State) (pa : Nat) : (s.noteAccess pa).linkUp = s.linkUp := by
  unfold State.noteAccess
  split <;> simp

@[simp] theorem State.noteAccess_binds (s : State) (pa : Nat) : (s.noteAccess pa).binds = s.binds := by
  unfold State.noteAccess
  split <;> simp

@[simp] theorem State.noteAccess_teams (s : State) (pa : Nat) : (s.noteAccess pa).teams = s.teams := by
  unfold State.noteAccess
  split <;> simp

@[simp] theorem State.noteAccess_launches (s : State) (pa : Nat) : (s.noteAccess pa).launches = s.launches := by
  unfold State.noteAccess
  split <;> simp

@[simp] theorem State.noteAccess_launchNumbers (s : State) (pa : Nat) : (s.noteAccess pa).launchNumbers = s.launchNumbers := by
  unfold State.noteAccess
  split <;> simp

@[simp] theorem State.noteAccess_ports (s : State) (pa : Nat) : (s.noteAccess pa).ports = s.ports := by
  unfold State.noteAccess
  split <;> simp

@[simp] theorem State.noteAccess_layout (s : State) (pa : Nat) : (s.noteAccess pa).layout = s.layout := by
  unfold State.noteAccess
  split <;> simp

@[simp] theorem State.noteAccess_keys (s : State) (pa : Nat) : (s.noteAccess pa).keys = s.keys := by
  unfold State.noteAccess
  split <;> simp

@[simp] theorem State.noteAccess_mailbox (s : State) (pa : Nat) : (s.noteAccess pa).mailbox = s.mailbox := by
  unfold State.noteAccess
  split <;> simp

@[simp] theorem State.noteAccess_sessions (s : State) (pa : Nat) : (s.noteAccess pa).sessions = s.sessions := by
  unfold State.noteAccess
  split <;> simp

@[simp] theorem State.noteAccess_accounts (s : State) (pa : Nat) : (s.noteAccess pa).accounts = s.accounts := by
  unfold State.noteAccess
  split <;> simp

@[simp] theorem State.noteAccess_promotions (s : State) (pa : Nat) : (s.noteAccess pa).promotions = s.promotions := by
  unfold State.noteAccess
  split <;> simp

@[simp] theorem State.noteAccess_nextPromotion (s : State) (pa : Nat) : (s.noteAccess pa).nextPromotion = s.nextPromotion := by
  unfold State.noteAccess
  split <;> simp

@[simp] theorem State.noteAccess_boot (s : State) (pa : Nat) : (s.noteAccess pa).boot = s.boot := by
  unfold State.noteAccess
  split <;> simp

@[simp] theorem State.noteAccess_units (s : State) (pa : Nat) : (s.noteAccess pa).units = s.units := by
  unfold State.noteAccess
  split <;> simp

@[simp] theorem State.noteAccess_islands (s : State) (pa : Nat) : (s.noteAccess pa).islands = s.islands := by
  unfold State.noteAccess
  split <;> simp

@[simp] theorem State.noteAccess_reports (s : State) (pa : Nat) : (s.noteAccess pa).reports = s.reports := by
  unfold State.noteAccess
  split <;> simp

@[simp] theorem State.noteAccess_hostRead (s : State) (pa : Nat) : (s.noteAccess pa).hostRead = s.hostRead := by
  unfold State.noteAccess
  split <;> simp

@[simp] theorem State.noteAccess_agenda (s : State) (pa : Nat) : (s.noteAccess pa).agenda = s.agenda := by
  unfold State.noteAccess
  split <;> simp

@[simp] theorem State.noteAccess_pace (s : State) (pa : Nat) : (s.noteAccess pa).pace = s.pace := by
  unfold State.noteAccess
  split <;> simp

@[simp] theorem State.noteAccess_tick (s : State) (pa : Nat) : (s.noteAccess pa).tick = s.tick := by
  unfold State.noteAccess
  split <;> simp

@[simp] theorem accessed_cur (s s1 : State) (ea : Word) (l : Leaf) (w : Bool) (pa : Nat) :
    (accessed s s1 ea l w pa).cur = s1.cur := by
  simp [accessed]

@[simp] theorem accessed_others (s s1 : State) (ea : Word) (l : Leaf) (w : Bool) (pa : Nat) :
    (accessed s s1 ea l w pa).others = s1.others := by
  simp [accessed]

@[simp] theorem accessed_poison (s s1 : State) (ea : Word) (l : Leaf) (w : Bool) (pa : Nat) :
    (accessed s s1 ea l w pa).poison = s1.poison := by
  simp [accessed]

@[simp] theorem accessed_badBytes (s s1 : State) (ea : Word) (l : Leaf) (w : Bool) (pa : Nat) :
    (accessed s s1 ea l w pa).badBytes = s1.badBytes := by
  simp [accessed]

@[simp] theorem accessed_lines (s s1 : State) (ea : Word) (l : Leaf) (w : Bool) (pa : Nat) :
    (accessed s s1 ea l w pa).lines = s1.lines := by
  simp [accessed]

@[simp] theorem accessed_barriers (s s1 : State) (ea : Word) (l : Leaf) (w : Bool) (pa : Nat) :
    (accessed s s1 ea l w pa).barriers = s1.barriers := by
  simp [accessed]

@[simp] theorem accessed_copies (s s1 : State) (ea : Word) (l : Leaf) (w : Bool) (pa : Nat) :
    (accessed s s1 ea l w pa).copies = s1.copies := by
  simp [accessed]

@[simp] theorem accessed_seals (s s1 : State) (ea : Word) (l : Leaf) (w : Bool) (pa : Nat) :
    (accessed s s1 ea l w pa).seals = s1.seals := by
  simp [accessed]

@[simp] theorem accessed_nextOp (s s1 : State) (ea : Word) (l : Leaf) (w : Bool) (pa : Nat) :
    (accessed s s1 ea l w pa).nextOp = s1.nextOp := by
  simp [accessed]

@[simp] theorem accessed_rings (s s1 : State) (ea : Word) (l : Leaf) (w : Bool) (pa : Nat) :
    (accessed s s1 ea l w pa).rings = s1.rings := by
  simp [accessed]

@[simp] theorem accessed_linkUp (s s1 : State) (ea : Word) (l : Leaf) (w : Bool) (pa : Nat) :
    (accessed s s1 ea l w pa).linkUp = s1.linkUp := by
  simp [accessed]

@[simp] theorem accessed_binds (s s1 : State) (ea : Word) (l : Leaf) (w : Bool) (pa : Nat) :
    (accessed s s1 ea l w pa).binds = s1.binds := by
  simp [accessed]

@[simp] theorem accessed_teams (s s1 : State) (ea : Word) (l : Leaf) (w : Bool) (pa : Nat) :
    (accessed s s1 ea l w pa).teams = s1.teams := by
  simp [accessed]

@[simp] theorem accessed_launches (s s1 : State) (ea : Word) (l : Leaf) (w : Bool) (pa : Nat) :
    (accessed s s1 ea l w pa).launches = s1.launches := by
  simp [accessed]

@[simp] theorem accessed_launchNumbers (s s1 : State) (ea : Word) (l : Leaf) (w : Bool) (pa : Nat) :
    (accessed s s1 ea l w pa).launchNumbers = s1.launchNumbers := by
  simp [accessed]

@[simp] theorem accessed_ports (s s1 : State) (ea : Word) (l : Leaf) (w : Bool) (pa : Nat) :
    (accessed s s1 ea l w pa).ports = s1.ports := by
  simp [accessed]

@[simp] theorem accessed_layout (s s1 : State) (ea : Word) (l : Leaf) (w : Bool) (pa : Nat) :
    (accessed s s1 ea l w pa).layout = s1.layout := by
  simp [accessed]

@[simp] theorem accessed_keys (s s1 : State) (ea : Word) (l : Leaf) (w : Bool) (pa : Nat) :
    (accessed s s1 ea l w pa).keys = s1.keys := by
  simp [accessed]

@[simp] theorem accessed_mailbox (s s1 : State) (ea : Word) (l : Leaf) (w : Bool) (pa : Nat) :
    (accessed s s1 ea l w pa).mailbox = s1.mailbox := by
  simp [accessed]

@[simp] theorem accessed_sessions (s s1 : State) (ea : Word) (l : Leaf) (w : Bool) (pa : Nat) :
    (accessed s s1 ea l w pa).sessions = s1.sessions := by
  simp [accessed]

@[simp] theorem accessed_accounts (s s1 : State) (ea : Word) (l : Leaf) (w : Bool) (pa : Nat) :
    (accessed s s1 ea l w pa).accounts = s1.accounts := by
  simp [accessed]

@[simp] theorem accessed_promotions (s s1 : State) (ea : Word) (l : Leaf) (w : Bool) (pa : Nat) :
    (accessed s s1 ea l w pa).promotions = s1.promotions := by
  simp [accessed]

@[simp] theorem accessed_nextPromotion (s s1 : State) (ea : Word) (l : Leaf) (w : Bool) (pa : Nat) :
    (accessed s s1 ea l w pa).nextPromotion = s1.nextPromotion := by
  simp [accessed]

@[simp] theorem accessed_boot (s s1 : State) (ea : Word) (l : Leaf) (w : Bool) (pa : Nat) :
    (accessed s s1 ea l w pa).boot = s1.boot := by
  simp [accessed]

@[simp] theorem accessed_units (s s1 : State) (ea : Word) (l : Leaf) (w : Bool) (pa : Nat) :
    (accessed s s1 ea l w pa).units = s1.units := by
  simp [accessed]

@[simp] theorem accessed_islands (s s1 : State) (ea : Word) (l : Leaf) (w : Bool) (pa : Nat) :
    (accessed s s1 ea l w pa).islands = s1.islands := by
  simp [accessed]

@[simp] theorem accessed_reports (s s1 : State) (ea : Word) (l : Leaf) (w : Bool) (pa : Nat) :
    (accessed s s1 ea l w pa).reports = s1.reports := by
  simp [accessed]

@[simp] theorem accessed_hostRead (s s1 : State) (ea : Word) (l : Leaf) (w : Bool) (pa : Nat) :
    (accessed s s1 ea l w pa).hostRead = s1.hostRead := by
  simp [accessed]

@[simp] theorem accessed_agenda (s s1 : State) (ea : Word) (l : Leaf) (w : Bool) (pa : Nat) :
    (accessed s s1 ea l w pa).agenda = s1.agenda := by
  simp [accessed]

@[simp] theorem accessed_pace (s s1 : State) (ea : Word) (l : Leaf) (w : Bool) (pa : Nat) :
    (accessed s s1 ea l w pa).pace = s1.pace := by
  simp [accessed]

@[simp] theorem accessed_tick (s s1 : State) (ea : Word) (l : Leaf) (w : Bool) (pa : Nat) :
    (accessed s s1 ea l w pa).tick = s1.tick := by
  simp [accessed]

/-- An access to a line changes only what is known of lines and which bytes are unpredictable. -/
theorem State.useLine_eq (s : State) (key seen line : Nat) :
    s.useLine key seen line = { s with wild := (s.useLine key seen line).wild, lines := (s.useLine key seen line).lines } := by
  unfold State.useLine
  dsimp only
  split
  · rfl
  · split
    · rfl
    · split
      · rw [State.addWild_eq]
      · rfl

/-- An access to the lines of a span does as well. -/
theorem State.useLines_eq (s : State) (w : Word) (pa n : Nat) :
    s.useLines w pa n = { s with wild := (s.useLines w pa n).wild, lines := (s.useLines w pa n).lines } := by
  unfold State.useLines
  split
  · rfl
  · generalize (List.range _).map _ = l
    induction l generalizing s with
    | nil => rfl
    | cons x l ih => rw [List.foldl_cons, ih, State.useLine_eq]

/-- The checks of a scalar access or a fetch change only what is known of lines and which bytes are unpredictable. -/
theorem State.scalarCheck_eq {s s1 : State} {c : Ctx} {va n : Nat} {need : Need} {r : Except ScalarFail (Nat × Leaf)}
    (h : s.scalarCheck c va n need = (r, s1)) : s1 = { s with wild := s1.wild, lines := s1.lines } := by
  unfold State.scalarCheck at h
  split at h
  · cases h; rfl
  · cases h; rfl
  · dsimp only at h
    repeat' split at h
    all_goals (cases h; first | rfl | exact State.useLines_eq ..)

/-- A read where no byte is unpredictable gives the bytes of memory. -/
theorem State.read_tame {s : State} (h : s.wild = []) (pa n : Nat) : s.read pa n = s.mem.bytes pa n := by
  simp [State.read, h]

/-- An access that reaches its bytes, and whose further check passes, does what its body does. -/
theorem State.scalarAccessIf_reaches {s s1 : State} {ea : Word} {size : Nat} {need : Need} {pa : Nat} {l : Leaf}
    (h : Reaches s ea size need pa l s1) {store : Bool} {extra : State → Nat → Option ScalarFail} {writes : State → Nat → Bool}
    {body : State → Nat → State} (hx : extra s1 pa = none) :
    s.scalarAccessIf ea size need store extra writes body = body (accessed s s1 ea l (writes s1 pa) pa) pa := by
  obtain ⟨h1, h2, h3, h4, h5⟩ := h
  unfold State.scalarAccessIf
  rw [h1, h3]
  have h6 : (leafBit l.word 6 && !s.cur.drained) = false := by
    cases hb : leafBit l.word 6
    · rfl
    · simp [h4 hb]
  simp [h2, h6, h5, hx, accessed]

end Sys2Proof.Machine
end

