-- ==== Sys2Proof/Laws/Encoding.lean ====
section
/-!
SUPPORT. The encoder against the decoder, field by field (R30): what each format of a word gives back of what was packed into it.
-/
namespace Sys2Proof

/-- The low part of two joined bit vectors. -/
theorem low_eq {v w : Nat} (x : BitVec v) (y : BitVec w) : (x ++ y).extractLsb' 0 w = y := by
  ext i hi; simp [BitVec.getLsbD_append, hi]

/-- A field above the low part of two joined bit vectors. -/
theorem high_eq {v w s n : Nat} {x : BitVec v} {y : BitVec w} {r : BitVec n} (h : w ≤ s) (hr : x.extractLsb' (s - w) n = r) :
    (x ++ y).extractLsb' s n = r := by
  rw [← hr]; ext i hi; simp [BitVec.getLsbD_append]; rw [if_neg (by omega)]; congr 1; omega

/-- All of a bit vector. -/
theorem self_eq {w : Nat} (x : BitVec w) : x.extractLsb' 0 w = x := by ext i hi; simp

/-- One packed bit. -/
@[simp] theorem bit1_eq (b : Bool) : (bit1 b == 1#1) = b := by cases b <;> rfl

/-- A bit read where one bit was packed. -/
theorem bitOf_eq {w : BitVec 32} {n : Nat} {b : Bool} (h : w.extractLsb' n 1 = bit1 b) : bitOf w n = b := by
  rw [bitOf, h, bit1_eq]

/-- The major opcode of a packed SR word. -/
@[simp] theorem packSR_op (op : BitVec 6) (fn : BitVec 9) (f : FmtSR) : (packSR op fn f).extractLsb' 26 6 = op :=
  high_eq (by decide) (high_eq (by decide) (high_eq (by decide) (high_eq (by decide) (high_eq (by decide) (high_eq (by decide) (self_eq _))))))

/-- The function of a packed SR word. -/
@[simp] theorem packSR_fn (op : BitVec 6) (fn : BitVec 9) (f : FmtSR) : (packSR op fn f).extractLsb' 0 9 = fn :=
  low_eq _ _

/-- The fields of a packed SR word. -/
@[simp] theorem srOf_packSR (op : BitVec 6) (fn : BitVec 9) (f : FmtSR) : srOf (packSR op fn f) = f := by
  cases f
  unfold srOf
  rw [FmtSR.mk.injEq]
  exact ⟨high_eq (by decide) (high_eq (by decide) (high_eq (by decide) (high_eq (by decide) (high_eq (by decide) (low_eq _ _))))),
    high_eq (by decide) (high_eq (by decide) (high_eq (by decide) (high_eq (by decide) (low_eq _ _)))),
    high_eq (by decide) (high_eq (by decide) (high_eq (by decide) (low_eq _ _))),
    bitOf_eq (high_eq (by decide) (high_eq (by decide) (low_eq _ _))),
    bitOf_eq (high_eq (by decide) (low_eq _ _))⟩

/-- The major opcode of a packed Atomic word. -/
@[simp] theorem packAtomic_op (op : BitVec 6) (aop : BitVec 4) (f : FmtAtomic) : (packAtomic op aop f).extractLsb' 26 6 = op :=
  high_eq (by decide) (high_eq (by decide) (high_eq (by decide) (high_eq (by decide) (high_eq (by decide) (high_eq (by decide) (high_eq (by decide) (high_eq (by decide) (self_eq _))))))))

/-- The operation of a packed Atomic word. -/
@[simp] theorem packAtomic_aop (op : BitVec 6) (aop : BitVec 4) (f : FmtAtomic) : (packAtomic op aop f).extractLsb' 5 4 = aop :=
  high_eq (by decide) (high_eq (by decide) (low_eq _ _))

/-- The fields of a packed Atomic word. -/
@[simp] theorem atomicOf_packAtomic (op : BitVec 6) (aop : BitVec 4) (f : FmtAtomic) : atomicOf (packAtomic op aop f) = f := by
  cases f
  unfold atomicOf
  rw [FmtAtomic.mk.injEq]
  exact ⟨high_eq (by decide) (high_eq (by decide) (high_eq (by decide) (high_eq (by decide) (high_eq (by decide) (high_eq (by decide) (high_eq (by decide) (low_eq _ _))))))),
    high_eq (by decide) (high_eq (by decide) (high_eq (by decide) (high_eq (by decide) (high_eq (by decide) (high_eq (by decide) (low_eq _ _)))))),
    high_eq (by decide) (high_eq (by decide) (high_eq (by decide) (high_eq (by decide) (high_eq (by decide) (low_eq _ _))))),
    bitOf_eq (high_eq (by decide) (high_eq (by decide) (high_eq (by decide) (high_eq (by decide) (low_eq _ _))))),
    bitOf_eq (high_eq (by decide) (high_eq (by decide) (high_eq (by decide) (low_eq _ _)))),
    high_eq (by decide) (low_eq _ _),
    low_eq _ _⟩

/-- The major opcode of a packed Mem word. -/
@[simp] theorem packMem_op (op : BitVec 6) (fn : BitVec 6) (f : FmtMem) : (packMem op fn f).extractLsb' 26 6 = op :=
  high_eq (by decide) (high_eq (by decide) (high_eq (by decide) (high_eq (by decide) (high_eq (by decide) (high_eq (by decide) (high_eq (by decide) (self_eq _)))))))

/-- The function of a packed Mem word. -/
@[simp] theorem packMem_fn (op : BitVec 6) (fn : BitVec 6) (f : FmtMem) : (packMem op fn f).extractLsb' 3 6 = fn :=
  high_eq (by decide) (low_eq _ _)

/-- The fields of a packed Mem word. -/
@[simp] theorem memOf_packMem (op : BitVec 6) (fn : BitVec 6) (f : FmtMem) : memOf (packMem op fn f) = f := by
  cases f
  unfold memOf
  rw [FmtMem.mk.injEq]
  exact ⟨high_eq (by decide) (high_eq (by decide) (high_eq (by decide) (high_eq (by decide) (high_eq (by decide) (high_eq (by decide) (low_eq _ _)))))),
    high_eq (by decide) (high_eq (by decide) (high_eq (by decide) (high_eq (by decide) (high_eq (by decide) (low_eq _ _))))),
    high_eq (by decide) (high_eq (by decide) (high_eq (by decide) (high_eq (by decide) (low_eq _ _)))),
    bitOf_eq (high_eq (by decide) (high_eq (by decide) (high_eq (by decide) (low_eq _ _)))),
    bitOf_eq (high_eq (by decide) (high_eq (by decide) (low_eq _ _))),
    low_eq _ _⟩

/-- The major opcode of a packed Bar word. -/
@[simp] theorem packBar_op (op : BitVec 6) (fn : BitVec 3) (f : FmtBar) : (packBar op fn f).extractLsb' 26 6 = op :=
  high_eq (by decide) (high_eq (by decide) (high_eq (by decide) (high_eq (by decide) (high_eq (by decide) (high_eq (by decide) (high_eq (by decide) (self_eq _)))))))

/-- The function of a packed Bar word. -/
@[simp] theorem packBar_fn (op : BitVec 6) (fn : BitVec 3) (f : FmtBar) : (packBar op fn f).extractLsb' 6 3 = fn :=
  high_eq (by decide) (low_eq _ _)

/-- The fields of a packed Bar word. -/
@[simp] theorem barOf_packBar (op : BitVec 6) (fn : BitVec 3) (f : FmtBar) : barOf (packBar op fn f) = f := by
  cases f
  unfold barOf
  rw [FmtBar.mk.injEq]
  exact ⟨high_eq (by decide) (high_eq (by decide) (high_eq (by decide) (high_eq (by decide) (high_eq (by decide) (high_eq (by decide) (low_eq _ _)))))),
    high_eq (by decide) (high_eq (by decide) (high_eq (by decide) (high_eq (by decide) (high_eq (by decide) (low_eq _ _))))),
    high_eq (by decide) (high_eq (by decide) (high_eq (by decide) (high_eq (by decide) (low_eq _ _)))),
    bitOf_eq (high_eq (by decide) (high_eq (by decide) (high_eq (by decide) (low_eq _ _)))),
    bitOf_eq (high_eq (by decide) (high_eq (by decide) (low_eq _ _))),
    low_eq _ _⟩

/-- The major opcode of a packed SI word. -/
@[simp] theorem packSI_op (op : BitVec 6) (f : FmtSI) : (packSI op f).extractLsb' 26 6 = op :=
  high_eq (by decide) (high_eq (by decide) (high_eq (by decide) (high_eq (by decide) (self_eq _))))

/-- The fields of a packed SI word. -/
@[simp] theorem siOf_packSI (op : BitVec 6) (f : FmtSI) : siOf (packSI op f) = f := by
  cases f
  unfold siOf
  rw [FmtSI.mk.injEq]
  exact ⟨high_eq (by decide) (high_eq (by decide) (high_eq (by decide) (low_eq _ _))),
    high_eq (by decide) (high_eq (by decide) (low_eq _ _)),
    bitOf_eq (high_eq (by decide) (low_eq _ _)),
    low_eq _ _⟩

/-- The major opcode of a packed SU word. -/
@[simp] theorem packSU_op (op : BitVec 6) (f : FmtSU) : (packSU op f).extractLsb' 26 6 = op :=
  high_eq (by decide) (high_eq (by decide) (self_eq _))

/-- The fields of a packed SU word. -/
@[simp] theorem suOf_packSU (op : BitVec 6) (f : FmtSU) : suOf (packSU op f) = f := by
  cases f
  unfold suOf
  rw [FmtSU.mk.injEq]
  exact ⟨high_eq (by decide) (low_eq _ _),
    low_eq _ _⟩

/-- The major opcode of a packed SB word. -/
@[simp] theorem packSB_op (op : BitVec 6) (cond : BitVec 3) (f : FmtSB) : (packSB op cond f).extractLsb' 26 6 = op :=
  high_eq (by decide) (high_eq (by decide) (high_eq (by decide) (high_eq (by decide) (high_eq (by decide) (self_eq _)))))

/-- The condition of a packed SB word. -/
@[simp] theorem packSB_cond (op : BitVec 6) (cond : BitVec 3) (f : FmtSB) : (packSB op cond f).extractLsb' 12 3 = cond :=
  high_eq (by decide) (low_eq _ _)

/-- The fields of a packed SB word. -/
@[simp] theorem sbOf_packSB (op : BitVec 6) (cond : BitVec 3) (f : FmtSB) : sbOf (packSB op cond f) = f := by
  cases f
  unfold sbOf
  rw [FmtSB.mk.injEq]
  exact ⟨high_eq (by decide) (high_eq (by decide) (high_eq (by decide) (high_eq (by decide) (low_eq _ _)))),
    high_eq (by decide) (high_eq (by decide) (high_eq (by decide) (low_eq _ _))),
    bitOf_eq (high_eq (by decide) (high_eq (by decide) (low_eq _ _))),
    low_eq _ _⟩

/-- The major opcode of a packed SJ word. -/
@[simp] theorem packSJ_op (op : BitVec 6) (f : FmtSJ) : (packSJ op f).extractLsb' 26 6 = op :=
  high_eq (by decide) (high_eq (by decide) (self_eq _))

/-- The fields of a packed SJ word. -/
@[simp] theorem sjOf_packSJ (op : BitVec 6) (f : FmtSJ) : sjOf (packSJ op f) = f := by
  cases f
  unfold sjOf
  rw [FmtSJ.mk.injEq]
  exact ⟨high_eq (by decide) (low_eq _ _),
    low_eq _ _⟩

/-- The major opcode of a packed V word. -/
@[simp] theorem packV_op (op : BitVec 6) (fn : BitVec 4) (f : FmtV) : (packV op fn f).extractLsb' 26 6 = op :=
  high_eq (by decide) (high_eq (by decide) (high_eq (by decide) (high_eq (by decide) (high_eq (by decide) (high_eq (by decide) (high_eq (by decide) (high_eq (by decide) (high_eq (by decide) (self_eq _)))))))))

/-- The function of a packed V word. -/
@[simp] theorem packV_fn (op : BitVec 6) (fn : BitVec 4) (f : FmtV) : (packV op fn f).extractLsb' 0 4 = fn :=
  low_eq _ _

/-- The fields of a packed V word. -/
@[simp] theorem vOf_packV (op : BitVec 6) (fn : BitVec 4) (f : FmtV) : vOf (packV op fn f) = { f with fnx := 0 } := by
  cases f
  unfold vOf
  rw [FmtV.mk.injEq]
  exact ⟨high_eq (by decide) (high_eq (by decide) (high_eq (by decide) (high_eq (by decide) (high_eq (by decide) (high_eq (by decide) (high_eq (by decide) (high_eq (by decide) (low_eq _ _)))))))),
    high_eq (by decide) (high_eq (by decide) (high_eq (by decide) (high_eq (by decide) (high_eq (by decide) (high_eq (by decide) (high_eq (by decide) (low_eq _ _))))))),
    high_eq (by decide) (high_eq (by decide) (high_eq (by decide) (high_eq (by decide) (high_eq (by decide) (high_eq (by decide) (low_eq _ _)))))),
    bitOf_eq (high_eq (by decide) (high_eq (by decide) (high_eq (by decide) (high_eq (by decide) (high_eq (by decide) (low_eq _ _)))))),
    bitOf_eq (high_eq (by decide) (high_eq (by decide) (high_eq (by decide) (high_eq (by decide) (low_eq _ _))))),
    high_eq (by decide) (high_eq (by decide) (high_eq (by decide) (low_eq _ _))),
    bitOf_eq (high_eq (by decide) (high_eq (by decide) (low_eq _ _))),
    bitOf_eq (high_eq (by decide) (low_eq _ _)), rfl⟩

/-- The major opcode of a packed VC word. -/
@[simp] theorem packVC_op (op : BitVec 6) (cond : BitVec 4) (f : FmtVC) : (packVC op cond f).extractLsb' 26 6 = op :=
  high_eq (by decide) (high_eq (by decide) (high_eq (by decide) (high_eq (by decide) (high_eq (by decide) (high_eq (by decide) (high_eq (by decide) (high_eq (by decide) (high_eq (by decide) (self_eq _)))))))))

/-- The condition of a packed VC word. -/
@[simp] theorem packVC_cond (op : BitVec 6) (cond : BitVec 4) (f : FmtVC) : (packVC op cond f).extractLsb' 0 4 = cond :=
  low_eq _ _

/-- The fields of a packed VC word. -/
@[simp] theorem vcOf_packVC (op : BitVec 6) (cond : BitVec 4) (f : FmtVC) : vcOf (packVC op cond f) = f := by
  cases f
  unfold vcOf
  rw [FmtVC.mk.injEq]
  exact ⟨high_eq (by decide) (high_eq (by decide) (high_eq (by decide) (high_eq (by decide) (high_eq (by decide) (high_eq (by decide) (high_eq (by decide) (high_eq (by decide) (low_eq _ _)))))))),
    high_eq (by decide) (high_eq (by decide) (high_eq (by decide) (high_eq (by decide) (high_eq (by decide) (high_eq (by decide) (high_eq (by decide) (low_eq _ _))))))),
    high_eq (by decide) (high_eq (by decide) (high_eq (by decide) (high_eq (by decide) (high_eq (by decide) (high_eq (by decide) (low_eq _ _)))))),
    high_eq (by decide) (high_eq (by decide) (high_eq (by decide) (high_eq (by decide) (high_eq (by decide) (low_eq _ _))))),
    bitOf_eq (high_eq (by decide) (high_eq (by decide) (high_eq (by decide) (high_eq (by decide) (low_eq _ _))))),
    high_eq (by decide) (high_eq (by decide) (high_eq (by decide) (low_eq _ _))),
    bitOf_eq (high_eq (by decide) (high_eq (by decide) (low_eq _ _))),
    bitOf_eq (high_eq (by decide) (low_eq _ _))⟩

/-- The major opcode of a packed VP word. -/
@[simp] theorem packVP_op (op : BitVec 6) (fn : BitVec 4) (f : FmtVP) : (packVP op fn f).extractLsb' 26 6 = op :=
  high_eq (by decide) (high_eq (by decide) (high_eq (by decide) (high_eq (by decide) (high_eq (by decide) (high_eq (by decide) (high_eq (by decide) (high_eq (by decide) (self_eq _))))))))

/-- The function of a packed VP word. -/
@[simp] theorem packVP_fn (op : BitVec 6) (fn : BitVec 4) (f : FmtVP) : (packVP op fn f).extractLsb' 0 4 = fn :=
  low_eq _ _

/-- The fields of a packed VP word. -/
@[simp] theorem vpOf_packVP (op : BitVec 6) (fn : BitVec 4) (f : FmtVP) : vpOf (packVP op fn f) = f := by
  cases f
  unfold vpOf
  rw [FmtVP.mk.injEq]
  exact ⟨high_eq (by decide) (high_eq (by decide) (high_eq (by decide) (high_eq (by decide) (high_eq (by decide) (high_eq (by decide) (high_eq (by decide) (low_eq _ _))))))),
    high_eq (by decide) (high_eq (by decide) (high_eq (by decide) (high_eq (by decide) (high_eq (by decide) (high_eq (by decide) (low_eq _ _)))))),
    high_eq (by decide) (high_eq (by decide) (high_eq (by decide) (high_eq (by decide) (high_eq (by decide) (low_eq _ _))))),
    high_eq (by decide) (high_eq (by decide) (high_eq (by decide) (high_eq (by decide) (low_eq _ _)))),
    high_eq (by decide) (high_eq (by decide) (high_eq (by decide) (low_eq _ _))),
    bitOf_eq (high_eq (by decide) (high_eq (by decide) (low_eq _ _))),
    bitOf_eq (high_eq (by decide) (low_eq _ _))⟩

/-- The group selector of a packed word of the memory group (R255). -/
theorem packMem_group (op fn : BitVec 6) (f : FmtMem) : (packMem op fn f).extractLsb' 6 3 = fn.extractLsb' 3 3 := by
  rw [show fn.extractLsb' 3 3 = ((packMem op fn f).extractLsb' 3 6).extractLsb' 3 3 by rw [packMem_fn]]
  ext i hi
  simp only [BitVec.getElem_extractLsb', BitVec.getLsbD_extractLsb']
  rw [show 6 + i = 3 + (3 + i) by omega]
  simp [show 3 + i < 6 by omega]

/-- The function of a packed word of the memory group (R255). -/
theorem packMem_low (op fn : BitVec 6) (f : FmtMem) : (packMem op fn f).extractLsb' 3 3 = fn.extractLsb' 0 3 := by
  rw [show fn.extractLsb' 0 3 = ((packMem op fn f).extractLsb' 3 6).extractLsb' 0 3 by rw [packMem_fn]]
  ext i hi
  simp only [BitVec.getElem_extractLsb', BitVec.getLsbD_extractLsb']
  simp [show i < 6 by omega]

/-- The major opcode of a packed shift. -/
@[simp] theorem packShift_op (sel : BitVec 3) (f : FmtSI) : (packShift sel f).extractLsb' 26 6 = 0x06#6 :=
  high_eq (by decide) (high_eq (by decide) (high_eq (by decide) (high_eq (by decide) (high_eq (by decide) (self_eq _)))))

/-- The selector of a packed shift (R32). -/
@[simp] theorem packShift_sel (sel : BitVec 3) (f : FmtSI) : (packShift sel f).extractLsb' 12 3 = sel :=
  high_eq (by decide) (low_eq _ _)

/-- The fields of a packed shift: the amount has 12 bits (R32). -/
@[simp] theorem shiftOf_packShift (sel : BitVec 3) (f : FmtSI) :
    shiftOf (packShift sel f) = { f with imm := 0#3 ++ f.imm.extractLsb' 0 12 } := by
  cases f
  unfold shiftOf
  rw [FmtSI.mk.injEq]
  exact ⟨high_eq (by decide) (high_eq (by decide) (high_eq (by decide) (high_eq (by decide) (low_eq _ _)))),
    high_eq (by decide) (high_eq (by decide) (high_eq (by decide) (low_eq _ _))),
    bitOf_eq (high_eq (by decide) (high_eq (by decide) (low_eq _ _))),
    congrArg (0#3 ++ ·) (low_eq _ _)⟩

/-- Packing again what a shift's word gave back. -/
theorem packShift_again (sel : BitVec 3) (f : FmtSI) :
    packShift sel { f with imm := 0#3 ++ f.imm.extractLsb' 0 12 } = packShift sel f :=
  congrArg (fun z => 0x06#6 ++ f.gd ++ f.ga ++ bit1 f.sa ++ sel ++ z) (low_eq (0#3) (f.imm.extractLsb' 0 12))

/-- The immediate of a packed SI word. -/
@[simp] theorem packSI_imm (op : BitVec 6) (f : FmtSI) : (packSI op f).extractLsb' 0 15 = f.imm := low_eq _ _

/-- The major opcode of a packed VF word. -/
@[simp] theorem packVF_op (op : BitVec 6) (f : FmtVF) : (packVF op f).extractLsb' 26 6 = op :=
  high_eq (by decide) (high_eq (by decide) (high_eq (by decide) (high_eq (by decide) (high_eq (by decide) (high_eq (by decide) (high_eq (by decide) (self_eq _)))))))

/-- The fields of a packed VF word. -/
@[simp] theorem vfOf_packVF (op : BitVec 6) (f : FmtVF) : vfOf (packVF op f) = f := by
  cases f
  unfold vfOf
  rw [FmtVF.mk.injEq]
  exact ⟨high_eq (by decide) (high_eq (by decide) (high_eq (by decide) (high_eq (by decide) (high_eq (by decide) (high_eq (by decide) (low_eq _ _)))))),
    high_eq (by decide) (high_eq (by decide) (high_eq (by decide) (high_eq (by decide) (low_eq _ _)))),
    high_eq (by decide) (high_eq (by decide) (high_eq (by decide) (low_eq _ _))),
    high_eq (by decide) (high_eq (by decide) (low_eq _ _)),
    high_eq (by decide) (low_eq _ _)⟩

/-- The major opcode of a packed vdesc word. -/
@[simp] theorem packVdesc_op (f : FmtV) : (packVdesc f).extractLsb' 26 6 = 0x37#6 :=
  high_eq (by decide) (high_eq (by decide) (high_eq (by decide) (high_eq (by decide) (high_eq (by decide) (high_eq (by decide) (high_eq (by decide) (high_eq (by decide) (high_eq (by decide) (high_eq (by decide) (self_eq _))))))))))

/-- The path-trace register of a packed vdesc word (R222). -/
@[simp] theorem packVdesc_fnx (f : FmtV) : (packVdesc f).extractLsb' 0 2 = f.fnx := low_eq _ _

/-- The function of a packed vdesc word: its path-trace register under two zero bits (R222). -/
theorem packVdesc_fn (f : FmtV) : (packVdesc f).extractLsb' 0 4 = 0#2 ++ f.fnx := by
  have hh : (packVdesc f).extractLsb' 2 2 = 0#2 := high_eq (by decide) (low_eq _ _)
  have e : (packVdesc f).extractLsb' 0 4 = (packVdesc f).extractLsb' 2 2 ++ (packVdesc f).extractLsb' 0 2 := by
    ext i hi
    rw [BitVec.getElem_append]
    split
    · simp [-packVdesc_fnx]
    · simp [show 2 + (i - 2) = i by omega]
  rw [e, hh, packVdesc_fnx]

/-- The fields of a packed vdesc word. -/
@[simp] theorem vdescOf_packVdesc (f : FmtV) : vdescOf (packVdesc f) = f := by
  cases f
  unfold vdescOf vOf
  rw [FmtV.mk.injEq]
  exact ⟨high_eq (by decide) (high_eq (by decide) (high_eq (by decide) (high_eq (by decide) (high_eq (by decide) (high_eq (by decide) (high_eq (by decide) (high_eq (by decide) (high_eq (by decide) (low_eq _ _))))))))),
    high_eq (by decide) (high_eq (by decide) (high_eq (by decide) (high_eq (by decide) (high_eq (by decide) (high_eq (by decide) (high_eq (by decide) (high_eq (by decide) (low_eq _ _)))))))),
    high_eq (by decide) (high_eq (by decide) (high_eq (by decide) (high_eq (by decide) (high_eq (by decide) (high_eq (by decide) (high_eq (by decide) (low_eq _ _))))))),
    bitOf_eq (high_eq (by decide) (high_eq (by decide) (high_eq (by decide) (high_eq (by decide) (high_eq (by decide) (high_eq (by decide) (low_eq _ _))))))),
    bitOf_eq (high_eq (by decide) (high_eq (by decide) (high_eq (by decide) (high_eq (by decide) (high_eq (by decide) (low_eq _ _)))))),
    high_eq (by decide) (high_eq (by decide) (high_eq (by decide) (high_eq (by decide) (low_eq _ _)))),
    bitOf_eq (high_eq (by decide) (high_eq (by decide) (high_eq (by decide) (low_eq _ _)))),
    bitOf_eq (high_eq (by decide) (high_eq (by decide) (low_eq _ _))), low_eq _ _⟩

end Sys2Proof
end

