-- ==== Sys2Proof/Laws/Keeps.lean ====
section
/-!
SUPPORT. What no running entry changes: the queue, the thread's status, program counter, lengths, type and privileged registers, and the
pace; and memory stays in its canonical form. One lemma for each operation that a description is made of.
-/
namespace Sys2Proof.Machine

/-- What of a thread its running entries leave alone. -/
def Thread.outer (t : Thread) :=
  (t.status, t.queue, t.pc, t.es, t.vl, t.vt, t.priv, t.ppriv, t.busy, t.tvec, t.ptb, t.keydef, t.part, t.colour, t.hsave0, t.hsave1)

/-- `t` keeps what a running entry must keep of `s`. -/
structure Kept (s t : State) : Prop where
  outer : t.cur.outer = s.cur.outer
  pace : t.pace = s.pace
  canonical : s.mem.wf = true → t.mem.wf = true

theorem Kept.refl (s : State) : Kept s s := ⟨rfl, rfl, id⟩

theorem Kept.trans {s t u : State} (h : Kept s t) (k : Kept t u) : Kept s u :=
  ⟨k.outer.trans h.outer, k.pace.trans h.pace, k.canonical ∘ h.canonical⟩

/-- Either way a choice keeps it. -/
theorem kept_ite {p : Prop} [Decidable p] {s t u : State} (h : Kept s t) (k : Kept s u) : Kept s (if p then t else u) := by
  split
  · exact h
  · exact k

/-- A change of the current thread that leaves alone what it must. -/
theorem kept_mod {s : State} {f : Thread → Thread} (h : (f s.cur).outer = s.cur.outer) : Kept s (s.mod f) := ⟨h, rfl, id⟩

theorem kept_foldl {β : Type} {f : State → β → State} (h : ∀ s x, Kept s (f s x)) (l : List β) (s : State) : Kept s (l.foldl f s) := by
  induction l generalizing s with
  | nil => exact .refl _
  | cons x l ih => exact (h s x).trans (ih _)

/-! ## Memory -/

theorem kept_put (s : State) (pa : Nat) (bs : List Byte) : Kept s (s.put pa bs) := ⟨rfl, rfl, Memory.wf_write bs s.mem pa⟩

theorem kept_tock (s : State) : Kept s s.tock := ⟨rfl, rfl, id⟩

theorem kept_addWild (s : State) (pa n : Nat) : Kept s (s.addWild pa n) := by
  rw [State.addWild_eq]
  exact ⟨rfl, rfl, id⟩

theorem kept_addWildBytes (s : State) (bs : List Nat) : Kept s (s.addWildBytes bs) := kept_foldl (fun s b => kept_addWild s b 1) bs s

theorem kept_spoilRings (s : State) (pa n : Nat) : Kept s (s.spoilRings pa n) := by
  unfold State.spoilRings
  split
  · exact (kept_foldl (fun s (w : Nat × Nat) => kept_addWild s w.1 w.2) _ s).trans ⟨rfl, rfl, id⟩
  · exact .refl _

theorem kept_write (s : State) (pa : Nat) (bs : List Byte) : Kept s (s.write pa bs) := by
  refine Kept.trans ((kept_put s pa bs).trans ?_) (kept_spoilRings _ pa bs.length)
  exact ⟨rfl, rfl, id⟩

theorem kept_poisonBytes (s : State) (pa n : Nat) : Kept s (s.poisonBytes pa n) := ⟨rfl, rfl, id⟩

theorem kept_damage (s : State) (pa n : Nat) : Kept s (s.damage pa n) := by
  unfold State.damage
  split <;> exact ⟨rfl, rfl, id⟩

theorem kept_useLines (s : State) (w : Word) (pa n : Nat) : Kept s (s.useLines w pa n) := by
  rw [State.useLines_eq]
  exact ⟨rfl, rfl, id⟩

theorem kept_cacheLeaf (s : State) (c : Ctx) (va : Nat) (l : Leaf) : Kept s (s.cacheLeaf c va l) := by
  rw [State.cacheLeaf_eq]
  exact ⟨rfl, rfl, id⟩

theorem kept_noteStrong (s : State) (pa n : Nat) : Kept s (s.noteStrong pa n) := ⟨rfl, rfl, id⟩

theorem kept_setAD (s : State) (at_ : Nat) (bits : Word) : Kept s (s.setAD at_ bits) :=
  Kept.trans (t := { s with mem := s.mem.write at_ (leBytes 8 (s.mem.num at_ 8 ||| bits.toNat)) }) ⟨rfl, rfl, Memory.wf_write _ s.mem at_⟩
    ((kept_noteStrong _ at_ 8).trans (kept_addWildBytes _ _))

theorem kept_touch (s : State) (c : Ctx) (va : Nat) (l : Leaf) (w : Bool) : Kept s (s.touch c va l w) := by
  unfold State.touch
  dsimp only
  split
  · exact kept_cacheLeaf ..
  · exact (kept_setAD ..).trans (kept_cacheLeaf ..)

theorem kept_touchHeld (s : State) (part ctx va : Nat) (pinned : Option Nat) (w : Bool) : Kept s (s.touchHeld part ctx va pinned w) := by
  unfold State.touchHeld
  dsimp only
  split
  · exact kept_touch ..
  · split
    · exact .refl _
    · exact kept_ite (.refl _) (kept_setAD ..)

theorem kept_countRemote (s : State) (frame source : Nat) : Kept s (s.countRemote frame source) := by
  refine ⟨by rw [State.countRemote_cur], by rw [State.countRemote_pace], fun h => ?_⟩
  unfold State.countRemote
  dsimp only
  split
  · exact h
  · split
    · exact h
    · split
      · exact h
      · split
        · exact h
        · exact Memory.wf_write _ _ _ (Memory.wf_write _ _ _ h)

theorem kept_noteAccess (s : State) (pa : Nat) : Kept s (s.noteAccess pa) := by
  unfold State.noteAccess
  split
  · exact kept_countRemote _ _ _
  · exact .refl _

theorem kept_reachPart (s : State) (c : Ctx) (va : Int) (n : Nat) (need : Need) (block : Option Nat) (oob : Cand) :
    Kept s (s.reachPart c va n need block oob).2 := by
  unfold State.reachPart
  split
  · exact .refl _
  · dsimp only
    cases s.translate c va.toNat with
    | invalid level => exact .refl _
    | refused => exact .refl _
    | leaf l => exact kept_ite (kept_useLines ..) (.refl _)

theorem kept_reachElem (s : State) (c : Ctx) (oob : Int → Cand) (va : Int) (n : Nat) (need : Need) : Kept s (s.reachElem c oob va n need).2 := by
  unfold State.reachElem
  have h := kept_reachPart s c va n need none (oob va)
  generalize s.reachPart c va n need none (oob va) = p at h ⊢
  dsimp only
  split <;> exact h

theorem kept_reachElems (c : Ctx) (oob : Int → Cand) (n : Nat) (need : Need) :
    ∀ (l : List Int) (s : State), Kept s (s.reachElems c oob n need l).2
  | [], s => .refl s
  | va :: l, s => (kept_reachElem s c oob va n need).trans (kept_reachElems c oob n need l _)

theorem kept_reachBlock (s : State) (c : Ctx) (va : Int) (ty : Nat) (need : Need) : Kept s (s.reachBlock c va ty need).2 := by
  unfold State.reachBlock
  split
  · exact .refl _
  · dsimp only
    split
    · exact kept_reachPart ..
    · exact (kept_reachPart ..).trans (kept_reachPart ..)

theorem kept_writeAll (s : State) (ws : List Pending) : Kept s (s.writeAll ws) :=
  (kept_foldl (fun s (w : Pending) => kept_write s w.1 w.2) ws s).trans ⟨rfl, rfl, id⟩

/-! ## A run under way -/

theorem kept_start (s : State) : Kept s (Acc.start s).s := .refl s

theorem kept_failAt (a : Acc) (f : Fail) : Kept a.s (a.failAt f).s := by
  unfold Acc.failAt
  split <;> exact .refl _

theorem kept_failElem (a : Acc) (w i : Nat) (cause : BitVec 8) (sub addr : Nat) : Kept a.s (a.failElem w i cause sub addr).s := kept_failAt a _

theorem kept_trap (a : Acc) (cause : BitVec 8) (addr info : Word) : Kept a.s (a.trap cause addr info).s := by
  unfold Acc.trap
  split <;> exact .refl _

theorem kept_accMod (a : Acc) {f : Thread → Thread} (h : (f a.s.cur).outer = a.s.cur.outer) : Kept a.s (a.mod f).s := kept_mod h

theorem kept_accIte {p : Prop} [Decidable p] {s : State} {a b : Acc} (h : Kept s a.s) (k : Kept s b.s) : Kept s (if p then a else b).s := by
  split
  · exact h
  · exact k

theorem kept_accFoldl {β : Type} {f : Acc → β → Acc} (h : ∀ a x, Kept a.s (f a x).s) (l : List β) (a : Acc) : Kept a.s (l.foldl f a).s := by
  induction l generalizing a with
  | nil => exact .refl _
  | cons x l ih => exact (h a x).trans (ih _)

theorem kept_loop {f : Nat → Acc → Acc} (h : ∀ i a, Kept a.s (f i a).s) : ∀ (n lo : Nat) (a : Acc), Kept a.s (Acc.loop f lo n a).s
  | 0, _, a => .refl a.s
  | n + 1, lo, a => by
    unfold Acc.loop
    split
    · exact (h lo a).trans (kept_loop h n _ _)
    · exact .refl _

theorem kept_walk {β : Type} {f : Nat → Acc → β → Acc × β} (h : ∀ i a x, Kept a.s (f i a x).1.s) :
    ∀ (l : List Nat) (a : Acc) (x : β), Kept a.s (Acc.walk f l a x).1.s
  | [], a, _ => .refl a.s
  | i :: l, a, x => by
    unfold Acc.walk
    split
    · exact (h i a x).trans (kept_walk h l _ _)
    · exact .refl _

theorem outer_setElem (t : Thread) (base w i v : Nat) : (t.setElem base w i v).outer = t.outer := by
  simp only [Thread.setElem, Thread.vwrite]; rfl

theorem kept_setElem (a : Acc) (base w i v : Nat) : Kept a.s (a.setElem base w i v).s := ⟨outer_setElem .., rfl, id⟩

theorem kept_poisonElem (a : Acc) (base w i : Nat) : Kept a.s (a.poisonElem base w i).s := ⟨rfl, rfl, id⟩

theorem outer_pwrite (t : Thread) (p : BitVec 3) (x : BitVec 2048) : (t.pwrite p x).outer = t.outer := by
  unfold Thread.pwrite
  split <;> rfl

theorem kept_setPred (a : Acc) (p : BitVec 3) (i : Nat) (b : Bool) : Kept a.s (a.setPred p i b).s := by
  unfold Acc.setPred
  split
  · exact .refl _
  · exact ⟨outer_pwrite .., rfl, id⟩

theorem outer_gwrite (t : Thread) (r : BitVec 5) (x : Word) : (t.gwrite r x).outer = t.outer := by
  unfold Thread.gwrite
  split <;> rfl

theorem kept_setG (a : Acc) (r : BitVec 5) (x : Word) : Kept a.s (a.setG r x).s := ⟨outer_gwrite .., rfl, id⟩

theorem kept_accept (a : Acc) (view : View) (i : Nat) (rs : List Reach) (extra : List Cand) : Kept a.s (a.accept view i rs extra).s := by
  unfold Acc.accept
  dsimp only
  split
  · exact kept_accIte (.refl _) (kept_failElem ..)
  · split <;> exact .refl _

theorem kept_effective (a : Acc) (c : Ctx) (write : Bool) (rs : List Reach) : Kept a.s (a.effective c write rs).s :=
  kept_foldl (fun s (r : Reach) => (kept_touch s c r.va r.leaf write).trans (kept_noteAccess _ _)) rs a.s

theorem kept_healBlocks (s : State) (l : List Nat) : Kept s (s.healBlocks l) := ⟨rfl, rfl, id⟩

end Sys2Proof.Machine
end

