-- ==== Sys2Proof/Laws/KeepsVector.lean ====
section
/-!
SUPPORT. What a running entry keeps (Laws/Keeps.lean), for the descriptions of majors 0x28 to 0x34: each run leaves alone the queue, the
thread's status, program counter, lengths and privileged registers, and the pace.
-/
namespace Sys2Proof.Machine

/-- A description whose runs, and what it does with nothing to do, keep what a running entry must keep. -/
structure Desc.Keeps (d : Desc) : Prop where
  run : ∀ v view a, Kept a.s (d.run v view a).s
  empty : ∀ v view a, Kept a.s (d.empty v view a).s

/-! ## Flags, errors and side-files -/

theorem kept_note (a : Acc) (i : Nat) (f : BitVec 5) : Kept a.s (a.note i f).s := .refl _

theorem kept_raise (a : Acc) (w i : Nat) (f : BitVec 5) : Kept a.s (a.raise w i f).s := by
  unfold Acc.raise
  dsimp only
  split
  · exact kept_failElem ..
  · exact .refl _

theorem kept_defer (a : Acc) (view : View) (w i : Nat) (sub : Nat := 0) : Kept a.s (a.defer view w i sub).s := by
  unfold Acc.defer
  split <;> exact .refl _

theorem kept_raiseAll (a : Acc) (w : Nat) (l : Raised) : Kept a.s (a.raiseAll w l).s := by
  unfold Acc.raiseAll
  split
  · exact kept_failElem ..
  · exact kept_accFoldl (f := fun a x => a.note _ _) (fun _ _ => kept_note ..) l a

theorem kept_flagFail (a : Acc) (w i : Nat) (l : List (BitVec 5)) : Kept a.s (a.flagFail w i l).s := by
  unfold Acc.flagFail
  split
  · exact kept_failElem ..
  · exact kept_accFoldl (f := fun a x => a.note _ _) (fun _ _ => kept_note ..) l a

theorem outer_sideWrite (t : Thread) (r : Nat) (x : BitVec 512) : (t.sideWrite r x).outer = t.outer := rfl

theorem kept_setSide (a : Acc) (base k x : Nat) : Kept a.s (a.setSide base k x).s := ⟨rfl, rfl, id⟩

theorem kept_forActive (guard : BitVec 3) (gneg : Bool) (v : Nat) (view : View) {body : Nat → Acc → Acc}
    (h : ∀ i a, Kept a.s (body i a).s) (a : Acc) : Kept a.s (forActive guard gneg v view body a).s :=
  kept_loop (fun i a => by
    split
    · exact h i a
    · exact .refl _) _ _ a

/-! ## Element-wise -/

theorem kept_elementStep (view : View) (w : Nat) (srcs : List (Nat × Nat)) (dst : Nat × Nat) (op : Thread → Nat → FRes) (i : Nat)
    (a : Acc) : Kept a.s (elementStep view w srcs dst op i a).s := by
  unfold elementStep
  dsimp only
  split
  · exact kept_failElem ..
  · refine (kept_raise a w i (op a.s.cur i).2).trans ?_
    split
    · exact .refl _
    · refine (kept_setElem _ dst.1 dst.2 i (op a.s.cur i).1).trans ?_
      split
      · exact (kept_poisonElem _ dst.1 dst.2 i).trans (kept_defer ..)
      · exact .refl _

theorem keeps_elementWise (f : FmtV) (ok : Nat → Bool) (binary reads : Bool) (op : Nat → Rm → Nat → Nat → Nat → FRes) :
    (elementWise f ok binary reads op).Keeps :=
  ⟨fun _ _ a => kept_forActive _ _ _ _ (fun _ _ => kept_elementStep ..) a, fun _ _ _ => .refl _⟩

theorem keeps_elementScalar (f : FmtV) (ok : Nat → Bool) (reads : Bool) (op : Nat → Rm → Nat → Nat → Nat → FRes) :
    (elementScalar f ok reads op).Keeps :=
  ⟨fun _ _ a => kept_forActive _ _ _ _ (fun _ _ => kept_elementStep ..) a, fun _ _ _ => .refl _⟩

theorem keeps_convertDesc (f : FmtV) (into : Bool) (rm : Rm → Rm) (sat : Bool) : (convertDesc f into rm sat).Keeps :=
  ⟨fun _ _ a => kept_forActive _ _ _ _ (fun _ _ => kept_elementStep ..) a, fun _ _ _ => .refl _⟩

/-! ## Compares, predicates, permutes -/

theorem kept_setPair (a : Acc) (pt pf : BitVec 3) (i : Nat) (x y : Bool) : Kept a.s (a.setPair pt pf i x y).s :=
  (kept_setPred a pt i x).trans (kept_setPred _ pf i y)

theorem keeps_compareDesc (f : FmtVC) (ok : Nat → Bool) (op : CompareOp) : (compareDesc f ok op).Keeps := by
  refine ⟨fun _ view a => kept_loop (fun i a => ?_) _ _ a, fun _ _ _ => .refl _⟩
  dsimp only
  split
  · exact kept_setPair ..
  · split
    · exact kept_failElem ..
    · split
      · exact kept_raise ..
      · split
        · exact ((kept_raise ..).trans (kept_setPair ..)).trans (kept_defer ..)
        · exact (kept_raise ..).trans (kept_setPair ..)

theorem keeps_predicateDesc (f : FmtVP) (bit : Thread → List Nat → Nat → Bool) : (predicateDesc f bit).Keeps :=
  ⟨fun _ _ a => kept_accFoldl (fun _ _ => kept_setPred ..) _ a, fun _ _ _ => .refl _⟩

theorem keeps_predicateCount (f : FmtV) (count : Thread → List Nat → Word) : (predicateCount f count).Keeps :=
  ⟨fun _ _ _ => kept_setG .., fun _ _ _ => .refl _⟩

theorem keeps_vfrompDesc (f : FmtV) : (vfrompDesc f).Keeps :=
  ⟨fun _ _ a => kept_forActive _ _ _ _ (fun _ _ => kept_setElem ..) a, fun _ _ _ => .refl _⟩

theorem keeps_vtopDesc (f : FmtV) : (vtopDesc f).Keeps := by
  refine ⟨fun _ _ a => kept_forActive _ _ _ _ (fun i a => ?_) a, fun _ _ _ => .refl _⟩
  dsimp only
  split
  · exact (kept_setPred ..).trans (kept_defer ..)
  · exact kept_setPred ..

theorem kept_place (a : Acc) (old : Thread) (late : Bool) (view : View) (vd va : BitVec 5) (i dst : Nat) (p : Pick) :
    Kept a.s (a.place old late view vd va i dst p).s := by
  unfold Acc.place
  split
  · exact .refl _
  · split
    · exact kept_setElem ..
    · exact .refl _
  · dsimp only
    split
    · exact kept_failElem ..
    · split
      · exact .refl _
      · split
        · exact ((kept_setElem ..).trans (kept_poisonElem ..)).trans (kept_defer ..)
        · exact kept_setElem ..

theorem kept_poisonSide (a : Acc) (base k : Nat) : Kept a.s (a.poisonSide base k).s := ⟨rfl, rfl, id⟩

theorem kept_copySide (a : Acc) (old : Thread) (view : View) (vd va : BitVec 5) (k first : Nat) :
    Kept a.s (a.copySide old view vd va k first).s := by
  unfold Acc.copySide
  dsimp only
  split
  · exact kept_failElem ..
  · split
    · exact .refl _
    · split
      · exact ((kept_setSide ..).trans (kept_poisonSide ..)).trans (kept_defer ..)
      · exact kept_setSide ..

theorem keeps_permuteDesc (f : FmtV) (ok : Nat → Bool) (scalars : List Source) (pick : Thread → View → Nat → Nat → Pick) :
    (permuteDesc f ok scalars pick).Keeps :=
  ⟨fun _ _ a => kept_forActive _ _ _ _ (fun _ _ => kept_place ..) a, fun _ _ _ => .refl _⟩

theorem keeps_vmovDesc (f : FmtV) : (vmovDesc f).Keeps := by
  refine ⟨fun v view a => ?_, fun _ _ _ => .refl _⟩
  have h := (keeps_permuteDesc f anyType [] (fun _ _ _ i => .index i)).run v view a
  show Kept a.s (ite _ _ _ : Acc).s
  split
  · refine kept_forActive _ _ _ _ (fun i a => ?_) a
    refine Kept.trans ?_ (kept_place ..)
    split
    · exact kept_copySide ..
    · exact .refl _
  · exact h

theorem keeps_vpermDesc (f : FmtV) : (vpermDesc f).Keeps := by
  refine ⟨fun _ _ a => kept_forActive _ _ _ _ (fun i a => ?_) a, fun _ _ _ => .refl _⟩
  dsimp only
  split
  · exact kept_failElem ..
  · split
    · exact kept_failElem ..
    · exact kept_place ..

theorem keeps_vcompressDesc (f : FmtV) : (vcompressDesc f).Keeps :=
  ⟨fun _ _ a => kept_accFoldl (fun _ _ => kept_place ..) _ a, fun _ _ _ => .refl _⟩

theorem keeps_vexpandDesc (f : FmtV) : (vexpandDesc f).Keeps :=
  ⟨fun _ _ a => kept_accFoldl (fun _ _ => kept_place ..) _ a, fun _ _ _ => .refl _⟩

theorem keeps_vbcastDesc (f : FmtV) : (vbcastDesc f).Keeps :=
  ⟨fun _ _ a => kept_forActive _ _ _ _ (fun _ _ => kept_setElem ..) a, fun _ _ _ => .refl _⟩

theorem keeps_vextDesc (f : FmtV) : (vextDesc f).Keeps := by
  refine ⟨fun _ _ a => ?_, fun _ _ _ => .refl _⟩
  unfold vextDesc
  dsimp only
  split
  · exact kept_failElem ..
  · split
    · split
      · exact (kept_setG ..).trans (kept_defer ..)
      · exact kept_setG ..
    · exact kept_setG ..

theorem keeps_vinsDesc (f : FmtV) : (vinsDesc f).Keeps := by
  refine ⟨fun _ _ a => ?_, fun _ _ _ => .refl _⟩
  unfold vinsDesc
  dsimp only
  split
  · exact kept_setElem ..
  · exact .refl _

/-! ## Reductions -/

theorem keeps_reduction (f : FmtV) (ok : Nat → Bool) (value : Nat → Rm → Nat → List Node → Nat × Raised) : (reduction f ok value).Keeps := by
  refine ⟨fun _ view a => ?_, fun _ _ _ => .refl _⟩
  unfold reduction reductionBase
  dsimp only
  split
  · exact kept_failElem ..
  · split
    · exact kept_raiseAll ..
    · split
      · exact (((kept_raiseAll ..).trans (kept_setElem ..)).trans (kept_poisonElem ..)).trans (kept_defer ..)
      · exact (kept_raiseAll ..).trans (kept_setElem ..)

theorem keeps_scanDesc (f : FmtV) (op : ElemOp) : (scanDesc f op).Keeps := by
  refine ⟨fun _ view a => ?_, fun _ _ _ => .refl _⟩
  unfold scanDesc reductionBase
  dsimp only
  split
  · exact kept_failElem ..
  · split
    · exact kept_raiseAll ..
    · have h (l : List Node) (a : Acc) : Kept a.s (l.foldl (fun a x => a.setElem f.vd.toNat view.width x.2 x.1) a).s :=
        kept_accFoldl (fun _ _ => kept_setElem ..) l a
      have k (l : List Nat) (a : Acc) : Kept a.s (l.foldl (fun a k => a.poisonElem f.vd.toNat view.width k) a).s :=
        kept_accFoldl (fun _ _ => kept_poisonElem ..) l a
      split
      · exact (((kept_raiseAll ..).trans (h ..)).trans (k ..)).trans (kept_defer ..)
      · exact (kept_raiseAll ..).trans (h ..)

theorem keeps_vredGsumDesc (f : FmtV) : (vredGsumDesc f).Keeps := by
  refine ⟨fun _ view a => ?_, fun _ _ _ => .refl _⟩
  unfold vredGsumDesc
  dsimp only
  split
  · split
    · exact (kept_setG ..).trans (kept_defer ..)
    · exact kept_failElem ..
  · exact kept_setG ..

/-! ## Loads and stores -/

theorem kept_loadWith (a : Acc) (view : View) (oob : Int → Cand) (i : Nat) (fields : List (Int × Nat)) (extra : List Cand)
    (known : List (Nat × Nat)) : Kept a.s (a.loadWith view oob i fields extra known).1.s := by
  have h : ∀ (l : List ((Int × Nat) × FRes)) (a : Acc), Kept a.s (l.foldl (fun a x => a.setElem x.1.2 view.width i x.2.1) a).s :=
    kept_accFoldl (fun _ _ => kept_setElem ..)
  have k := (kept_reachElems a.s.cur.ctx oob (typeWidth (vtMem view.vt) / 8) Need.load (fields.map (·.1)) a.s).trans
    (kept_accept { a with s := _ } view i (a.s.reachElems a.s.cur.ctx oob (typeWidth (vtMem view.vt) / 8) Need.load (fields.map (·.1))).1 extra)
  unfold Acc.loadWith
  dsimp only
  split
  · exact k
  · split
    · exact k.trans ((kept_effective ..).trans (kept_flagFail ..))
    · exact k.trans ((kept_effective ..).trans ((kept_flagFail ..).trans (h ..)))

theorem kept_loadElem (a : Acc) (view : View) (oob : Int → Cand) (i : Nat) (fields : List (Int × Nat)) (extra : List Cand) :
    Kept a.s (a.loadElem view oob i fields extra).s := kept_loadWith ..

theorem kept_storeElem (a : Acc) (view : View) (oob : Int → Cand) (i : Nat) (fields : List (Int × Nat)) (extra : List Cand)
    (done : List Pending) : Kept a.s (a.storeElem view oob i fields extra done).1.s := by
  have k (x : List Cand) := (kept_reachElems a.s.cur.ctx oob (typeWidth (vtMem view.vt) / 8) Need.store (fields.map (·.1)) a.s).trans
    (kept_accept { a with s := _ } view i (a.s.reachElems a.s.cur.ctx oob (typeWidth (vtMem view.vt) / 8) Need.store (fields.map (·.1))).1 x)
  unfold Acc.storeElem
  dsimp only
  generalize (if (fields.any fun x => a.s.cur.elemBad x.2 view.width i) = true then [({ cause := 0x07, sub := 0, addr := 0 } : Cand)] else []) = bad
  split
  · exact k _
  · split
    · exact (k _).trans (kept_flagFail ..)
    · exact (k _).trans ((kept_flagFail ..).trans (kept_effective ..))

theorem kept_loadRun (f : FmtV) (oob : Int → Cand) (place : Placement) (extra : Extra) (v : Nat) (view : View) (a : Acc) :
    Kept a.s (loadRun f oob place extra v view a).s := kept_forActive _ _ _ _ (fun _ _ => kept_loadElem ..) a

theorem kept_gatherRun (f : FmtV) (oob : Int → Cand) (place : Placement) (extra : Extra) (v : Nat) (view : View) (a : Acc) :
    Kept a.s (gatherRun f oob place extra v view a).s := kept_walk (fun _ _ _ => kept_loadWith ..) _ a []

theorem kept_commit (a : Acc) (ws : List Pending) : Kept a.s (if a.ok then { a with s := a.s.writeAll ws } else a).s := by
  split
  · exact kept_writeAll ..
  · exact .refl _

theorem kept_storeRun (f : FmtV) (oob : Int → Cand) (place : Placement) (extra : Extra) (v : Nat) (view : View) (a : Acc) :
    Kept a.s (storeRun f oob place extra v view a).s :=
  (kept_walk (fun _ _ _ => kept_storeElem ..) _ a []).trans (kept_commit ..)

theorem kept_blockLoad (f : FmtV) (view : View) (active : List Nat) (b : Nat) (a : Acc) (last : Option (Nat × Nat)) :
    Kept a.s (blockLoad f view active b a last).1.s := by
  unfold blockLoad
  dsimp only
  have k := kept_reachBlock a.s a.s.cur.ctx (blockAddr view b) (vtMem view.vt) Need.load
  generalize a.s.reachBlock a.s.cur.ctx (blockAddr view b) (vtMem view.vt) Need.load = p at k ⊢
  generalize (if view.es / 32 = b then 32 * b else view.es) = e
  generalize (if vtType view.vt = 0x0D ∧ b % 2 = 1 then Option.filter (fun x => x.1 + 1 == b) last else none) = partner
  have j := k.trans (kept_accept { a with s := p.2 } { view with es := e } (32 * b) p.1 [])
  generalize ({ a with s := p.2 } : Acc).accept { view with es := e } (32 * b) p.1 [] = a1 at j ⊢
  split
  · exact j
  · split
    · exact j.trans (kept_failElem ..)
    · refine j.trans ((kept_effective _ a.s.cur.ctx false p.1).trans ?_)
      refine Kept.trans ?_ (kept_accFoldl (fun _ _ => kept_setElem ..) _ _)
      split
      · exact .refl _
      · exact kept_setSide ..

theorem kept_blockStore (f : FmtV) (view : View) (active : List Nat) (b : Nat) (a : Acc) (ws : BlockWrites) :
    Kept a.s (blockStore f view active b a ws).1.s := by
  unfold blockStore
  dsimp only
  have k := kept_reachBlock a.s a.s.cur.ctx (blockAddr view b) (vtMem view.vt) Need.store
  generalize (if view.es / 32 = b then 32 * b else view.es) = e
  generalize a.s.reachBlock a.s.cur.ctx (blockAddr view b) (vtMem view.vt) Need.store = p at k ⊢
  generalize (if ((active.filter (fun i => i / 32 == b)).any (fun i => a.s.cur.elemBad f.vd.toNat view.width i) ||
    a.s.cur.sideIsBad f.vd.toNat (32 * b / blockSpan (vtType view.vt))) = true then
    [({ cause := 0x07, sub := 0, addr := 0 } : Cand)] else []) = bad
  have j := k.trans (kept_accept { a with s := p.2 } { view with es := e } (32 * b) p.1 bad)
  generalize ({ a with s := p.2 } : Acc).accept { view with es := e } (32 * b) p.1 bad = a1 at j ⊢
  split
  · exact j
  · exact j.trans (kept_effective ..)

theorem kept_blockLoadRun (f : FmtV) (v : Nat) (view : View) (a : Acc) : Kept a.s (blockLoadRun f v view a).s :=
  kept_walk (fun _ _ _ => kept_blockLoad ..) _ a none

theorem kept_blockStoreRun (f : FmtV) (v : Nat) (view : View) (a : Acc) : Kept a.s (blockStoreRun f v view a).s :=
  (kept_walk (fun _ _ _ => kept_blockStore ..) _ a { writes := [], full := [] }).trans
    (kept_accIte (a := { (_ : Acc) with s := _ }) ((kept_writeAll ..).trans (kept_healBlocks ..)) (.refl _))

theorem keeps_vldDesc (f : FmtV) : (vldDesc f).Keeps := by
  refine ⟨fun v view a => ?_, fun _ _ _ => .refl _⟩
  unfold vldDesc loadBase
  dsimp only
  split
  · exact kept_blockLoadRun ..
  · exact kept_loadRun ..

theorem keeps_vstDesc (f : FmtV) : (vstDesc f).Keeps := by
  refine ⟨fun v view a => ?_, fun _ _ _ => .refl _⟩
  unfold vstDesc storeBase
  dsimp only
  split
  · exact kept_blockStoreRun ..
  · exact kept_storeRun ..

theorem keeps_vldsDesc (f : FmtV) : (vldsDesc f).Keeps := ⟨fun _ _ _ => kept_loadRun .., fun _ _ _ => .refl _⟩

theorem keeps_vstsDesc (f : FmtV) : (vstsDesc f).Keeps := ⟨fun _ _ _ => kept_storeRun .., fun _ _ _ => .refl _⟩

theorem keeps_vldtDesc (f : FmtV) : (vldtDesc f).Keeps := ⟨fun _ _ _ => kept_loadRun .., fun _ _ _ => .refl _⟩

theorem keeps_vsttDesc (f : FmtV) : (vsttDesc f).Keeps := ⟨fun _ _ _ => kept_storeRun .., fun _ _ _ => .refl _⟩

theorem keeps_segmentLoad (f : FmtV) (n : Nat) : (segmentLoad f n).Keeps := ⟨fun _ _ _ => kept_loadRun .., fun _ _ _ => .refl _⟩

theorem keeps_segmentStore (f : FmtV) (n : Nat) : (segmentStore f n).Keeps := ⟨fun _ _ _ => kept_storeRun .., fun _ _ _ => .refl _⟩

theorem keeps_gatherDesc (f : FmtV) (wi : Nat) (scaled : Bool) : (gatherDesc f wi scaled).Keeps := ⟨fun _ _ _ => kept_gatherRun .., fun _ _ _ => .refl _⟩

theorem keeps_scatterDesc (f : FmtV) (wi : Nat) (scaled : Bool) : (scatterDesc f wi scaled).Keeps := ⟨fun _ _ _ => kept_storeRun .., fun _ _ _ => .refl _⟩

/-! ## Atomics -/

theorem kept_strongRead (s : State) (pa n : Nat) : Kept s (s.strongRead pa n).2 :=
  (kept_addWildBytes s (s.mixedBytes pa n)).trans (kept_noteStrong ..)

theorem kept_strongWrite (s : State) (pa : Nat) (bs : List Byte) : Kept s (s.strongWrite pa bs) :=
  ((kept_write s pa bs).trans (kept_noteStrong ..)).trans (kept_addWildBytes ..)

theorem kept_strongUpdate (s : State) (pa n : Nat) (op : Nat → Option Nat) : Kept s (s.strongUpdate pa n op).2 := by
  unfold State.strongUpdate
  dsimp only
  split
  · exact ((kept_strongRead ..).trans (kept_strongWrite ..)).trans (kept_addWildBytes ..)
  · exact kept_strongRead ..

theorem kept_deferTrap (a : Acc) (view : View) (i : Nat) (cause : BitVec 8) (sub va : Nat) : Kept a.s (a.deferTrap view i cause sub va).s := by
  unfold Acc.deferTrap
  split <;> exact .refl _

theorem kept_atomicCheck (f : FmtV) (view : View) (i : Nat) (a : Acc) (rs : List (Nat × Reach)) : Kept a.s (atomicCheck f view i a rs).1.s :=
  (kept_reachElem ..).trans (kept_accept { a with s := _ } ..)

theorem kept_atomicApply (f : FmtV) (fetch : Bool) (op : ElemOp) (view : View) (a : Acc) (x : Nat × Reach) :
    Kept a.s (atomicApply f fetch op view a x).s := by
  unfold atomicApply
  dsimp only
  have k := kept_effective a a.s.cur.ctx true [x.2]
  generalize a.effective a.s.cur.ctx true [x.2] = a1 at k ⊢
  refine k.trans ?_
  split
  · exact kept_deferTrap ..
  · split
    · split
      · exact (kept_deferTrap ..).trans (kept_poisonElem ..)
      · exact kept_deferTrap ..
    · refine (kept_strongUpdate a1.s x.2.pa (view.width / 8)
        (fun m => some (op (vtType view.vt) a1.s.cur.rm 0 m (a1.s.cur.elem f.vd.toNat view.width x.1)).1)).trans ?_
      generalize a1.s.strongUpdate x.2.pa (view.width / 8) _ = p
      split
      · exact kept_setElem (Acc.note { a1 with s := p.2 } ..) ..
      · exact .refl _

theorem keeps_atomicDesc (f : FmtV) (fetch : Bool) (ok : Nat → Bool) (op : ElemOp) : (atomicDesc f fetch ok op).Keeps := by
  refine ⟨fun v view a => ?_, fun _ _ _ => .refl _⟩
  unfold atomicDesc
  dsimp only
  split
  · exact (kept_walk (fun _ _ _ => kept_atomicCheck ..) _ a []).trans (kept_accFoldl (fun _ _ => kept_atomicApply ..) _ _)
  · exact kept_walk (fun _ _ _ => kept_atomicCheck ..) _ a []

/-! ## Matrices and blocks -/

theorem kept_evaluated (a : Acc) (w : Nat) (conds : List Condition) (flags : List (Nat × BitVec 5)) : Kept a.s (a.evaluated w conds flags).s := by
  unfold Acc.evaluated
  split
  · exact kept_failElem ..
  · exact kept_accFoldl (f := fun a x => a.note _ _) (fun _ _ => kept_note ..) _ _

theorem kept_cells (a : Acc) (base : Nat) (l : List Cell32) : Kept a.s (a.cells base l).s := kept_accFoldl (fun _ _ => kept_setElem ..) l a

theorem kept_corrected (a : Acc) (rows : List (Nat × List Nat)) : Kept a.s (a.corrected rows).s := by
  unfold Acc.corrected
  dsimp only
  split
  · exact .refl _
  · exact ⟨rfl, rfl, id⟩

theorem keeps_mmabDesc (f : FmtV) : (mmabDesc f).Keeps := by
  refine ⟨fun v view a => ?_, fun _ _ _ => .refl _⟩
  unfold mmabDesc matrixBase
  dsimp only
  split
  · exact ((kept_evaluated ..).trans (kept_cells ..)).trans (kept_corrected ..)
  · exact kept_evaluated ..

theorem keeps_mmahDesc (f : FmtV) : (mmahDesc f).Keeps := by
  refine ⟨fun v view a => ?_, fun _ _ _ => .refl _⟩
  unfold mmahDesc matrixBase
  dsimp only
  generalize activeRows a.s.cur f 32 view.es v = active
  generalize joinEvaluated (active.map _) = e
  generalize residueConds a.s.cur active ++ e.conds = conds
  generalize mmahAffected a.s.cur f (vtType view.vt) active = cells
  refine kept_accIte (kept_evaluated ..) ?_
  have h := ((kept_evaluated a 16 (if a.s.cur.trimsAtDispatch = true then [] else conds) e.flags).trans
    (kept_cells _ f.vd.toNat e.cells)).trans (kept_corrected _ active)
  cases firstCondition conds with
  | none => exact h
  | some c => exact (h.trans (kept_defer _ view 16 c.1 c.2.2)).trans (kept_accFoldl (fun _ _ => kept_poisonElem ..) cells _)

theorem keeps_mzeroDesc (f : FmtV) : (mzeroDesc f).Keeps :=
  ⟨fun _ _ a => kept_accFoldl (fun _ _ => kept_cells ..) _ a, fun _ _ _ => .refl _⟩

theorem keeps_vwmacDesc (f : FmtV) : (vwmacDesc f).Keeps := by
  refine ⟨fun v view a => ?_, fun _ _ _ => .refl _⟩
  unfold vwmacDesc matrixBase
  dsimp only
  split
  · exact (kept_evaluated ..).trans (kept_cells ..)
  · exact kept_evaluated ..

theorem keeps_vbnormDesc (f : FmtV) : (vbnormDesc f).Keeps := by
  refine ⟨fun v view a => ?_, fun _ _ _ => .refl _⟩
  unfold vbnormDesc matrixBase
  dsimp only
  split
  · exact kept_evaluated ..
  · exact (kept_evaluated ..).trans (kept_accFoldl (fun _ _ => (kept_setSide ..).trans (kept_accFoldl (fun _ _ => kept_setElem ..) _ _)) _ _)

theorem keeps_vbexpF32Desc (f : FmtV) : (vbexpF32Desc f).Keeps := by
  refine ⟨fun v view a => ?_, fun _ _ _ => .refl _⟩
  unfold vbexpF32Desc matrixBase
  dsimp only
  split
  · exact (kept_evaluated ..).trans (kept_cells ..)
  · exact kept_evaluated ..

theorem keeps_vbexpGetDesc (f : FmtV) : (vbexpGetDesc f).Keeps :=
  ⟨fun _ _ a => kept_accFoldl
    (fun _ _ => kept_accIte (((kept_setElem ..).trans (kept_poisonElem ..)).trans (kept_defer ..)) (kept_setElem ..)) _ a,
   fun _ _ _ => .refl _⟩

theorem keeps_vbexpSetDesc (f : FmtV) : (vbexpSetDesc f).Keeps :=
  ⟨fun _ _ a => kept_accFoldl
    (fun _ _ => kept_accIte (((kept_setSide ..).trans (kept_poisonSide ..)).trans (kept_defer ..)) (kept_setSide ..)) _ a,
   fun _ _ _ => .refl _⟩

end Sys2Proof.Machine
end

