-- ==== Sys2Proof/Laws/KeepsStreams.lean ====
section
/-!
SUPPORT. What a running entry keeps (Laws/Keeps.lean), for the descriptions of streams and shape records (major 0x20), sparse instructions
(0x35), tcon (0x36) and trees (0x37).
-/
namespace Sys2Proof.Machine

/-! ## Streams -/

theorem outer_qwrite (t : Thread) (q : Nat) (x : Stream) : (t.qwrite q x).outer = t.outer := rfl

theorem kept_unbindRing (s : State) (team lthread q : Nat) : Kept s (s.unbindRing team lthread q) := ⟨rfl, rfl, id⟩

theorem kept_streamChecks (qs : List Nat) (view : View) (a : Acc) : Kept a.s (streamChecks qs view a).s := by
  unfold streamChecks
  split
  · exact kept_trap ..
  · split
    · exact kept_trap ..
    · exact .refl _

theorem kept_ringTouch (s : State) (r : Ring) (va : Nat) (w : Bool) : Kept s (s.ringTouch r va w) := by
  unfold State.ringTouch
  split
  · exact kept_touchHeld ..
  · exact .refl _

theorem kept_ringElem (a : Acc) (view : View) (q : Stream) (qn i e : Nat) : Kept a.s (a.ringElem view q qn i e).2.s := by
  unfold Acc.ringElem
  dsimp only
  split
  · dsimp only
    split <;> exact kept_failElem ..
  · split
    · exact kept_failElem ..
    · split
      · exact kept_failElem ..
      · split
        · exact kept_failElem ..
        · exact kept_ringTouch ..

theorem kept_streamElem (a : Acc) (view : View) (qn i e : Nat) : Kept a.s (a.streamElem view qn i e).2.s := by
  unfold Acc.streamElem
  dsimp only
  split
  · exact .refl _
  · exact kept_ringElem ..
  · split
    · exact kept_failElem ..
    · split
      · exact kept_touchHeld a.s a.s.cur.part.toNat _ _ none false
      · split
        · exact kept_failElem ..
        · have k := kept_reachElem a.s a.s.cur.ctx oobPlain ((a.s.cur.qread qn).addr e) (a.s.cur.qread qn).size Need.load
          generalize a.s.reachElem _ _ _ _ _ = p at k ⊢
          have j := k.trans (kept_accept { a with s := p.2 } view i [p.1] [])
          generalize ({ a with s := p.2 } : Acc).accept _ _ _ _ = a1 at j ⊢
          split
          · exact j
          · exact j.trans ((kept_effective ..).trans ⟨rfl, rfl, id⟩)

theorem kept_advance (a : Acc) (qn n : Nat) : Kept a.s (a.advance qn n).s := ⟨rfl, rfl, id⟩

theorem keeps_qbindDesc (f : FmtV) : (qbindDesc f).Keeps := by
  refine ⟨fun _ view a => ?_, fun _ _ _ => .refl _⟩
  unfold qbindDesc
  dsimp only
  split
  · exact kept_trap ..
  · exact ⟨rfl, rfl, id⟩

theorem keeps_qfreeDesc (f : FmtV) : (qfreeDesc f).Keeps := by
  refine ⟨fun _ view a => ?_, fun _ _ _ => .refl _⟩
  unfold qfreeDesc
  dsimp only
  split
  · exact kept_trap ..
  · exact ⟨rfl, rfl, id⟩

theorem kept_popElem (f : FmtV) (view : View) (pos i : Nat) (a : Acc) : Kept a.s (popElem f view pos i a).s := by
  unfold popElem
  have k := kept_streamElem a view f.va.toNat i (pos + i)
  generalize a.streamElem view f.va.toNat i (pos + i) = p at k ⊢
  rcases p with ⟨_ | x, a1⟩
  · exact k
  · dsimp only
    split
    · exact k.trans ((kept_flagFail ..).trans (kept_setElem ..))
    · exact k.trans (kept_flagFail ..)

theorem keeps_vpopDesc (f : FmtV) : (vpopDesc f).Keeps := by
  refine ⟨fun v view a => ?_, fun _ _ _ => kept_streamChecks ..⟩
  unfold vpopDesc
  dsimp only
  have k := (kept_streamChecks [f.va.toNat] view a).trans
    (kept_loop (fun i a => kept_popElem f view ((streamChecks [f.va.toNat] view a).s.cur.qread f.va.toNat).pos i a) (v - view.es) view.es _)
  split
  · exact (kept_streamChecks [f.va.toNat] view a).trans ((kept_loop (fun _ _ => kept_popElem ..) ..).trans (kept_advance ..))
  · exact (kept_streamChecks [f.va.toNat] view a).trans (kept_loop (fun _ _ => kept_popElem ..) ..)

/-! ## Records -/

theorem kept_failFirst (a : Acc) (view : View) (c : Cand) : Kept a.s (a.failFirst view c).s := kept_failAt ..

theorem kept_readRecord (a : Acc) (view : View) (lane : Nat) (ns : Bool) (va n align : Nat) (need : Need) :
    Kept a.s (a.readRecord view lane ns va n align need).2.s := by
  unfold Acc.readRecord
  dsimp only
  split
  · exact kept_failAt ..
  · have k := kept_reachElems a.s.cur.ctx oobPlain 8 need ((List.range (n / 8)).map (fun k => ((va + 8 * k : Nat) : Int))) a.s
    generalize a.s.reachElems _ _ _ _ _ = p at k ⊢
    split
    · dsimp only
      split
      · exact k
      · exact k.trans (kept_failAt { a with s := p.2 } _)
    · split
      · exact k
      · exact k.trans (kept_effective { a with s := p.2 } ..)

theorem kept_reachShape (a : Acc) (view : View) (need : Need) : Kept a.s (a.reachShape view need).2.s := by
  unfold Acc.reachShape
  dsimp only
  split
  · exact kept_failAt ..
  · have k := kept_reachElems a.s.cur.ctx oobPlain 8 need ((List.range 16).map (fun k => ((view.opa.toNat + 8 * k : Nat) : Int))) a.s
    generalize a.s.reachElems _ _ _ _ _ = p at k ⊢
    split
    · dsimp only
      split
      · exact k
      · exact k.trans (kept_failAt { a with s := p.2 } _)
    · dsimp only
      split <;> exact k

theorem keeps_hldDesc (f : FmtV) : (hldDesc f).Keeps := by
  refine ⟨fun _ view a => ?_, fun _ _ _ => .refl _⟩
  unfold hldDesc
  dsimp only
  have k := kept_reachShape a view Need.load
  generalize a.reachShape view Need.load = p at k ⊢
  split
  · exact k
  · exact k.trans ((kept_effective ..).trans ⟨rfl, rfl, id⟩)

theorem keeps_hstDesc (f : FmtV) : (hstDesc f).Keeps := by
  refine ⟨fun _ view a => ?_, fun _ _ _ => .refl _⟩
  unfold hstDesc
  dsimp only
  have k := kept_reachShape a view Need.store
  generalize a.reachShape view Need.store = p at k ⊢
  split
  · exact k
  · exact k.trans ((kept_effective ..).trans (kept_write ..))

@[simp] theorem keeps_vframeDesc (f : FmtVF) : (vframeDesc f).Keeps := ⟨fun _ _ _ => .refl _, fun _ _ _ => .refl _⟩

/-! ## Sparse -/

theorem kept_pairFoldl {β γ : Type} {f : Acc × γ → β → Acc × γ} (h : ∀ x y, Kept x.1.s (f x y).1.s) (l : List β) (x : Acc × γ) :
    Kept x.1.s (l.foldl f x).1.s := by
  induction l generalizing x with
  | nil => exact .refl _
  | cons y l ih => exact (h x y).trans (ih _)

theorem keeps_vgroupDesc (f : FmtV) : (vgroupDesc f).Keeps := by
  refine ⟨fun v view a => ?_, fun _ _ _ => .refl _⟩
  unfold vgroupDesc
  dsimp only
  refine (kept_pairFoldl (γ := Option Nat) (fun x k => ?_) _ (a, none)).trans (kept_accFoldl (fun _ _ => kept_setPred ..) _ _)
  dsimp only
  split
  · exact (kept_setElem ..).trans ((kept_setPred ..).trans ((kept_poisonElem ..).trans (kept_defer ..)))
  · exact (kept_setElem ..).trans (kept_setPred ..)

theorem kept_xsectSteps (f : FmtV) (view : View) : ∀ (n i : Nat) (m : Merge) (a : Acc), Kept a.s (xsectSteps f view n i m a).1.s
  | 0, _, _, a => .refl a.s
  | n + 1, i, m, a => by
    unfold xsectSteps
    dsimp only
    split
    · exact .refl _
    · have k := kept_streamElem a view f.va.toNat i m.posA
      generalize a.streamElem view f.va.toNat i m.posA = p at k ⊢
      rcases p with ⟨_ | x, a1⟩
      · exact k
      · dsimp only at k ⊢
        have j := k.trans (kept_streamElem a1 view f.vb.toNat i m.posB)
        generalize a1.streamElem view f.vb.toNat i m.posB = q at j ⊢
        rcases q with ⟨_ | y, a2⟩
        · exact j
        · dsimp only at j ⊢
          split
          · exact j.trans (kept_failElem ..)
          · split
            · exact j.trans (kept_failElem ..)
            · refine j.trans (Kept.trans ?_ (kept_xsectSteps f view n (i + 1) _ _))
              split
              · exact .refl _
              · exact (kept_setElem ..).trans (kept_setPred ..)

theorem keeps_vxsectDesc (f : FmtV) : (vxsectDesc f).Keeps := by
  refine ⟨fun v view a => ?_, fun _ _ _ => kept_streamChecks ..⟩
  unfold vxsectDesc
  dsimp only
  have k := kept_streamChecks [f.va.toNat, f.vb.toNat] view a
  generalize streamChecks [f.va.toNat, f.vb.toNat] view a = a0 at k ⊢
  split
  · exact k
  · have j := k.trans (kept_xsectSteps f view v 0
      { posA := (a0.s.cur.qread f.va.toNat).pos, posB := (a0.s.cur.qread f.vb.toNat).pos, lastA := none, lastB := none } a0)
    generalize xsectSteps f view v 0 _ a0 = p at j ⊢
    split
    · exact j
    · exact j.trans ((kept_advance ..).trans (kept_advance ..))

theorem kept_mergeDescriptor (view : View) (a : Acc) : Kept a.s (mergeDescriptor view a).2.s := by
  unfold mergeDescriptor
  dsimp only
  have k := kept_readRecord a view (a.s.laneOf view.width view.es) true view.opa.toNat 32 32 Need.load
  generalize a.readRecord _ _ _ _ _ _ = p at k ⊢
  split
  · exact k
  · split
    · exact k.trans (kept_trap ..)
    · split
      · exact k.trans (kept_failAt ..)
      · exact k

theorem kept_readEnd (m : MergePath) (view : View) (i x : Nat) (a : Acc) (known : List (Nat × Nat)) :
    Kept a.s (readEnd m view i x a known).2.1.s := by
  unfold readEnd
  split
  · exact .refl _
  · dsimp only
    have k := kept_reachElem a.s a.s.cur.ctx oobPlain ((m.ends + view.width / 8 * x : Nat) : Int) (view.width / 8) Need.load
    generalize a.s.reachElem _ _ _ _ _ = p at k ⊢
    have j := k.trans (kept_accept { a with s := p.2 } view i [p.1] [])
    generalize ({ a with s := p.2 } : Acc).accept _ _ _ _ = a1 at j ⊢
    split
    · exact j
    · exact j.trans (kept_effective ..)

theorem kept_mergeSearch (m : MergePath) (view : View) (d : Nat) : ∀ (n lo hi lov hiv : Nat) (a : Acc) (known : List (Nat × Nat)),
    Kept a.s (mergeSearch m view d n lo hi lov hiv a known).2.2.1.s
  | 0, _, _, _, _, a, _ => .refl a.s
  | n + 1, lo, hi, lov, hiv, a, known => by
    unfold mergeSearch
    split
    · exact .refl _
    · dsimp only
      have k := kept_readEnd m view 0 ((lo + hi) / 2) a known
      generalize readEnd m view 0 ((lo + hi) / 2) a known = p at k ⊢
      rcases p with ⟨_ | e, a1, known1⟩
      · exact k
      · dsimp only at k ⊢
        split
        · exact k.trans (kept_failElem ..)
        · split
          · exact k.trans (kept_mergeSearch ..)
          · exact k.trans (kept_mergeSearch ..)

theorem kept_mergeSteps (f : FmtV) (m : MergePath) (view : View) : ∀ (n i d x y last : Nat) (a : Acc) (known : List (Nat × Nat)),
    Kept a.s (mergeSteps f m view n i d x y last a known).1.s
  | 0, _, _, _, _, _, a, _ => .refl a.s
  | n + 1, i, d, x, y, last, a, known => by
    unfold mergeSteps
    dsimp only
    have w (a : Acc) (k : Nat) (b : Bool) :
        Kept a.s (if i < view.es then a else (a.setElem f.vd.toNat view.width i k).setPred f.guard i b).s := by
      split
      · exact .refl _
      · exact (kept_setElem ..).trans (kept_setPred ..)
    split
    · exact .refl _
    · split
      · exact kept_failElem ..
      · have k := kept_readEnd m view i x a known
        generalize readEnd m view i x a known = p at k ⊢
        rcases p with ⟨_ | e, a1, known1⟩
        · exact k
        · dsimp only at k ⊢
          split
          · exact k.trans (kept_failElem ..)
          · split
            · exact (k.trans (w ..)).trans (kept_mergeSteps ..)
            · exact (k.trans (w ..)).trans (kept_mergeSteps ..)

theorem keeps_vmergeDesc (f : FmtV) : (vmergeDesc f).Keeps := by
  refine ⟨fun v view a => ?_, fun _ _ _ => kept_mergeDescriptor ..⟩
  unfold vmergeDesc
  dsimp -iota only
  have k := kept_mergeDescriptor view a
  generalize mergeDescriptor view a = p at k ⊢
  rcases p with ⟨m, a1⟩
  show Kept a.s (ite _ _ _ : Acc).s
  split
  · exact k
  · have j := k.trans (kept_mergeSearch m view view.opb.toNat 64 (view.opb.toNat - m.nnz) (min view.opb.toNat m.nrow) 0 m.nnz a1 [])
    generalize mergeSearch m view view.opb.toNat 64 _ _ _ _ a1 [] = q at j ⊢
    rcases q with ⟨x, last, a2, known⟩
    dsimp only at j ⊢
    split
    · exact j
    · have i := j.trans (kept_mergeSteps f m view v 0 view.opb.toNat x (view.opb.toNat - x) last a2 known)
      generalize mergeSteps f m view v 0 _ _ _ _ _ _ = r at i ⊢
      split <;> exact i

theorem keeps_segmentDesc (f : FmtV) (op : ElemOp) : (segmentDesc f op).Keeps := by
  refine ⟨fun v view a => ?_, fun _ _ _ => .refl _⟩
  unfold segmentDesc
  dsimp only
  split
  · exact kept_failElem ..
  · split
    · exact kept_raiseAll ..
    · refine (kept_raiseAll ..).trans (kept_pairFoldl (γ := Bool) (fun x n => ?_) _ (_, false))
      dsimp only
      split
      · refine (kept_setElem x.1 f.vd.toNat view.width n.2 n.1).trans (Kept.trans ?_ (kept_poisonElem ..))
        split
        · exact kept_defer ..
        · exact .refl _
      · exact kept_setElem ..

/-! ## Contracting tensors -/

theorem kept_tconRead (view : View) (a : Acc) : Kept a.s (tconRead view a).2.s := by
  unfold tconRead
  dsimp only
  have k := kept_readRecord a view 0 true view.opa.toNat 384 128 Need.both
  generalize a.readRecord _ _ _ _ _ _ _ = p at k ⊢
  split
  · exact k
  · split
    · exact k.trans (kept_trap ..)
    · exact k

theorem kept_tconLoad (view : View) (i n va : Nat) (a : Acc) : Kept a.s (tconLoad view i n va a).2.s := by
  unfold tconLoad
  dsimp only
  have k := kept_reachElem a.s a.s.cur.ctx oobPlain (va : Nat) n Need.load
  generalize a.s.reachElem _ _ _ _ _ = p at k ⊢
  have j := k.trans (kept_accept { a with s := p.2 } view i [p.1] [])
  generalize ({ a with s := p.2 } : Acc).accept _ _ _ _ = a1 at j ⊢
  split
  · exact j
  · exact j.trans (kept_effective ..)

theorem kept_failPoint (a : Acc) (i : Nat) : Kept a.s (a.failPoint i).s := kept_failAt ..

theorem kept_readFiber (o : TconOperand) (view : View) (i d extent : Nat) : ∀ (n q : Nat) (last : Option Nat) (a : Acc),
    Kept a.s (readFiber o view i d extent n q last a).2.s
  | 0, _, _, a => .refl a.s
  | n + 1, q, last, a => by
    unfold readFiber
    dsimp only
    have k := kept_tconLoad view i 4 (o.crd.getD d 0 + 4 * q) a
    generalize tconLoad view i 4 (o.crd.getD d 0 + 4 * q) a = p at k ⊢
    split
    · exact k
    · split
      · exact k.trans (kept_failPoint ..)
      · exact k.trans (kept_readFiber ..)

theorem kept_levelOf (o : TconOperand) (view : View) (i x extent : Nat) (cur : Nat × Nat) (a : Acc) :
    Kept a.s (levelOf o view i x extent cur a).2.s := by
  unfold levelOf
  dsimp only
  split
  · exact .refl _
  · split
    · exact .refl _
    · have k := kept_tconLoad view i 8 (o.ptr.getD cur.1 0 + 8 * cur.2) a
      generalize tconLoad view i 8 (o.ptr.getD cur.1 0 + 8 * cur.2) a = p at k ⊢
      split
      · exact k
      · have j := k.trans (kept_tconLoad view i 8 (o.ptr.getD cur.1 0 + 8 * (cur.2 + 1)) p.2)
        generalize tconLoad view i 8 (o.ptr.getD cur.1 0 + 8 * (cur.2 + 1)) p.2 = q at j ⊢
        split
        · exact j
        · split
          · exact j.trans (kept_failPoint ..)
          · exact j.trans (kept_readFiber ..)

theorem kept_addProduct (k : TconBlock) (view : View) (i : Nat) (pa pb : Nat × Nat) (a : Acc) (sum : Sum) :
    Kept a.s (addProduct k view i pa pb a sum).1.s := by
  unfold addProduct
  dsimp only
  have h := kept_tconLoad view i (typeWidth k.a.type / 8) (k.a.vals + typeWidth k.a.type / 8 * pa.2) a
  generalize tconLoad view i (typeWidth k.a.type / 8) _ a = p at h ⊢
  split
  · exact h
  · split
    · exact h.trans (kept_tconLoad ..)
    · exact h.trans (kept_tconLoad ..)

theorem kept_walkIndices (k : TconBlock) (view : View) (i : Nat) (coords : List Nat) : ∀ (n x : Nat) (pa pb : Nat × Nat) (a : Acc) (sum : Sum),
    Kept a.s (walkIndices k view i coords n x pa pb a sum).1.s
  | 0, _, _, _, _, _ => kept_addProduct ..
  | n + 1, x, pa, pb, a, sum => by
    unfold walkIndices
    dsimp only
    have h := kept_levelOf k.a view i x (k.extent.getD x 0) pa a
    generalize levelOf k.a view i x (k.extent.getD x 0) pa a = p at h ⊢
    split
    · exact h
    · have j := h.trans (kept_levelOf k.b view i x (k.extent.getD x 0) pb p.2)
      generalize levelOf k.b view i x (k.extent.getD x 0) pb p.2 = q at j ⊢
      split
      · exact j
      · refine j.trans (kept_pairFoldl (γ := Sum) (fun y c => ?_) _ (q.2, sum))
        split
        · exact .refl _
        · split
          · exact kept_walkIndices ..
          · exact .refl _

theorem kept_tconPoint (k : TconBlock) (view : View) (i : Nat) (a : Acc) (ws : List Pending) : Kept a.s (tconPoint k view i a ws).1.s := by
  unfold tconPoint
  dsimp only
  generalize (if k.acc = true then Need.both else Need.store) = need
  have h := kept_reachElem a.s a.s.cur.ctx oobPlain ((k.c.vals + typeWidth k.c.type / 8 * (k.cursor + i) : Nat) : Int)
    (typeWidth k.c.type / 8) need
  generalize a.s.reachElem _ _ _ _ _ = p at h ⊢
  have j := h.trans (kept_accept { a with s := p.2 } view i [p.1] [])
  generalize ({ a with s := p.2 } : Acc).accept _ _ _ _ = a1 at j ⊢
  split
  · exact j
  · generalize (if k.acc = true then leNat (a1.read p.1.pa (typeWidth k.c.type / 8)) else 0) = start
    have w := j.trans (kept_walkIndices k view i (pointCoords (k.extent.take k.outer) (k.cursor + i)) k.nidx 0 (0, 0) (0, 0) a1
      { value := start, flags := 0 })
    generalize walkIndices k view i _ k.nidx 0 (0, 0) (0, 0) a1 _ = x at w ⊢
    split
    · exact w
    · split
      · exact w.trans (kept_failAt ..)
      · exact w.trans (kept_effective { x.1 with flags := _ } ..)

theorem kept_tconRun (v : Nat) (view : View) (a : Acc) : Kept a.s (tconRun v view a).s := by
  unfold tconRun
  dsimp only
  have h := kept_tconRead view a
  generalize tconRead view a = p at h ⊢
  obtain ⟨k, b⟩ := p
  dsimp only at h ⊢
  generalize hb : ({ b with grain := some (typeWidth k.c.type, false), ended := some (k.points - k.cursor) } : Acc) = a1
  have h1 : Kept a.s a1.s := by rw [← hb]; exact h
  refine kept_accIte h1 (kept_accIte (by exact h) ?_)
  have j := h1.trans (kept_walk (fun i a x => kept_tconPoint k view i a x)
    ((List.range (min v (k.points - k.cursor) - view.es)).map (fun j => view.es + j)) a1 ([] : List Pending))
  generalize Acc.walk (tconPoint k view) _ a1 [] = q at j ⊢
  refine kept_accIte (a := { q.1 with fail := _ }) j ?_
  exact j.trans ((kept_reachElem ..).trans ((kept_effective { q.1 with s := _ } ..).trans (kept_writeAll ..)))

theorem keeps_tconDesc (f : FmtV) : (tconDesc f).Keeps := by
  refine ⟨fun v view a => kept_tconRun v view a, fun _ view a => ?_⟩
  unfold tconDesc
  dsimp only
  have h := kept_tconRead view a
  generalize tconRead view a = p at h ⊢
  split <;> exact h

/-! ## Trees -/

theorem kept_setTrace (a : Acc) (k i x : Nat) : Kept a.s (a.setTrace k i x).s := ⟨rfl, rfl, id⟩

theorem kept_treeRead (a : Acc) (rs : List Reach) : Kept a.s (a.treeRead rs).2.2.s := by
  unfold Acc.treeRead
  dsimp only
  split
  · exact .refl _
  · split
    · exact .refl _
    · split
      · exact .refl _
      · exact kept_effective ..

theorem kept_readHalves (va : Int) : ∀ (n c : Nat) (a : Acc), Kept a.s (readHalves va n c a).2.s
  | 0, _, a => .refl a.s
  | n + 1, c, a => by
    unfold readHalves
    dsimp only
    have h := kept_reachElem a.s a.s.cur.ctx oobPlain (va + (2 * c : Nat)) 2 Need.load
    generalize a.s.reachElem _ _ _ _ _ = p at h ⊢
    exact h.trans ((kept_treeRead { a with s := p.2 } [p.1]).trans (kept_readHalves ..))

theorem kept_readBlocks (va : Int) : ∀ (n b : Nat) (a : Acc), Kept a.s (readBlocks va n b a).2.s
  | 0, _, a => .refl a.s
  | n + 1, b, a => by
    unfold readBlocks
    dsimp only
    have h := kept_reachBlock a.s a.s.cur.ctx (va + (34 * b : Nat)) 0x0C Need.load
    generalize a.s.reachBlock _ _ _ _ = p at h ⊢
    exact h.trans ((kept_treeRead { a with s := p.2 } p.1).trans (kept_readBlocks ..))

theorem kept_values (r : Tree) (va : Int) (a : Acc) : Kept a.s (r.values va a).2.s := by
  unfold Tree.values
  split
  · exact kept_readHalves ..
  · exact kept_readBlocks ..

theorem kept_nodeData (r : Tree) (n : Nat) (a : Acc) (known : List NodeData) : Kept a.s (r.nodeData n a known).2.1.s := by
  unfold Tree.nodeData
  split
  · exact .refl _
  · dsimp only
    have h := kept_values r (r.wbase + r.nstride * n) a
    generalize r.values (r.wbase + r.nstride * n) a = p at h ⊢
    exact h.trans ((kept_reachElem ..).trans (kept_treeRead { p.2 with s := _ } _))

theorem kept_descendRow (f : FmtV) (r : Tree) (i : Nat) (a : Acc) (known : List NodeData) : Kept a.s (descendRow f r i a known).1.s := by
  unfold descendRow
  dsimp only
  split
  · exact kept_failElem ..
  · split
    · exact kept_failElem ..
    · have h := kept_nodeData r (a.s.cur.elem f.vd.toNat 32 i) a known
      generalize r.nodeData (a.s.cur.elem f.vd.toNat 32 i) a known = p at h ⊢
      have j := h.trans (kept_values r (r.xbase + r.xstride * i) p.2.1)
      generalize r.values (r.xbase + r.xstride * i) p.2.1 = q at j ⊢
      split
      · exact kept_accIte j (j.trans (kept_failElem ..))
      · split
        · exact j
        · have w := j.trans (kept_flagFail q.2 32 i [(r.score p.1.weights q.1 p.1.bias).2])
          generalize q.2.flagFail 32 i [(r.score p.1.weights q.1 p.1.bias).2] = a3 at w ⊢
          split
          · exact w
          · split
            · exact w.trans (kept_setElem ..)
            · exact w.trans ((kept_setElem ..).trans ((kept_setElem ..).trans (kept_setTrace ..)))

theorem kept_treeRecord (view : View) (a : Acc) : Kept a.s (treeRecord view a).2.s := by
  unfold treeRecord
  dsimp only
  have h := kept_readRecord a view (a.s.laneOf 32 view.es) false view.opa.toNat 64 64 Need.load
  generalize a.readRecord _ _ _ _ _ _ = p at h ⊢
  split
  · exact h
  · split
    · exact h.trans (kept_trap ..)
    · exact h

theorem keeps_vdescDesc (f : FmtV) : (vdescDesc f).Keeps := by
  refine ⟨fun v view a => ?_, fun _ view a => kept_treeRecord view a⟩
  unfold vdescDesc treeBase
  dsimp only
  have h := kept_treeRecord view a
  exact kept_accIte h (h.trans (kept_walk (fun _ _ _ => kept_descendRow ..) _ _ _))

theorem keeps_vpnodeDesc (f : FmtV) : (vpnodeDesc f).Keeps := by
  refine ⟨fun _ _ a => kept_forActive _ _ _ _ (fun i a => ?_) a, fun _ _ _ => .refl _⟩
  dsimp only
  split
  · exact kept_failElem ..
  · exact kept_setElem ..

theorem keeps_vpgetDesc (f : FmtV) : (vpgetDesc f).Keeps :=
  ⟨fun _ _ a => kept_forActive _ _ _ _ (fun _ _ => kept_setElem ..) a, fun _ _ _ => .refl _⟩

theorem keeps_vpclrDesc (f : FmtV) : (vpclrDesc f).Keeps :=
  ⟨fun _ _ a => kept_forActive _ _ _ _ (fun _ _ => kept_setTrace ..) a, fun _ _ _ => .refl _⟩

end Sys2Proof.Machine
end

