-- ==== Sys2Proof/Laws/KeepsUnits.lean ====
section
/-!
SUPPORT. What a running entry keeps (Laws/Keeps.lean), for the descriptions that act on a unit beside the core: spawn and vclaim (major 0x1D),
tcopy (0x20), stitched tensors (0x21), rings (0x22) and sealed records (0x23).
-/
namespace Sys2Proof.Machine

/-! ## Copies -/

theorem kept_pinSide (s : State) (h : Shape) (n : Nat) (need : Need) (sub : Nat) : Kept s (s.pinSide h n need sub).2 := by
  unfold State.pinSide
  dsimp only
  split
  · exact .refl _
  · split
    · exact kept_reachBlock ..
    · exact kept_reachElem ..

theorem kept_pinElem (src dst : Shape) (start : Nat) (view : View) (room : Nat) (i : Nat) (a : Acc) (p : Pinning) :
    Kept a.s (pinElem src dst start view room i a p).1.s := by
  unfold pinElem
  dsimp only
  have h := kept_pinSide a.s src (start + i) Need.load 0
  generalize a.s.pinSide src (start + i) Need.load 0 = x at h ⊢
  have j := h.trans (kept_pinSide x.2 dst (start + i) Need.store 2)
  generalize x.2.pinSide dst (start + i) Need.store 2 = y at j ⊢
  split
  · exact j.trans (kept_failAt { a with s := y.2 } _)
  · split <;> exact j

theorem kept_copyRun (hs hd v : Nat) (view : View) (a : Acc) : Kept a.s (copyRun hs hd v view a).s := by
  have k (g : Nat × Bool) (src dst : Shape) (start room : Nat) (l : List Nat) (p : Pinning) :
      Kept a.s (Acc.walk (pinElem src dst start view room) l { a with grain := some g } p).1.s :=
    kept_walk (fun _ _ _ => kept_pinElem ..) l { a with grain := some g } p
  unfold copyRun
  dsimp only
  split
  · exact kept_trap ..
  · split
    · exact kept_failAt { a with grain := some (shapeOf (a.s.cur.hread hs)).grain } _
    · generalize hq : Acc.walk (pinElem _ _ _ view _) _ _ _ = q
      have h : Kept a.s q.1.s := by
        rw [← hq]
        exact k ..
      refine kept_accIte h (kept_accIte (h.trans (kept_trap ..)) ?_)
      have w := h.trans ((kept_effective q.1 a.s.cur.ctx false q.2.reads).trans (kept_effective _ a.s.cur.ctx true q.2.writes))
      exact w.trans ⟨rfl, rfl, id⟩

theorem keeps_tcopyDesc (f : FmtV) : (tcopyDesc f).Keeps := by
  refine ⟨fun _ _ _ => kept_copyRun .., fun _ view a => ?_⟩
  unfold tcopyDesc
  dsimp only
  split
  · exact kept_trap ..
  · exact .refl _

/-! ## Launches -/

theorem kept_acceptLaunch (s : State) (k : LaunchAsk) (pages : List (List Nat)) : Kept s (s.acceptLaunch k pages).2 := ⟨rfl, rfl, id⟩

theorem kept_readNodes (view : View) (va : Nat) : ∀ (n i : Nat) (a : Acc), Kept a.s (a.readNodes view va n i).2.s
  | 0, _, a => .refl a.s
  | n + 1, i, a => by
    unfold Acc.readNodes
    dsimp only
    have h := kept_readRecord a view 0 true (va + 64 * i) 64 64 Need.load
    generalize a.readRecord _ _ _ _ _ _ = p at h ⊢
    split
    · exact h
    · exact h.trans (kept_readNodes ..)

theorem kept_readGraph (a : Acc) (view : View) (bs : List Byte) : Kept a.s (a.readGraph view bs).2.2.s := by
  unfold Acc.readGraph
  dsimp only
  split
  · exact .refl _
  · have h := kept_readRecord a view 0 true (fieldAt bs 0x20 8) 64 64 Need.load
    generalize a.readRecord _ _ _ _ _ _ = p at h ⊢
    split
    · exact h
    · exact h.trans (kept_readNodes ..)

theorem keeps_spawnDesc (f : FmtSR) : (spawnDesc f).Keeps := by
  refine ⟨fun _ view a => ?_, fun _ _ _ => .refl _⟩
  unfold spawnDesc
  dsimp only
  split
  · exact .refl _
  · have h := kept_readRecord a view 0 true view.opa.toNat 64 64 Need.load
    generalize a.readRecord _ _ _ _ _ _ = p at h ⊢
    have j := h.trans (kept_readGraph p.2 view p.1)
    generalize p.2.readGraph view p.1 = q at j ⊢
    split
    · exact j
    · split
      · exact j.trans (kept_trap ..)
      · split
        · exact j.trans (kept_trap ..)
        · exact j.trans ((kept_acceptLaunch q.2.2.s _ _).trans (kept_setG { q.2.2 with s := _ } ..))

theorem keeps_vclaimDesc (f : FmtSR) : (vclaimDesc f).Keeps := by
  refine ⟨fun _ view a => ?_, fun _ _ _ => .refl _⟩
  unfold vclaimDesc
  dsimp only
  split
  · exact .refl _
  · split
    · exact kept_failAt ..
    · have h := kept_reachPart a.s a.s.cur.ctx (view.opa.toNat : Nat) 16 Need.both none (oobPlain (view.opa.toNat : Nat))
      generalize a.s.reachPart a.s.cur.ctx _ 16 Need.both none _ = p at h ⊢
      split
      · exact kept_accIte (by exact h) (h.trans (kept_failAt { a with s := p.2 } _))
      · split
        · exact h
        · split
          · exact h.trans (kept_failAt { a with s := p.2 } _)
          · generalize hb : ({ a with s := p.2 } : Acc).effective _ _ _ = b
            have w : Kept p.2 b.s := hb ▸ kept_effective { a with s := p.2 } ..
            generalize hq : b.s.strongUpdate _ _ _ = q
            have z : Kept b.s q.2 := hq ▸ kept_strongUpdate ..
            exact (h.trans w).trans (z.trans (kept_setG { b with s := q.2 } ..))

/-! ## Rings -/

theorem keeps_ringDesc (scalars : List Source) {run : View → Acc → Acc} (h : ∀ view a, Kept a.s (run view a).s) :
    (ringDesc scalars run).Keeps := by
  refine ⟨fun _ view a => ?_, fun _ _ _ => .refl _⟩
  unfold ringDesc
  dsimp only
  split
  · exact .refl _
  · exact h view a

theorem kept_setRing (s : State) (r : Nat) (x : Ring) : Kept s (s.setRing r x) := ⟨rfl, rfl, id⟩

theorem kept_ringTrap (a : Acc) (view : View) (check : Nat) : Kept a.s (a.ringTrap view check).s := kept_trap ..

theorem kept_ringPut (s : State) (r : Ring) (va : Nat) (bs : List Byte) : Kept s (s.ringPut r va bs) :=
  kept_foldl (fun s (p : Nat × Nat) => kept_ite ((kept_ringTouch s r p.1 true).trans (kept_put _ (r.paOf p.1) ((bs.drop (p.1 - va)).take p.2)))
    (.refl s)) _ s

theorem kept_landArrival (s : State) (n : Nat) (h : RingHead) (payload : List Byte) : Kept s (s.landArrival n h payload) := by
  unfold State.landArrival
  refine Kept.trans ?_ (kept_setRing ..)
  exact kept_ite (((kept_ringPut ..).trans (kept_ringPut ..)).trans (kept_foldl (fun s (w : Nat × Nat) => kept_addWild s w.1 w.2) _ _))
    ((kept_ringPut ..).trans (kept_ringPut ..))

theorem kept_ringConfigure (n : Nat) (view : View) (a : Acc) : Kept a.s (ringConfigure n view a).s := by
  unfold ringConfigure
  dsimp only
  have h := kept_readRecord a view 0 true view.opa.toNat 128 128 Need.load
  generalize a.readRecord _ _ _ _ _ _ = p at h ⊢
  split
  · exact h
  · generalize ringOf a.s.cur.part.toNat p.1 = r
    split
    · exact h.trans (kept_ringTrap ..)
    · split
      · exact h.trans (kept_ringTrap ..)
      · have k (c : Cand) : Kept a.s (p.2.failAt { elem := 0, cause := c.cause, sub := c.sub, addr := c.addr / 4096 * 4096, lane := 0 }).s :=
          h.trans (kept_failAt ..)
        split
        · exact k _
        · exact k _
        · exact k _
        · refine kept_accIte (by exact h) ?_
          split
          · exact h.trans (kept_failAt ..)
          · exact kept_accIte (h.trans (kept_ringTrap ..)) (h.trans (((kept_foldl (fun s (x : Reach) => kept_cacheLeaf s _ x.va x.leaf) _ _).trans
              (kept_foldl (fun s (x : Reach) => kept_touch s _ x.va x.leaf false) _ _)).trans (kept_setRing ..)))

theorem keeps_ringCfgDesc (f : FmtV) : (ringCfgDesc f).Keeps := keeps_ringDesc _ (kept_ringConfigure _)

theorem kept_readPayload (view : View) : ∀ (l : List (Nat × Nat)) (a : Acc), Kept a.s (readPayload view l a).2.s
  | [], a => .refl a.s
  | (va, n) :: rest, a => by
    unfold readPayload
    dsimp only
    have h := kept_reachPart a.s a.s.cur.ctx (va : Nat) n Need.load none (oobPlain va)
    generalize a.s.reachPart a.s.cur.ctx _ n Need.load none _ = p at h ⊢
    split
    · exact kept_accIte (by exact h) (h.trans (kept_failFirst { a with s := p.2 } ..))
    · split
      · exact h
      · exact h.trans ((kept_effective { a with s := p.2 } ..).trans (kept_readPayload ..))

theorem kept_ringPostRun (n : Nat) (view : View) (a : Acc) : Kept a.s (ringPostRun n view a).s := by
  unfold ringPostRun
  dsimp only
  split
  · exact kept_ringTrap ..
  · have h := kept_readRecord a view 0 false ((a.s.ring n).own.toNat + 32 * (a.s.ring n).landed) 32 32 Need.load
    generalize a.readRecord _ _ _ _ _ _ = p at h ⊢
    split
    · exact h
    · split
      · exact h.trans (kept_ringTrap ..)
      · have j := h.trans (kept_readPayload view (partsOf (fieldAt p.1 0 8) (fieldAt p.1 8 4)) p.2)
        generalize readPayload view _ p.2 = q at j ⊢
        split
        · exact j
        · exact j.trans (kept_landArrival ..)

theorem keeps_ringPostDesc (f : FmtV) : (ringPostDesc f).Keeps := keeps_ringDesc _ (kept_ringPostRun _)

theorem keeps_qbindRingDesc (f : FmtV) : (qbindRingDesc f).Keeps := by
  refine ⟨fun _ view a => ?_, fun _ _ _ => .refl _⟩
  unfold qbindRingDesc ringDesc
  dsimp only
  split
  · exact .refl _
  · split
    · exact kept_ringTrap ..
    · split <;> exact ⟨rfl, rfl, id⟩

theorem keeps_ringHdrDesc (f : FmtV) : (ringHdrDesc f).Keeps := by
  refine keeps_ringDesc _ (fun view a => ?_)
  dsimp only
  split
  · exact kept_trap ..
  · split
    · exact kept_setG ..
    · split
      · exact kept_setRing ..
      · exact (kept_setRing ..).trans (kept_setG { a with s := _ } ..)
      · exact ⟨outer_gwrite .., rfl, id⟩

theorem kept_setBitsAt (s : State) (pa x : Nat) : Kept s (s.setBitsAt pa x) :=
  (kept_put s pa _).trans
    (Kept.trans (t := (s.put pa (leBytes 1 (leNat (s.read pa 1) ||| x))).dropLanded pa 1) ⟨rfl, rfl, id⟩ (kept_noteStrong ..))

theorem kept_ringCleared {s t : State} (h : Kept s t) (n : Nat) (r : Ring) (q : Nat) (x : Stream) :
    Kept s ((t.setRing n r).mod (fun t => t.qwrite q x)) :=
  (h.trans (kept_setRing t n r)).trans (kept_mod rfl)

theorem keeps_ringDoneDesc (f : FmtV) : (ringDoneDesc f).Keeps := by
  refine keeps_ringDesc _ (fun view a => ?_)
  dsimp only
  split
  · exact kept_trap ..
  · split
    · exact kept_ringTrap ..
    · split
      · exact .refl _
      · split
        · exact kept_ringTrap ..
        · exact kept_accIte (.refl _) (kept_ringCleared (kept_ite ((kept_ringTouch a.s ..).trans (kept_setBitsAt ..)) (.refl _)) ..)

theorem keeps_ringStatDesc (f : FmtV) : (ringStatDesc f).Keeps := by
  refine keeps_ringDesc _ (fun view a => ?_)
  split
  · exact kept_ringTrap ..
  · exact kept_setG ..

theorem keeps_ringBrkDesc (f : FmtV) : (ringBrkDesc f).Keeps := by
  refine keeps_ringDesc _ (fun view a => ?_)
  dsimp only
  split
  · exact kept_ringTrap ..
  · exact kept_setRing ..

/-! ## Stitched tensors -/

theorem kept_halt (u : UnitRun) (k : UnitStop) : Kept u.s (u.halt k).s := by
  unfold UnitRun.halt
  split <;> exact .refl _

theorem kept_unitFail (u : UnitRun) (cause : BitVec 8) (sub addr : Nat) : Kept u.s (u.fail cause sub addr).s := kept_halt ..

theorem kept_reachParts (need : Need) : ∀ (l : List (Nat × Nat)) (u : UnitRun), Kept u.s (u.reachParts need l).2.s
  | [], u => .refl u.s
  | p :: ps, u => by
    unfold UnitRun.reachParts
    dsimp only
    have h := kept_reachPart u.s u.c (p.1 : Nat) p.2 need none (oobPlain (p.1 : Nat))
    generalize u.s.reachPart u.c _ p.2 need none _ = x at h ⊢
    split
    · exact h.trans (kept_halt { u with s := x.2 } _)
    · split
      · exact h.trans (kept_halt { u with s := x.2 } _)
      · exact h.trans (kept_reachParts need ps { u with s := x.2 })

theorem kept_unitReach (u : UnitRun) (va n : Nat) (need : Need) : Kept u.s (u.reach va n need).2.s := by
  unfold UnitRun.reach
  split
  · exact .refl _
  · exact kept_reachParts ..

theorem kept_unitTouch (u : UnitRun) (rs : List Reach) : Kept u.s (u.touch rs).s := by
  refine kept_foldl (fun s r => ?_) rs u.s
  split
  · exact (kept_touch ..).trans (kept_noteAccess ..)
  · exact kept_touch ..

theorem kept_unitRead (u : UnitRun) (va n : Nat) : Kept u.s (u.read va n).2.s := by
  unfold UnitRun.read
  dsimp only
  have h := kept_unitReach u va n Need.load
  generalize u.reach va n Need.load = p at h ⊢
  split
  · exact h
  · exact h.trans (kept_unitTouch ..)

theorem kept_reachWrites : ∀ (l : List (Nat × List Byte)) (u : UnitRun), Kept u.s (u.reachWrites l).2.s
  | [], u => .refl u.s
  | w :: ws, u => (kept_unitReach u w.1 w.2.length Need.store).trans (kept_reachWrites ws _)

theorem kept_writeParts : ∀ (l : List Reach) (bs : List Byte) (s : State), Kept s (s.writeParts l bs)
  | [], _, s => .refl s
  | r :: rs, bs, s => (kept_write s r.pa (bs.take r.size)).trans (kept_writeParts rs (bs.drop r.size) _)

theorem kept_unitCommit (u : UnitRun) (ws : List (Nat × List Byte)) : Kept u.s (u.commit ws).s := by
  unfold UnitRun.commit
  dsimp only
  have h := kept_reachWrites ws u
  generalize u.reachWrites ws = p at h ⊢
  split
  · exact h
  · exact h.trans ((kept_unitTouch p.2 p.1.flatten).trans (kept_foldl (fun s (x : List Reach × Nat × List Byte) => kept_writeParts x.1 x.2.2 s) _ _))

theorem kept_header (u : UnitRun) (va : Nat) : Kept u.s (u.header va).2.s := by
  unfold UnitRun.header
  dsimp only
  split
  · exact kept_halt ..
  · have h := kept_unitRead u va 64
    generalize u.read va 64 = p at h ⊢
    split
    · exact h
    · exact h.trans (kept_halt ..)

/-- A stop under a condition keeps what the run kept. -/
theorem kept_unitIf {c : Prop} [Decidable c] {s : State} {x y : UnitRun} (h : Kept s x.s) (k : Kept s y.s) : Kept s (if c then x else y).s := by
  split
  · exact h
  · exact k

theorem kept_entry (u : UnitRun) (h : Head) (e : Nat) : Kept u.s (u.entry h e).2.s :=
  kept_unitIf (kept_unitRead ..) ((kept_unitRead ..).trans (kept_halt ..))

theorem kept_slot (u : UnitRun) (h : Head) (n : Nat) : Kept u.s (u.slot h n).2.s := kept_unitRead ..

theorem kept_list (h : Head) : ∀ (n e : Nat) (u : UnitRun), Kept u.s (u.list h n e).2.s
  | 0, e, u => by
    unfold UnitRun.list
    dsimp only
    split
    · exact .refl _
    · exact kept_halt ..
  | n + 1, e, u => by
    unfold UnitRun.list
    dsimp only
    split
    · exact .refl _
    · split
      · exact kept_halt ..
      · exact (kept_entry u h e).trans (kept_list h n _ _)

theorem kept_handle (u : UnitRun) (x : Word) : Kept u.s (u.handle x).2.2.2.s := by
  unfold UnitRun.handle
  dsimp only
  split
  · exact kept_unitFail ..
  · have h := kept_header u (64 * bitsOf x.toNat 55 6)
    generalize u.header (64 * bitsOf x.toNat 55 6) = p at h ⊢
    split
    · exact h.trans (kept_unitFail ..)
    · dsimp only
      split
      · exact h.trans ((kept_slot ..).trans (kept_unitFail ..))
      · exact h.trans (kept_slot ..)

theorem kept_anchor (h : Head) (s x : Nat) : ∀ (n lo hi : Nat) (u : UnitRun), Kept u.s (u.anchor h s x n lo hi).2.s
  | 0, _, _, u => .refl u.s
  | n + 1, lo, hi, u => by
    unfold UnitRun.anchor
    dsimp only
    split
    · exact .refl _
    · split
      · exact (kept_unitRead ..).trans (kept_anchor ..)
      · exact (kept_unitRead ..).trans (kept_anchor ..)

theorem kept_unitWalk (h : Head) (v x : Nat) : ∀ (n e p : Nat) (u : UnitRun), Kept u.s (u.walk h v x n e p).2.s
  | 0, _, _, u => kept_halt ..
  | n + 1, e, p, u => by
    unfold UnitRun.walk
    dsimp only
    split
    · exact .refl _
    · split
      · exact kept_halt ..
      · split
        · exact (kept_entry ..).trans (kept_unitWalk ..)
        · split
          · exact (kept_entry ..).trans (kept_unitWalk ..)
          · exact kept_entry ..

theorem kept_find (u : UnitRun) (h : Head) (s : Nat) (r : SlotRecord) (x : Nat) : Kept u.s (u.find h s r x).2.s := by
  unfold UnitRun.find
  generalize 11 = n
  dsimp only
  have k := kept_anchor h s x n 0 (min r.nanch 1024) u
  generalize u.anchor h s x n 0 (min r.nanch 1024) = p at k ⊢
  split
  · exact k.trans (kept_unitWalk ..)
  · exact (k.trans (kept_unitIf (kept_unitRead ..) ((kept_unitRead ..).trans (kept_halt ..)))).trans (kept_unitWalk ..)

theorem kept_freeList (h : Head) : ∀ (n e : Nat) (u : UnitRun), Kept u.s (u.freeList h n e).2.2.s
  | 0, _, u => .refl u.s
  | n + 1, e, u => by
    unfold UnitRun.freeList
    dsimp only
    split
    · exact .refl _
    · split
      · exact kept_halt ..
      · exact (kept_entry u h e).trans (kept_freeList h n _ _)

theorem kept_splicePlan (u : UnitRun) (h : Head) (r : SlotRecord) (pos rem : Nat) (ins : List Insert) :
    Kept u.s (u.splicePlan h r pos rem ins).2.s := by
  unfold UnitRun.splicePlan
  have k := kept_list h h.cap h.head u
  generalize u.list h h.cap h.head = p at k ⊢
  rcases p with ⟨full, u1⟩
  dsimp -zeta only at k ⊢
  extract_lets pieces total u2 dying new length count u3 u4 extra u5
  have k2 : Kept u.s u2.s := kept_unitIf k (k.trans (kept_halt ..))
  have k3 : Kept u.s u3.s := kept_unitIf (k2.trans (kept_unitFail ..)) k2
  have j := k3.trans (kept_freeList h new.length h.free u3)
  have k4 : Kept u.s u4.s := kept_unitIf j (j.trans (kept_halt ..))
  exact kept_unitIf (k4.trans (kept_unitFail ..)) k4

theorem kept_splice (u : UnitRun) (h : Head) (pos rem : Nat) (ins : List Insert) : Kept u.s (u.splice h pos rem ins).s := by
  unfold UnitRun.splice
  have k := kept_slot u h h.curslot
  generalize u.slot h h.curslot = p at k ⊢
  rcases p with ⟨r, u1⟩
  dsimp -zeta only at k ⊢
  extract_lets u2 u3
  have k2 : Kept u.s u2.s := kept_unitIf (k.trans (kept_unitFail ..)) k
  have k3 : Kept u.s u3.s := kept_unitIf (k2.trans (kept_unitFail ..)) k2
  split
  · exact k3
  · have j := k3.trans (kept_splicePlan u3 h r pos rem ins)
    generalize u3.splicePlan h r pos rem ins = q at j ⊢
    split
    · exact j
    · exact j.trans (kept_unitCommit ..)

theorem kept_records : ∀ (n va : Nat) (u : UnitRun), Kept u.s (u.records n va).2.s
  | 0, _, u => .refl u.s
  | n + 1, va, u => by
    unfold UnitRun.records
    dsimp only
    split
    · exact .refl _
    · exact (kept_unitRead u va 16).trans (kept_records n _ _)

theorem kept_descriptor (u : UnitRun) (h : Head) (d : Nat) : Kept u.s (u.descriptor h d).2.2.2.s := by
  unfold UnitRun.descriptor
  split
  · exact kept_unitFail ..
  · have k := kept_unitRead u d 32
    generalize u.read d 32 = p at k ⊢
    rcases p with ⟨bs, u1⟩
    dsimp -zeta only at k ⊢
    extract_lets list n u2
    have k2 : Kept u.s u2.s := kept_unitIf (k.trans (kept_unitFail ..)) k
    have j := k2.trans (kept_records n list u2)
    exact kept_unitIf (j.trans (kept_halt ..)) j

theorem kept_versions (h : Head) : ∀ (l : List Nat) (u : UnitRun), Kept u.s (u.versions h l).2.s
  | [], u => .refl u.s
  | n :: l, u => by
    unfold UnitRun.versions
    split
    · exact (kept_slot u h n).trans (kept_versions h l _)
    · exact kept_versions h l u

theorem kept_outputs (va : Nat) : ∀ (n i : Nat) (u : UnitRun), Kept u.s (u.outputs va n i).2.2.s
  | 0, _, u => .refl u.s
  | n + 1, i, u => by
    unfold UnitRun.outputs
    dsimp only
    have k := kept_unitReach u (va + 16 * i) 16 Need.store
    generalize u.reach (va + 16 * i) 16 Need.store = p at k ⊢
    split
    · exact k
    · exact k
    · exact k.trans (kept_outputs ..)

theorem kept_undefine (u : UnitRun) (va : Nat) : Kept u.s (u.undefine va) := by
  unfold UnitRun.undefine
  dsimp only
  have k := kept_unitReach { u with stop := none } va 64 Need.load
  generalize ({ u with stop := none } : UnitRun).reach va 64 Need.load = p at k ⊢
  split
  · exact k.trans ⟨rfl, rfl, id⟩
  · exact k

/-- What an operation of the unit comes to for its entry, where the run and what follows it keep. -/
theorem kept_unit (a : Acc) (view : View) (gd : BitVec 5) (ofVl : Bool) {u : UnitRun} {done : Acc → Acc} (h : Kept a.s u.s)
    (k : ∀ a, Kept a.s (done a).s) : Kept a.s (a.unit view gd ofVl u done).s := by
  unfold Acc.unit
  split
  · exact kept_failAt ..
  · exact kept_trap ..
  · exact .refl _
  · split
    · exact kept_failAt ..
    · have j : Kept a.s (({ a with s := { u.s with tick := u.s.tick + 1 } } : Acc).setG gd (Config.brokenRunAddress a.s.tick)).s :=
        h.trans ⟨outer_gwrite .., rfl, id⟩
      dsimp only
      split <;> exact j
  · exact h.trans (k { a with s := u.s })

theorem keeps_stitchDesc (scalars : List Source) {run : View → Acc → Acc} (h : ∀ view a, Kept a.s (run view a).s) :
    (stitchDesc scalars run).Keeps := by
  refine ⟨fun _ view a => ?_, fun _ _ _ => .refl _⟩
  unfold stitchDesc
  dsimp only
  split
  · exact .refl _
  · exact h view a

theorem keeps_xpinDesc (f : FmtV) : (xpinDesc f).Keeps := by
  refine keeps_stitchDesc _ (fun view a => ?_)
  have k := kept_header (UnitRun.start a.s) view.opa.toNat
  generalize (UnitRun.start a.s).header view.opa.toNat = p at k ⊢
  rcases p with ⟨h, u1⟩
  have j := k.trans (kept_slot u1 h h.curslot)
  dsimp only
  generalize u1.slot h h.curslot = q at j ⊢
  exact kept_unit _ _ _ _ ((kept_unitIf (j.trans (kept_unitFail ..)) j).trans (kept_unitCommit ..)) (fun _ => kept_setG ..)

theorem keeps_xunpinDesc (f : FmtV) : (xunpinDesc f).Keeps := by
  refine keeps_stitchDesc _ (fun view a => ?_)
  have k := kept_handle (UnitRun.start a.s) view.opa
  generalize (UnitRun.start a.s).handle view.opa = p at k ⊢
  rcases p with ⟨h, s, r, u1⟩
  exact kept_unit _ _ _ _ (Kept.trans k (kept_unitCommit ..)) (fun _ => .refl _)

theorem keeps_xlenDesc (f : FmtV) : (xlenDesc f).Keeps := by
  refine keeps_stitchDesc _ (fun view a => ?_)
  have k := kept_handle (UnitRun.start a.s) view.opa
  generalize (UnitRun.start a.s).handle view.opa = p at k ⊢
  rcases p with ⟨h, s, r, u1⟩
  exact kept_unit _ _ _ _ k (fun _ => kept_setG ..)

theorem keeps_xrunDesc (f : FmtV) : (xrunDesc f).Keeps := by
  refine keeps_stitchDesc _ (fun view a => ?_)
  have k := kept_handle (UnitRun.start a.s) view.opa
  generalize (UnitRun.start a.s).handle view.opa = p at k ⊢
  rcases p with ⟨h, s, r, u1⟩
  dsimp only
  split
  · exact kept_unit _ _ _ _ k (fun _ => kept_setG ..)
  · have j := Kept.trans k (kept_find u1 h s r view.opb.toNat)
    generalize u1.find h s r view.opb.toNat = q at j ⊢
    refine kept_unit _ _ _ _ j (fun a => ?_)
    split
    · exact kept_setG ..
    · exact .refl _

theorem keeps_xspliceDesc (f : FmtV) : (xspliceDesc f).Keeps := by
  refine keeps_stitchDesc _ (fun view a => ?_)
  have k := kept_header (UnitRun.start a.s) view.opa.toNat
  generalize (UnitRun.start a.s).header view.opa.toNat = p at k ⊢
  rcases p with ⟨h, u1⟩
  have j : Kept a.s (if u1.stop.isSome = true then (0, 0, [], u1) else u1.descriptor h view.opb.toNat).2.2.2.s := by
    split
    · exact k
    · exact Kept.trans k (kept_descriptor ..)
  dsimp only
  generalize (if u1.stop.isSome = true then (0, 0, [], u1) else u1.descriptor h view.opb.toNat) = q at j ⊢
  rcases q with ⟨pos, rem, ins, u2⟩
  dsimp only at j ⊢
  have i : Kept a.s (if u2.stop.isSome = true then u2 else u2.splice h pos rem ins).s := kept_unitIf j (j.trans (kept_splice ..))
  generalize (if u2.stop.isSome = true then u2 else u2.splice h pos rem ins) = u3 at i ⊢
  refine kept_unit _ _ _ _ ?_ (fun _ => kept_setG ..)
  split
  · exact i.trans (kept_undefine ..)
  · exact i

theorem keeps_xreapDesc (f : FmtV) : (xreapDesc f).Keeps := by
  refine keeps_stitchDesc _ (fun view a => ?_)
  extract_lets out
  split
  · exact .refl _
  · have k := kept_header (UnitRun.start a.s) view.opa.toNat
    generalize (UnitRun.start a.s).header view.opa.toNat = p at k ⊢
    rcases p with ⟨h, u1⟩
    have j : Kept a.s (if u1.stop.isSome = true then (0, none, u1) else u1.outputs out view.vl 0).2.2.s := by
      split
      · exact k
      · exact Kept.trans k (kept_outputs ..)
    dsimp -zeta only
    generalize (if u1.stop.isSome = true then (0, none, u1) else u1.outputs out view.vl 0) = q at j ⊢
    rcases q with ⟨c, why, u2⟩
    dsimp -zeta only at j ⊢
    extract_lets u3 n u6 u7
    have k3 : Kept a.s u3.s := by
      show Kept a.s (match why with | some x => if c = 0 then u2.halt (.cause x) else u2 | none => u2).s
      split
      · exact kept_unitIf (j.trans (kept_halt ..)) j
      · exact j
    have k5 := (k3.trans (kept_versions h (List.range 8) u3)).trans (kept_list h h.cap h.head (u3.versions h (List.range 8)).2)
    have k6 : Kept a.s u6.s := kept_unitIf k5 (k5.trans (kept_unitCommit ..))
    refine kept_unit _ _ _ _ (kept_unitIf (k6.trans (kept_undefine ..)) k6) (fun a => ?_)
    dsimp only
    split
    · split
      · exact ⟨outer_gwrite .., rfl, id⟩
      · exact kept_setG ..
    · exact kept_setG ..

/-! ## Sealed records -/

theorem kept_sealRun (opens : Bool) (view : View) (a : Acc) : Kept a.s (sealRun opens view a).s := by
  unfold sealRun
  dsimp only
  have k := kept_readRecord a view 0 true view.opa.toNat 64 64 Need.both
  generalize a.readRecord _ _ _ _ _ _ _ = p at k ⊢
  repeat' first | exact k | exact k.trans (kept_trap ..) | split

theorem keeps_sealDesc (opens : Bool) (f : FmtV) : (sealDesc opens f).Keeps := by
  refine ⟨fun _ view a => ?_, fun _ _ _ => .refl _⟩
  unfold sealDesc
  dsimp only
  split
  · exact .refl _
  · exact kept_sealRun ..

end Sys2Proof.Machine
end

