-- ==== Sys2Proof/Laws/KeepsQueue.lean ====
section
/-!
SUPPORT. What a running entry keeps (Laws/Keeps.lean), for every queued word: the description of any word keeps it, and so does whatever
running an entry comes to (R83, R87).
-/
namespace Sys2Proof.Machine

@[simp] theorem keeps_noDesc : noDesc.Keeps := ⟨fun _ _ _ => .refl _, fun _ _ _ => .refl _⟩

@[simp] theorem keeps_desc1D (w : BitVec 32) : (desc1D w).Keeps := by
  unfold desc1D
  split
  · exact keeps_spawnDesc _
  · exact keeps_vclaimDesc _
  · exact keeps_noDesc

@[simp] theorem keeps_desc20 (w : BitVec 32) : (desc20 w).Keeps := by
  unfold desc20
  split
  · exact keeps_qbindDesc _
  · exact keeps_qfreeDesc _
  · exact keeps_vpopDesc _
  · exact keeps_hldDesc _
  · exact keeps_hstDesc _
  · exact keeps_tcopyDesc _
  · exact keeps_noDesc

@[simp] theorem keeps_desc21 (w : BitVec 32) : (desc21 w).Keeps := by
  unfold desc21
  split
  · exact keeps_xpinDesc _
  · exact keeps_xunpinDesc _
  · exact keeps_xrunDesc _
  · exact keeps_xspliceDesc _
  · exact keeps_xreapDesc _
  · exact keeps_xlenDesc _
  · exact keeps_noDesc

@[simp] theorem keeps_desc22 (w : BitVec 32) : (desc22 w).Keeps := by
  unfold desc22
  split
  · exact keeps_ringCfgDesc _
  · exact keeps_ringPostDesc _
  · exact keeps_qbindRingDesc _
  · exact keeps_ringHdrDesc _
  · exact keeps_ringDoneDesc _
  · exact keeps_ringStatDesc _
  · exact keeps_ringBrkDesc _
  · exact keeps_noDesc

@[simp] theorem keeps_desc23 (w : BitVec 32) : (desc23 w).Keeps := by
  unfold desc23
  split
  · exact keeps_sealDesc ..
  · exact keeps_sealDesc ..
  · exact keeps_noDesc

@[simp] theorem keeps_desc28 (w : BitVec 32) : (desc28 w).Keeps := by
  unfold desc28
  split
  all_goals first | exact keeps_elementWise .. | exact keeps_noDesc

@[simp] theorem keeps_desc29 (w : BitVec 32) : (desc29 w).Keeps := by
  unfold desc29
  split
  all_goals first | exact keeps_elementWise .. | exact keeps_noDesc

@[simp] theorem keeps_desc2A (w : BitVec 32) : (desc2A w).Keeps := by
  unfold desc2A
  split
  all_goals first | exact keeps_compareDesc .. | exact keeps_noDesc

@[simp] theorem keeps_desc2B (w : BitVec 32) : (desc2B w).Keeps := by
  unfold desc2B
  split
  all_goals first | exact keeps_predicateDesc .. | exact keeps_noDesc

@[simp] theorem keeps_desc2C (w : BitVec 32) : (desc2C w).Keeps := by
  unfold desc2C
  split
  · exact keeps_vmovDesc _
  · exact keeps_permuteDesc ..
  · exact keeps_permuteDesc ..
  · exact keeps_vpermDesc _
  · exact keeps_vcompressDesc _
  · exact keeps_vexpandDesc _
  · exact keeps_vbcastDesc _
  · exact keeps_permuteDesc ..
  · exact keeps_vextDesc _
  · exact keeps_vinsDesc _
  · exact keeps_noDesc

@[simp] theorem keeps_desc2D (w : BitVec 32) : (desc2D w).Keeps := by
  unfold desc2D
  split
  all_goals first | exact keeps_reduction .. | exact keeps_scanDesc .. | exact keeps_vredGsumDesc _ | exact keeps_noDesc

@[simp] theorem keeps_desc2E (w : BitVec 32) : (desc2E w).Keeps := by
  unfold desc2E
  split
  · exact keeps_convertDesc ..
  · exact keeps_convertDesc ..
  · exact keeps_convertDesc ..
  · exact keeps_convertDesc ..
  · exact keeps_predicateCount ..
  · exact keeps_predicateCount ..
  · exact keeps_vfrompDesc _
  · exact keeps_vtopDesc _
  · exact keeps_noDesc

@[simp] theorem keeps_desc2F (w : BitVec 32) : (desc2F w).Keeps := by
  unfold desc2F
  split
  all_goals first | exact keeps_elementScalar .. | exact keeps_noDesc

@[simp] theorem keeps_desc30 (w : BitVec 32) : (desc30 w).Keeps := by
  unfold desc30
  split
  · exact keeps_vldDesc _
  · exact keeps_vldsDesc _
  · exact keeps_vldtDesc _
  all_goals first | exact keeps_segmentLoad .. | exact keeps_noDesc

@[simp] theorem keeps_desc31 (w : BitVec 32) : (desc31 w).Keeps := by
  unfold desc31
  split
  · exact keeps_vstDesc _
  · exact keeps_vstsDesc _
  · exact keeps_vsttDesc _
  all_goals first | exact keeps_segmentStore .. | exact keeps_noDesc

@[simp] theorem keeps_desc32 (w : BitVec 32) : (desc32 w).Keeps := by
  unfold desc32
  split
  all_goals first | exact keeps_gatherDesc .. | exact keeps_scatterDesc .. | exact keeps_noDesc

@[simp] theorem keeps_desc33 (w : BitVec 32) : (desc33 w).Keeps := by
  unfold desc33
  split
  all_goals first | exact keeps_atomicDesc .. | exact keeps_noDesc

@[simp] theorem keeps_desc34 (w : BitVec 32) : (desc34 w).Keeps := by
  unfold desc34
  split
  · exact keeps_mmabDesc _
  · exact keeps_mmahDesc _
  · exact keeps_mzeroDesc _
  · exact keeps_vwmacDesc _
  · exact keeps_vbnormDesc _
  · exact keeps_vbexpF32Desc _
  · exact keeps_vbexpGetDesc _
  · exact keeps_vbexpSetDesc _
  · exact keeps_noDesc

@[simp] theorem keeps_desc35 (w : BitVec 32) : (desc35 w).Keeps := by
  unfold desc35
  split
  · exact keeps_vgroupDesc _
  · exact keeps_vxsectDesc _
  · exact keeps_vmergeDesc _
  · exact keeps_segmentDesc ..
  · exact keeps_segmentDesc ..
  · exact keeps_segmentDesc ..
  · exact keeps_noDesc

@[simp] theorem keeps_desc36 (w : BitVec 32) : (desc36 w).Keeps := by
  unfold desc36
  split
  · exact keeps_tconDesc _
  · exact keeps_noDesc

@[simp] theorem keeps_desc37 (w : BitVec 32) : (desc37 w).Keeps := by
  unfold desc37
  split
  · exact keeps_vdescDesc _
  · exact keeps_vdescDesc _
  · exact keeps_vdescDesc _
  · exact keeps_vdescDesc _
  · exact keeps_vpnodeDesc _
  · exact keeps_vpgetDesc _
  · exact keeps_vpclrDesc _
  · exact keeps_noDesc

/-- Whatever a queued word is, running it keeps what a running entry must keep. -/
theorem keeps_descOf (w : BitVec 32) : (descOf w).Keeps := by
  unfold descOf
  split <;> simp [desc1F]

/-! ## Running an entry -/

/-- What running an entry came to keeps what it must of the state it began in. -/
def Ran.Keeps (s : State) : Ran → Prop
  | .done a _ _ => Kept s a.s
  | .again t => Kept s t
  | .lead _ => True
  | .check _ => True
  | .wait => True

theorem keeps_runTo {d : Desc} (h : d.Keeps) (view : View) (s : State) : ∀ (n v : Nat) (why : Option Fail), (runTo d view s n v why).Keeps s
  | 0, _, _ => trivial
  | n + 1, v, why => by
    have k := h.run v view (Acc.start s)
    unfold runTo
    dsimp only
    split
    · split
      · exact k
      · trivial
    · split
      · trivial
      · split
        · exact k
        · split
          · trivial
          · exact keeps_runTo h view s n _ _

theorem keeps_runEntry {d : Desc} (h : d.Keeps) (view : View) (s : State) : (runEntry d view s).Keeps s := by
  unfold runEntry
  split
  · exact keeps_runTo h ..
  · split
    · have k := h.empty view.vl view (Acc.start s)
      dsimp only
      split
      · trivial
      · split
        · trivial
        · exact k
    · exact keeps_runTo h ..

theorem keeps_runToCut {d : Desc} (h : d.Keeps) (view : View) (s : State) (kind : TrimKind) (size ends : Nat) (lane : Nat → Nat) {whole : Ran}
    (k : whole.Keeps s) : ∀ fuel cut : Nat, (runToCut d view s kind size ends lane whole fuel cut).Keeps s
  | 0, _ => k
  | fuel + 1, cut => by
    unfold runToCut
    split
    · exact k
    · split
      · exact keeps_runToCut h view s kind size ends lane k fuel (cut + 1)
      · exact keeps_runTo h ..

theorem keeps_runCut {d : Desc} (h : d.Keeps) (view : View) (s : State) (cut : Nat) : (runCut d view s cut).Keeps s := by
  have k := keeps_runEntry h view s
  unfold runCut
  split
  · rename_i hr
    rw [hr] at k
    split
    · exact k
    · exact keeps_runToCut h view s _ _ _ _ k ..
  · exact k

theorem ran_keeps {d : Desc} (h : d.Keeps) {view : View} {s : State} {cut : Nat} {r : Ran} (e : runCut d view s cut = r) : r.Keeps s :=
  e ▸ keeps_runCut h ..

/-! ## Working the queue -/

/-- What user mode may come to from thread `u`: the privileged registers stay, and the thread stays in user mode or stands at its handler
(R48, R305, R308). -/
structure Behind (u t : Thread) : Prop where
  tvec : t.tvec = u.tvec
  ptb : t.ptb = u.ptb
  keydef : t.keydef = u.keydef
  part : t.part = u.part
  colour : t.colour = u.colour
  hsave0 : t.hsave0 = u.hsave0
  hsave1 : t.hsave1 = u.hsave1
  mode : t.priv = false ∨ (t.ppriv = false ∧ t.busy = true ∧ t.pc = u.tvec)

theorem Behind.refl {u : Thread} (h : u.priv = false) : Behind u u := ⟨rfl, rfl, rfl, rfl, rfl, rfl, rfl, .inl h⟩

/-- A change of thread that leaves alone the mode, its saved copy, busy, the PC and the privileged registers. -/
theorem Behind.of {u t t' : Thread} (h : Behind u t)
    (k : (t'.tvec, t'.ptb, t'.keydef, t'.part, t'.colour, t'.hsave0, t'.hsave1, t'.priv, t'.ppriv, t'.busy, t'.pc) =
      (t.tvec, t.ptb, t.keydef, t.part, t.colour, t.hsave0, t.hsave1, t.priv, t.ppriv, t.busy, t.pc)) : Behind u t' := by
  simp only [Prod.mk.injEq] at k
  obtain ⟨k1, k2, k3, k4, k5, k6, k7, k8, k9, k10, k11⟩ := k
  exact ⟨k1.trans h.tvec, k2.trans h.ptb, k3.trans h.keydef, k4.trans h.part, k5.trans h.colour, k6.trans h.hsave0, k7.trans h.hsave1,
    by rw [k8, k9, k10, k11]; exact h.mode⟩

/-- A trap from where user mode may be: it enters the handler, or, while the thread handles one, stops it (R310). -/
theorem Behind.enterTrap {u t : Thread} (h : Behind u t) (cause : BitVec 8) (deferred : Bool) (epc eaddr einfo : Word) :
    Behind u (t.enterTrap cause deferred epc eaddr einfo) := by
  unfold Thread.enterTrap
  split
  · exact h.of rfl
  · rename_i hb
    have hp : t.priv = false := h.mode.resolve_right (fun x => hb x.2.1)
    exact ⟨h.tvec, h.ptb, h.keydef, h.part, h.colour, h.hsave0, h.hsave1, .inr ⟨hp, rfl, h.tvec⟩⟩

/-- In user mode a discard changes nothing that matters here. -/
theorem Behind.discard {u t : Thread} (h : Behind u t) (hp : t.priv = false) (gone : List Entry) : Behind u (t.discard gone) := by
  unfold Thread.discard
  split
  · exact h
  · exact ⟨h.tvec, h.ptb, h.keydef, h.part, h.colour, h.hsave0, h.hsave1, .inl hp⟩

theorem discard_priv (t : Thread) (gone : List Entry) : (t.discard gone).priv = t.priv := by
  unfold Thread.discard
  split <;> rfl

theorem Behind.holdTrap {u t : Thread} (h : Behind u t) (n : Nat) (es : BitVec 16) (cause : BitVec 8) (eaddr einfo : Word) :
    Behind u (t.holdTrap n es cause eaddr einfo) := by
  unfold Thread.holdTrap
  dsimp only
  split
  · exact h.of rfl
  · refine Behind.enterTrap ?_ ..
    exact Behind.mk h.tvec h.ptb h.keydef h.part h.colour h.hsave0 h.hsave1 h.mode

/-- What the queue's own work keeps for a thread that began as `u`. -/
structure Within (u : Thread) (s t : State) : Prop where
  behind : Behind u s.cur → Behind u t.cur
  canonical : s.mem.wf = true → t.mem.wf = true

theorem Within.refl {u : Thread} (s : State) : Within u s s := ⟨id, id⟩

theorem Within.trans {u : Thread} {s t v : State} (h : Within u s t) (k : Within u t v) : Within u s v :=
  ⟨k.behind ∘ h.behind, k.canonical ∘ h.canonical⟩

theorem Kept.within {u : Thread} {s t : State} (h : Kept s t) : Within u s t := by
  refine ⟨fun b => b.of ?_, h.canonical⟩
  have k := h.outer
  simp only [Thread.outer, Prod.mk.injEq] at k ⊢
  simp only [k, and_self]

theorem capYounger_of {u t : Thread} (h : Behind u t) (n epoch v : Nat) : Behind u (capYounger t n epoch v) := h.of rfl

/-- A change of the current thread alone. -/
theorem within_mod {u : Thread} {s : State} {f : Thread → Thread} (h : Behind u s.cur → Behind u (f s.cur)) : Within u s (s.mod f) := ⟨h, id⟩

theorem within_tock {u : Thread} (s : State) : Within u s s.tock := ⟨id, id⟩

theorem within_rowsDone {u : Thread} (s : State) (w : BitVec 32) : Within u s (s.rowsDone w) := by
  unfold State.rowsDone
  split
  · exact within_mod (fun b => b.of rfl)
  · exact .refl s

theorem within_finish {u : Thread} {s : State} {n : Nat} {e : Entry} {d : Desc} {view : View} {a : Acc} {v : Nat} {trim : Option Fail}
    (h : Kept s a.s) : Within u s (s.finish n e d view a v trim) := by
  refine h.within.trans ((within_tock _).trans ?_)
  unfold State.finish
  dsimp only
  refine within_mod (fun b => ?_)
  generalize a.s.tock.cur = t at b ⊢
  generalize a.s.microOf e.word = micro
  generalize a.vlOut = x
  cases trim <;> cases x <;> exact b.of rfl

theorem within_handOver {u : Thread} (s : State) (x : HandOff) : Within u s (s.handOver x) := by
  unfold State.handOver
  split
  · refine within_mod (fun b => ?_)
    unfold Thread.streamLive
    split
    · exact b
    · exact b.of rfl
  all_goals exact ⟨id, id⟩

theorem within_retireAt {u : Thread} (s : State) (n : Nat) (r : Retire) : Within u s (s.retireAt n r) := by
  unfold State.retireAt
  extract_lets s1 s2
  have h1 : Within u s s1 := ⟨fun b => b.of rfl, id⟩
  have h2 : Within u s s2 := h1.trans (within_handOver ..)
  split
  · exact h2
  · refine h2.trans (within_mod (fun b => ?_))
    dsimp only
    split
    · exact b.of rfl
    · exact Behind.enterTrap (Behind.of (t' := { s2.cur with queue := _, es := _, released := 0 }) b rfl) ..

theorem within_retireOne {u : Thread} {s t : State} (h : s.retireOne = some t) : Within u s t := by
  unfold State.retireOne at h
  split at h
  · cases h
  · split at h
    · split at h
      · cases h
        exact within_retireAt ..
      · cases h
    · cases h

theorem within_retireAll {u : Thread} : ∀ (n : Nat) (s : State), Within u s (s.retireAll n)
  | 0, s => .refl s
  | n + 1, s => by
    unfold State.retireAll
    split
    · exact .refl _
    · rename_i h
      exact (within_retireOne h).trans (within_retireAll n _)

theorem within_trapAt {u : Thread} (s : State) (n es : Nat) (cause : BitVec 8) (addr info : Word) (lead : Option (Word × Word)) :
    Within u s (s.trapAt n es cause addr info lead) := by
  unfold State.trapAt
  extract_lets older s1
  refine (within_retireAll older s).trans ?_
  split
  · exact .refl _
  · refine ⟨fun b => ?_, id⟩
    dsimp only [State.mod]
    cases lead
    · exact b.holdTrap ..
    · exact Behind.holdTrap (Behind.of b (by rfl)) ..

theorem within_lead {u : Thread} (s : State) (w : BitVec 32) (n es : Nat) (cause : BitVec 8) (addr info : Word) (lead : Option (Word × Word)) :
    Within u s ((s.tock.rowsDone w).trapAt n es cause addr info lead) :=
  ((within_tock s).trans (within_rowsDone ..)).trans (within_trapAt ..)

theorem within_dispatchAt {u : Thread} {s t : State} {descOf : BitVec 32 → Desc} (hd : ∀ w, (descOf w).Keeps) {cut n : Nat}
    (h : s.dispatchAt descOf cut n = some t) : Within u s t := by
  unfold State.dispatchAt at h
  split at h
  · cases h
  · dsimp only at h
    split at h
    · cases h
      exact within_trapAt ..
    · split at h
      all_goals rename_i hr; have k := ran_keeps (hd _) hr
      · cases h
      · cases h
        exact (Kept.within k).trans (within_tock _)
      · cases h
        exact (within_tock s).trans (within_trapAt ..)
      · cases h
        exact within_lead ..
      · cases h
        exact (within_finish k).trans (within_rowsDone ..)

theorem within_frameStep {u : Thread} {s t : State} {descOf : BitVec 32 → Desc} (hd : ∀ w, (descOf w).Keeps) {cut n : Nat} {f : Entry}
    (h : s.frameStep descOf cut n f = some t) : Within u s t := by
  unfold State.frameStep at h
  dsimp only at h
  split at h
  · cases h
    exact ⟨fun b => b.of rfl, id⟩
  · split at h
    · cases h
    · split at h
      · cases h
        exact within_trapAt ..
      · split at h
        · cases h
          exact within_trapAt ..
        · split at h
          all_goals rename_i hr; have k := ran_keeps (hd _) hr
          · cases h
          · cases h
            exact (Kept.within k).trans (within_tock _)
          · cases h
            exact (within_tock s).trans (within_trapAt ..)
          · cases h
            exact within_lead ..
          · cases h
            refine (Kept.within k).trans (((within_tock _).trans (within_rowsDone ..)).trans (within_mod (fun b => ?_)))
            split <;> exact b.of rfl

theorem within_dispatchConvoy {u : Thread} {descOf : BitVec 32 → Desc} (hd : ∀ w, (descOf w).Keeps) (cut : Nat) :
    ∀ (k n : Nat) (s t : State), State.dispatchConvoy descOf cut k n s = some t → Within u s t
  | 0, _, _, _, h => by cases h
  | k + 1, n, s, t, h => by
    unfold State.dispatchConvoy at h
    split at h
    · cases h
    · rename_i s' hs
      have hw : Within u s s' := within_dispatchAt hd hs
      split at h
      · split at h
        · split at h
          · cases h
            exact hw
          · rename_i hc
            cases h
            exact hw.trans (within_dispatchConvoy hd cut k _ _ _ hc)
        · cases h
          exact hw
      · cases h
        exact hw

theorem within_dispatchOne {u : Thread} {s t : State} {descOf : BitVec 32 → Desc} (hd : ∀ w, (descOf w).Keeps) {cut : Nat}
    (h : s.dispatchOne descOf cut = some t) : Within u s t := by
  unfold State.dispatchOne at h
  split at h
  · cases h
  · split at h
    · cases h
    · split at h
      · cases h
      · split at h
        · exact within_frameStep hd h
        · exact within_dispatchConvoy hd _ _ _ _ _ h

theorem within_settle {u : Thread} {descOf : BitVec 32 → Desc} (hd : ∀ w, (descOf w).Keeps) :
    ∀ (n : Nat) (s : State), Within u s (State.settle descOf n s)
  | 0, s => .refl s
  | n + 1, s => by
    unfold State.settle
    split
    · exact .refl _
    · split
      · rename_i h
        exact (within_retireOne h).trans (within_settle hd n _)
      · split
        · rename_i h
          exact (within_dispatchOne hd h).trans (within_settle hd n _)
        · exact .refl _

/-- Working the queue keeps memory canonical, and takes user mode nowhere but to its handler. -/
theorem within_work {u : Thread} (s : State) : Within u s s.work := by
  unfold State.work
  split
  · exact within_settle keeps_descOf _ _
  · exact .refl _

/-! ## Traps at issue and push -/

theorem within_issueTrap {s : State} (hp : s.cur.priv = false) (cause : BitVec 8) (eaddr info : Word) (pos : Bool) :
    Within s.cur s (s.issueTrap cause eaddr info pos) := by
  unfold State.issueTrap
  dsimp only
  split
  · exact .refl _
  · exact ⟨fun b => (b.discard hp _).enterTrap .., id⟩

theorem within_prematureTrap {s : State} (hp : s.cur.priv = false) (opnd : Nat) : Within s.cur s (s.prematureTrap opnd) := by
  unfold State.prematureTrap
  split
  · exact ⟨fun b => b.of rfl, id⟩
  · exact within_issueTrap hp ..

theorem within_frameViolation {s : State} (hp : s.cur.priv = false) : Within s.cur s s.frameViolation := by
  unfold State.frameViolation
  split
  · exact within_issueTrap hp ..
  · exact within_issueTrap hp ..

theorem within_pipeCheck {u : Thread} {s : State} (hp : s.cur.priv = false) (descOf : BitVec 32 → Desc) (members : List Entry) :
    Within u s (s.pipeCheck descOf members) := by
  unfold State.pipeCheck
  split
  · extract_lets gone rest
    have hr : rest.priv = false := (discard_priv ..).trans hp
    have k (b : Behind u s.cur) : Behind u rest := b.discard hp gone
    split
    · exact ⟨fun b => ⟨(k b).tvec, (k b).ptb, (k b).keydef, (k b).part, (k b).colour, (k b).hsave0, (k b).hsave1, .inl hr⟩, id⟩
    · exact ⟨fun b => (k b).enterTrap .., id⟩
  · exact .refl _

/-- The issue of a queued word in user mode. -/
theorem within_issue {w : BitVec 32} {s t : State} (hp : s.cur.priv = false) (h : issue w s = .next t) : Within s.cur s t := by
  unfold issue at h
  split at h
  · rename_i s' hs
    cases h
    unfold State.push at hs
    dsimp only at hs
    repeat' split at hs
    all_goals cases hs
    all_goals first | exact within_issueTrap hp .. | exact within_frameViolation hp | exact within_prematureTrap hp _
  · cases h
    exact .refl _
  · rename_i s' hs
    cases h
    refine Within.trans ?_ (within_work s')
    unfold State.push at hs
    dsimp only at hs
    have k : Within s.cur s (s.mod (fun t => t.push (newEntry t w (descOf w)))) :=
      ⟨fun b => ⟨b.tvec, b.ptb, b.keydef, b.part, b.colour, b.hsave0, b.hsave1, .inl hp⟩, id⟩
    repeat' split at hs
    all_goals cases hs
    all_goals first | exact k | exact k.trans (within_pipeCheck (by exact hp) ..)

end Sys2Proof.Machine
end

