-- ==== Sys2Proof/Laws/PerInstr.lean ====
section
/-!
SUPPORT. The per-instruction family Shape: the word that the encoder makes of a well-formed instruction selects that
instruction, with its fields (R30 to R33). No two instructions share a function, and no operand reaches into it.
-/
namespace Sys2Proof.Laws

set_option Elab.async false

/-- The major opcode and the function of the word of a well-formed `i` select `i`, and its fields are those of `i`. -/
def Shape.Statement (i : Instr) : Prop := i.wf = true → ∀ w, encode i = some w → decodeShape w = .instr i

/-- An immediate below 64 is its own low 12 bits (R32). -/
theorem shift_imm (x : BitVec 15) (h : x.toNat < 64) : 0#3 ++ x.extractLsb' 0 12 = x := by
  apply BitVec.eq_of_toNat_eq
  rw [BitVec.toNat_append]
  simp
  omega

/-- Major 0x01 (R33). -/
theorem decodeShape_01 (w : BitVec 32) (h : w.extractLsb' 26 6 = 0x01#6) : decodeShape w = orReserved (decodeMajor01 w) := by
  rw [decodeShape, h]
  rfl

/-- Major 0x02 (R33). -/
theorem decodeShape_02 (w : BitVec 32) (h : w.extractLsb' 26 6 = 0x02#6) : decodeShape w = .instr (.addi (siOf w)) := by
  rw [decodeShape, h]
  rfl

/-- Major 0x03 (R33). -/
theorem decodeShape_03 (w : BitVec 32) (h : w.extractLsb' 26 6 = 0x03#6) : decodeShape w = .instr (.andi (siOf w)) := by
  rw [decodeShape, h]
  rfl

/-- Major 0x04 (R33). -/
theorem decodeShape_04 (w : BitVec 32) (h : w.extractLsb' 26 6 = 0x04#6) : decodeShape w = .instr (.ori (siOf w)) := by
  rw [decodeShape, h]
  rfl

/-- Major 0x05 (R33). -/
theorem decodeShape_05 (w : BitVec 32) (h : w.extractLsb' 26 6 = 0x05#6) : decodeShape w = .instr (.xori (siOf w)) := by
  rw [decodeShape, h]
  rfl

/-- Major 0x06 (R33). -/
theorem decodeShape_06 (w : BitVec 32) (h : w.extractLsb' 26 6 = 0x06#6) : decodeShape w = orReserved (decodeMajor06 w) := by
  rw [decodeShape, h]
  rfl

/-- Major 0x07 (R33). -/
theorem decodeShape_07 (w : BitVec 32) (h : w.extractLsb' 26 6 = 0x07#6) : decodeShape w = .instr (.ldhi (suOf w)) := by
  rw [decodeShape, h]
  rfl

/-- Major 0x08 (R33). -/
theorem decodeShape_08 (w : BitVec 32) (h : w.extractLsb' 26 6 = 0x08#6) : decodeShape w = .instr (.addpc (suOf w)) := by
  rw [decodeShape, h]
  rfl

/-- Major 0x09 (R33). -/
theorem decodeShape_09 (w : BitVec 32) (h : w.extractLsb' 26 6 = 0x09#6) : decodeShape w = .instr (.ldD (siOf w)) := by
  rw [decodeShape, h]
  rfl

/-- Major 0x0A (R33). -/
theorem decodeShape_0A (w : BitVec 32) (h : w.extractLsb' 26 6 = 0x0a#6) : decodeShape w = .instr (.ldW (siOf w)) := by
  rw [decodeShape, h]
  rfl

/-- Major 0x0B (R33). -/
theorem decodeShape_0B (w : BitVec 32) (h : w.extractLsb' 26 6 = 0x0b#6) : decodeShape w = .instr (.ldWz (siOf w)) := by
  rw [decodeShape, h]
  rfl

/-- Major 0x0C (R33). -/
theorem decodeShape_0C (w : BitVec 32) (h : w.extractLsb' 26 6 = 0x0c#6) : decodeShape w = .instr (.ldH (siOf w)) := by
  rw [decodeShape, h]
  rfl

/-- Major 0x0D (R33). -/
theorem decodeShape_0D (w : BitVec 32) (h : w.extractLsb' 26 6 = 0x0d#6) : decodeShape w = .instr (.ldHz (siOf w)) := by
  rw [decodeShape, h]
  rfl

/-- Major 0x0E (R33). -/
theorem decodeShape_0E (w : BitVec 32) (h : w.extractLsb' 26 6 = 0x0e#6) : decodeShape w = .instr (.ldB (siOf w)) := by
  rw [decodeShape, h]
  rfl

/-- Major 0x0F (R33). -/
theorem decodeShape_0F (w : BitVec 32) (h : w.extractLsb' 26 6 = 0x0f#6) : decodeShape w = .instr (.ldBz (siOf w)) := by
  rw [decodeShape, h]
  rfl

/-- Major 0x10 (R33). -/
theorem decodeShape_10 (w : BitVec 32) (h : w.extractLsb' 26 6 = 0x10#6) : decodeShape w = .instr (.stD (siOf w)) := by
  rw [decodeShape, h]
  rfl

/-- Major 0x11 (R33). -/
theorem decodeShape_11 (w : BitVec 32) (h : w.extractLsb' 26 6 = 0x11#6) : decodeShape w = .instr (.stW (siOf w)) := by
  rw [decodeShape, h]
  rfl

/-- Major 0x12 (R33). -/
theorem decodeShape_12 (w : BitVec 32) (h : w.extractLsb' 26 6 = 0x12#6) : decodeShape w = .instr (.stH (siOf w)) := by
  rw [decodeShape, h]
  rfl

/-- Major 0x13 (R33). -/
theorem decodeShape_13 (w : BitVec 32) (h : w.extractLsb' 26 6 = 0x13#6) : decodeShape w = .instr (.stB (siOf w)) := by
  rw [decodeShape, h]
  rfl

/-- Major 0x14 (R33). -/
theorem decodeShape_14 (w : BitVec 32) (h : w.extractLsb' 26 6 = 0x14#6) : decodeShape w = orReserved (decodeMajor14 w) := by
  rw [decodeShape, h]
  rfl

/-- Major 0x15 (R33). -/
theorem decodeShape_15 (w : BitVec 32) (h : w.extractLsb' 26 6 = 0x15#6) : decodeShape w = .instr (.jal (sjOf w)) := by
  rw [decodeShape, h]
  rfl

/-- Major 0x16 (R33). -/
theorem decodeShape_16 (w : BitVec 32) (h : w.extractLsb' 26 6 = 0x16#6) : decodeShape w = .instr (.jalr (siOf w)) := by
  rw [decodeShape, h]
  rfl

/-- Major 0x17 (R33). -/
theorem decodeShape_17 (w : BitVec 32) (h : w.extractLsb' 26 6 = 0x17#6) : decodeShape w = orReserved (decodeMajor17 w) := by
  rw [decodeShape, h]
  rfl

/-- Major 0x18 (R33). -/
theorem decodeShape_18 (w : BitVec 32) (h : w.extractLsb' 26 6 = 0x18#6) : decodeShape w = orReserved (decodeMajor18 w) := by
  rw [decodeShape, h]
  rfl

/-- Major 0x19 (R33). -/
theorem decodeShape_19 (w : BitVec 32) (h : w.extractLsb' 26 6 = 0x19#6) : decodeShape w = orReserved (decodeMajor19 w) := by
  rw [decodeShape, h]
  rfl

/-- Major 0x1A (R33). -/
theorem decodeShape_1A (w : BitVec 32) (h : w.extractLsb' 26 6 = 0x1a#6) : decodeShape w = .instr (.mfs (siOf w)) := by
  rw [decodeShape, h]
  rfl

/-- Major 0x1B (R33). -/
theorem decodeShape_1B (w : BitVec 32) (h : w.extractLsb' 26 6 = 0x1b#6) : decodeShape w = orReserved (decodeMajor1B w) := by
  rw [decodeShape, h]
  rfl

/-- Major 0x1C (R33). -/
theorem decodeShape_1C (w : BitVec 32) (h : w.extractLsb' 26 6 = 0x1c#6) : decodeShape w = orReserved (decodeMajor1C w) := by
  rw [decodeShape, h]
  rfl

/-- Major 0x1D (R33). -/
theorem decodeShape_1D (w : BitVec 32) (h : w.extractLsb' 26 6 = 0x1d#6) : decodeShape w = orReserved (decodeMajor1D w) := by
  rw [decodeShape, h]
  rfl

/-- Major 0x1E (R33). -/
theorem decodeShape_1E (w : BitVec 32) (h : w.extractLsb' 26 6 = 0x1e#6) : decodeShape w = orReserved (decodeMajor1E w) := by
  rw [decodeShape, h]
  rfl

/-- Major 0x1F (R33). -/
theorem decodeShape_1F (w : BitVec 32) (h : w.extractLsb' 26 6 = 0x1f#6) : decodeShape w = .instr (.vframe (vfOf w)) := by
  rw [decodeShape, h]
  rfl

/-- Major 0x20 (R33). -/
theorem decodeShape_20 (w : BitVec 32) (h : w.extractLsb' 26 6 = 0x20#6) : decodeShape w = orReserved (decodeMajor20 w) := by
  rw [decodeShape, h]
  rfl

/-- Major 0x21 (R33). -/
theorem decodeShape_21 (w : BitVec 32) (h : w.extractLsb' 26 6 = 0x21#6) : decodeShape w = orReserved (decodeMajor21 w) := by
  rw [decodeShape, h]
  rfl

/-- Major 0x22 (R33). -/
theorem decodeShape_22 (w : BitVec 32) (h : w.extractLsb' 26 6 = 0x22#6) : decodeShape w = orReserved (decodeMajor22 w) := by
  rw [decodeShape, h]
  rfl

/-- Major 0x23 (R33). -/
theorem decodeShape_23 (w : BitVec 32) (h : w.extractLsb' 26 6 = 0x23#6) : decodeShape w = orReserved (decodeMajor23 w) := by
  rw [decodeShape, h]
  rfl

/-- Major 0x28 (R33). -/
theorem decodeShape_28 (w : BitVec 32) (h : w.extractLsb' 26 6 = 0x28#6) : decodeShape w = orReserved (decodeMajor28 w) := by
  rw [decodeShape, h]
  rfl

/-- Major 0x29 (R33). -/
theorem decodeShape_29 (w : BitVec 32) (h : w.extractLsb' 26 6 = 0x29#6) : decodeShape w = orReserved (decodeMajor29 w) := by
  rw [decodeShape, h]
  rfl

/-- Major 0x2A (R33). -/
theorem decodeShape_2A (w : BitVec 32) (h : w.extractLsb' 26 6 = 0x2a#6) : decodeShape w = orReserved (decodeMajor2A w) := by
  rw [decodeShape, h]
  rfl

/-- Major 0x2B (R33). -/
theorem decodeShape_2B (w : BitVec 32) (h : w.extractLsb' 26 6 = 0x2b#6) : decodeShape w = orReserved (decodeMajor2B w) := by
  rw [decodeShape, h]
  rfl

/-- Major 0x2C (R33). -/
theorem decodeShape_2C (w : BitVec 32) (h : w.extractLsb' 26 6 = 0x2c#6) : decodeShape w = orReserved (decodeMajor2C w) := by
  rw [decodeShape, h]
  rfl

/-- Major 0x2D (R33). -/
theorem decodeShape_2D (w : BitVec 32) (h : w.extractLsb' 26 6 = 0x2d#6) : decodeShape w = orReserved (decodeMajor2D w) := by
  rw [decodeShape, h]
  rfl

/-- Major 0x2E (R33). -/
theorem decodeShape_2E (w : BitVec 32) (h : w.extractLsb' 26 6 = 0x2e#6) : decodeShape w = orReserved (decodeMajor2E w) := by
  rw [decodeShape, h]
  rfl

/-- Major 0x2F (R33). -/
theorem decodeShape_2F (w : BitVec 32) (h : w.extractLsb' 26 6 = 0x2f#6) : decodeShape w = orReserved (decodeMajor2F w) := by
  rw [decodeShape, h]
  rfl

/-- Major 0x30 (R33). -/
theorem decodeShape_30 (w : BitVec 32) (h : w.extractLsb' 26 6 = 0x30#6) : decodeShape w = orReserved (decodeMajor30 w) := by
  rw [decodeShape, h]
  rfl

/-- Major 0x31 (R33). -/
theorem decodeShape_31 (w : BitVec 32) (h : w.extractLsb' 26 6 = 0x31#6) : decodeShape w = orReserved (decodeMajor31 w) := by
  rw [decodeShape, h]
  rfl

/-- Major 0x32 (R33). -/
theorem decodeShape_32 (w : BitVec 32) (h : w.extractLsb' 26 6 = 0x32#6) : decodeShape w = orReserved (decodeMajor32 w) := by
  rw [decodeShape, h]
  rfl

/-- Major 0x33 (R33). -/
theorem decodeShape_33 (w : BitVec 32) (h : w.extractLsb' 26 6 = 0x33#6) : decodeShape w = orReserved (decodeMajor33 w) := by
  rw [decodeShape, h]
  rfl

/-- Major 0x34 (R33). -/
theorem decodeShape_34 (w : BitVec 32) (h : w.extractLsb' 26 6 = 0x34#6) : decodeShape w = orReserved (decodeMajor34 w) := by
  rw [decodeShape, h]
  rfl

/-- Major 0x35 (R33). -/
theorem decodeShape_35 (w : BitVec 32) (h : w.extractLsb' 26 6 = 0x35#6) : decodeShape w = orReserved (decodeMajor35 w) := by
  rw [decodeShape, h]
  rfl

/-- Major 0x36 (R33). -/
theorem decodeShape_36 (w : BitVec 32) (h : w.extractLsb' 26 6 = 0x36#6) : decodeShape w = orReserved (decodeMajor36 w) := by
  rw [decodeShape, h]
  rfl

/-- Major 0x37 (R33). -/
theorem decodeShape_37 (w : BitVec 32) (h : w.extractLsb' 26 6 = 0x37#6) : decodeShape w = orReserved (decodeMajor37 w) := by
  rw [decodeShape, h]
  rfl

/-- `add`. -/
theorem Shape.add (f : FmtSR) : Shape.Statement (.add f) := by
  intro hw w h
  obtain rfl : packSR 0x01 0x0 f = w := Option.some.inj h
  refine (decodeShape_01 _ (packSR_op _ _ f)).trans ?_
  rw [decodeMajor01, packSR_fn]
  exact congrArg (fun x => Decoded.instr (.add x)) (srOf_packSR _ _ f)

/-- `sub`. -/
theorem Shape.sub (f : FmtSR) : Shape.Statement (.sub f) := by
  intro hw w h
  obtain rfl : packSR 0x01 0x1 f = w := Option.some.inj h
  refine (decodeShape_01 _ (packSR_op _ _ f)).trans ?_
  rw [decodeMajor01, packSR_fn]
  exact congrArg (fun x => Decoded.instr (.sub x)) (srOf_packSR _ _ f)

/-- `and`. -/
theorem Shape.and (f : FmtSR) : Shape.Statement (.and f) := by
  intro hw w h
  obtain rfl : packSR 0x01 0x2 f = w := Option.some.inj h
  refine (decodeShape_01 _ (packSR_op _ _ f)).trans ?_
  rw [decodeMajor01, packSR_fn]
  exact congrArg (fun x => Decoded.instr (.and x)) (srOf_packSR _ _ f)

/-- `or`. -/
theorem Shape.or (f : FmtSR) : Shape.Statement (.or f) := by
  intro hw w h
  obtain rfl : packSR 0x01 0x3 f = w := Option.some.inj h
  refine (decodeShape_01 _ (packSR_op _ _ f)).trans ?_
  rw [decodeMajor01, packSR_fn]
  exact congrArg (fun x => Decoded.instr (.or x)) (srOf_packSR _ _ f)

/-- `xor`. -/
theorem Shape.xor (f : FmtSR) : Shape.Statement (.xor f) := by
  intro hw w h
  obtain rfl : packSR 0x01 0x4 f = w := Option.some.inj h
  refine (decodeShape_01 _ (packSR_op _ _ f)).trans ?_
  rw [decodeMajor01, packSR_fn]
  exact congrArg (fun x => Decoded.instr (.xor x)) (srOf_packSR _ _ f)

/-- `andn`. -/
theorem Shape.andn (f : FmtSR) : Shape.Statement (.andn f) := by
  intro hw w h
  obtain rfl : packSR 0x01 0x5 f = w := Option.some.inj h
  refine (decodeShape_01 _ (packSR_op _ _ f)).trans ?_
  rw [decodeMajor01, packSR_fn]
  exact congrArg (fun x => Decoded.instr (.andn x)) (srOf_packSR _ _ f)

/-- `sll`. -/
theorem Shape.sll (f : FmtSR) : Shape.Statement (.sll f) := by
  intro hw w h
  obtain rfl : packSR 0x01 0x8 f = w := Option.some.inj h
  refine (decodeShape_01 _ (packSR_op _ _ f)).trans ?_
  rw [decodeMajor01, packSR_fn]
  exact congrArg (fun x => Decoded.instr (.sll x)) (srOf_packSR _ _ f)

/-- `srl`. -/
theorem Shape.srl (f : FmtSR) : Shape.Statement (.srl f) := by
  intro hw w h
  obtain rfl : packSR 0x01 0x9 f = w := Option.some.inj h
  refine (decodeShape_01 _ (packSR_op _ _ f)).trans ?_
  rw [decodeMajor01, packSR_fn]
  exact congrArg (fun x => Decoded.instr (.srl x)) (srOf_packSR _ _ f)

/-- `sra`. -/
theorem Shape.sra (f : FmtSR) : Shape.Statement (.sra f) := by
  intro hw w h
  obtain rfl : packSR 0x01 0xa f = w := Option.some.inj h
  refine (decodeShape_01 _ (packSR_op _ _ f)).trans ?_
  rw [decodeMajor01, packSR_fn]
  exact congrArg (fun x => Decoded.instr (.sra x)) (srOf_packSR _ _ f)

/-- `rol`. -/
theorem Shape.rol (f : FmtSR) : Shape.Statement (.rol f) := by
  intro hw w h
  obtain rfl : packSR 0x01 0xb f = w := Option.some.inj h
  refine (decodeShape_01 _ (packSR_op _ _ f)).trans ?_
  rw [decodeMajor01, packSR_fn]
  exact congrArg (fun x => Decoded.instr (.rol x)) (srOf_packSR _ _ f)

/-- `mul`. -/
theorem Shape.mul (f : FmtSR) : Shape.Statement (.mul f) := by
  intro hw w h
  obtain rfl : packSR 0x01 0x10 f = w := Option.some.inj h
  refine (decodeShape_01 _ (packSR_op _ _ f)).trans ?_
  rw [decodeMajor01, packSR_fn]
  exact congrArg (fun x => Decoded.instr (.mul x)) (srOf_packSR _ _ f)

/-- `mulh`. -/
theorem Shape.mulh (f : FmtSR) : Shape.Statement (.mulh f) := by
  intro hw w h
  obtain rfl : packSR 0x01 0x11 f = w := Option.some.inj h
  refine (decodeShape_01 _ (packSR_op _ _ f)).trans ?_
  rw [decodeMajor01, packSR_fn]
  exact congrArg (fun x => Decoded.instr (.mulh x)) (srOf_packSR _ _ f)

/-- `mulhz`. -/
theorem Shape.mulhz (f : FmtSR) : Shape.Statement (.mulhz f) := by
  intro hw w h
  obtain rfl : packSR 0x01 0x12 f = w := Option.some.inj h
  refine (decodeShape_01 _ (packSR_op _ _ f)).trans ?_
  rw [decodeMajor01, packSR_fn]
  exact congrArg (fun x => Decoded.instr (.mulhz x)) (srOf_packSR _ _ f)

/-- `div`. -/
theorem Shape.div (f : FmtSR) : Shape.Statement (.div f) := by
  intro hw w h
  obtain rfl : packSR 0x01 0x14 f = w := Option.some.inj h
  refine (decodeShape_01 _ (packSR_op _ _ f)).trans ?_
  rw [decodeMajor01, packSR_fn]
  exact congrArg (fun x => Decoded.instr (.div x)) (srOf_packSR _ _ f)

/-- `divz`. -/
theorem Shape.divz (f : FmtSR) : Shape.Statement (.divz f) := by
  intro hw w h
  obtain rfl : packSR 0x01 0x15 f = w := Option.some.inj h
  refine (decodeShape_01 _ (packSR_op _ _ f)).trans ?_
  rw [decodeMajor01, packSR_fn]
  exact congrArg (fun x => Decoded.instr (.divz x)) (srOf_packSR _ _ f)

/-- `rem`. -/
theorem Shape.rem (f : FmtSR) : Shape.Statement (.rem f) := by
  intro hw w h
  obtain rfl : packSR 0x01 0x16 f = w := Option.some.inj h
  refine (decodeShape_01 _ (packSR_op _ _ f)).trans ?_
  rw [decodeMajor01, packSR_fn]
  exact congrArg (fun x => Decoded.instr (.rem x)) (srOf_packSR _ _ f)

/-- `remz`. -/
theorem Shape.remz (f : FmtSR) : Shape.Statement (.remz f) := by
  intro hw w h
  obtain rfl : packSR 0x01 0x17 f = w := Option.some.inj h
  refine (decodeShape_01 _ (packSR_op _ _ f)).trans ?_
  rw [decodeMajor01, packSR_fn]
  exact congrArg (fun x => Decoded.instr (.remz x)) (srOf_packSR _ _ f)

/-- `ceq`. -/
theorem Shape.ceq (f : FmtSR) : Shape.Statement (.ceq f) := by
  intro hw w h
  obtain rfl : packSR 0x01 0x18 f = w := Option.some.inj h
  refine (decodeShape_01 _ (packSR_op _ _ f)).trans ?_
  rw [decodeMajor01, packSR_fn]
  exact congrArg (fun x => Decoded.instr (.ceq x)) (srOf_packSR _ _ f)

/-- `cne`. -/
theorem Shape.cne (f : FmtSR) : Shape.Statement (.cne f) := by
  intro hw w h
  obtain rfl : packSR 0x01 0x19 f = w := Option.some.inj h
  refine (decodeShape_01 _ (packSR_op _ _ f)).trans ?_
  rw [decodeMajor01, packSR_fn]
  exact congrArg (fun x => Decoded.instr (.cne x)) (srOf_packSR _ _ f)

/-- `clt`. -/
theorem Shape.clt (f : FmtSR) : Shape.Statement (.clt f) := by
  intro hw w h
  obtain rfl : packSR 0x01 0x1a f = w := Option.some.inj h
  refine (decodeShape_01 _ (packSR_op _ _ f)).trans ?_
  rw [decodeMajor01, packSR_fn]
  exact congrArg (fun x => Decoded.instr (.clt x)) (srOf_packSR _ _ f)

/-- `cge`. -/
theorem Shape.cge (f : FmtSR) : Shape.Statement (.cge f) := by
  intro hw w h
  obtain rfl : packSR 0x01 0x1b f = w := Option.some.inj h
  refine (decodeShape_01 _ (packSR_op _ _ f)).trans ?_
  rw [decodeMajor01, packSR_fn]
  exact congrArg (fun x => Decoded.instr (.cge x)) (srOf_packSR _ _ f)

/-- `clo`. -/
theorem Shape.clo (f : FmtSR) : Shape.Statement (.clo f) := by
  intro hw w h
  obtain rfl : packSR 0x01 0x1c f = w := Option.some.inj h
  refine (decodeShape_01 _ (packSR_op _ _ f)).trans ?_
  rw [decodeMajor01, packSR_fn]
  exact congrArg (fun x => Decoded.instr (.clo x)) (srOf_packSR _ _ f)

/-- `chs`. -/
theorem Shape.chs (f : FmtSR) : Shape.Statement (.chs f) := by
  intro hw w h
  obtain rfl : packSR 0x01 0x1d f = w := Option.some.inj h
  refine (decodeShape_01 _ (packSR_op _ _ f)).trans ?_
  rw [decodeMajor01, packSR_fn]
  exact congrArg (fun x => Decoded.instr (.chs x)) (srOf_packSR _ _ f)

/-- `min`. -/
theorem Shape.min (f : FmtSR) : Shape.Statement (.min f) := by
  intro hw w h
  obtain rfl : packSR 0x01 0x20 f = w := Option.some.inj h
  refine (decodeShape_01 _ (packSR_op _ _ f)).trans ?_
  rw [decodeMajor01, packSR_fn]
  exact congrArg (fun x => Decoded.instr (.min x)) (srOf_packSR _ _ f)

/-- `max`. -/
theorem Shape.max (f : FmtSR) : Shape.Statement (.max f) := by
  intro hw w h
  obtain rfl : packSR 0x01 0x21 f = w := Option.some.inj h
  refine (decodeShape_01 _ (packSR_op _ _ f)).trans ?_
  rw [decodeMajor01, packSR_fn]
  exact congrArg (fun x => Decoded.instr (.max x)) (srOf_packSR _ _ f)

/-- `minz`. -/
theorem Shape.minz (f : FmtSR) : Shape.Statement (.minz f) := by
  intro hw w h
  obtain rfl : packSR 0x01 0x22 f = w := Option.some.inj h
  refine (decodeShape_01 _ (packSR_op _ _ f)).trans ?_
  rw [decodeMajor01, packSR_fn]
  exact congrArg (fun x => Decoded.instr (.minz x)) (srOf_packSR _ _ f)

/-- `maxz`. -/
theorem Shape.maxz (f : FmtSR) : Shape.Statement (.maxz f) := by
  intro hw w h
  obtain rfl : packSR 0x01 0x23 f = w := Option.some.inj h
  refine (decodeShape_01 _ (packSR_op _ _ f)).trans ?_
  rw [decodeMajor01, packSR_fn]
  exact congrArg (fun x => Decoded.instr (.maxz x)) (srOf_packSR _ _ f)

/-- `clz`. -/
theorem Shape.clz (f : FmtSR) : Shape.Statement (.clz f) := by
  intro hw w h
  obtain rfl : packSR 0x01 0x28 f = w := Option.some.inj h
  refine (decodeShape_01 _ (packSR_op _ _ f)).trans ?_
  rw [decodeMajor01, packSR_fn]
  exact congrArg (fun x => Decoded.instr (.clz x)) (srOf_packSR _ _ f)

/-- `ctz`. -/
theorem Shape.ctz (f : FmtSR) : Shape.Statement (.ctz f) := by
  intro hw w h
  obtain rfl : packSR 0x01 0x29 f = w := Option.some.inj h
  refine (decodeShape_01 _ (packSR_op _ _ f)).trans ?_
  rw [decodeMajor01, packSR_fn]
  exact congrArg (fun x => Decoded.instr (.ctz x)) (srOf_packSR _ _ f)

/-- `popc`. -/
theorem Shape.popc (f : FmtSR) : Shape.Statement (.popc f) := by
  intro hw w h
  obtain rfl : packSR 0x01 0x2a f = w := Option.some.inj h
  refine (decodeShape_01 _ (packSR_op _ _ f)).trans ?_
  rw [decodeMajor01, packSR_fn]
  exact congrArg (fun x => Decoded.instr (.popc x)) (srOf_packSR _ _ f)

/-- `addi`. -/
theorem Shape.addi (f : FmtSI) : Shape.Statement (.addi f) := by
  intro hw w h
  obtain rfl : packSI 0x02 f = w := Option.some.inj h
  refine (decodeShape_02 _ (packSI_op _ f)).trans ?_
  exact congrArg (fun x => Decoded.instr (.addi x)) (siOf_packSI _ f)

/-- `andi`. -/
theorem Shape.andi (f : FmtSI) : Shape.Statement (.andi f) := by
  intro hw w h
  obtain rfl : packSI 0x03 f = w := Option.some.inj h
  refine (decodeShape_03 _ (packSI_op _ f)).trans ?_
  exact congrArg (fun x => Decoded.instr (.andi x)) (siOf_packSI _ f)

/-- `ori`. -/
theorem Shape.ori (f : FmtSI) : Shape.Statement (.ori f) := by
  intro hw w h
  obtain rfl : packSI 0x04 f = w := Option.some.inj h
  refine (decodeShape_04 _ (packSI_op _ f)).trans ?_
  exact congrArg (fun x => Decoded.instr (.ori x)) (siOf_packSI _ f)

/-- `xori`. -/
theorem Shape.xori (f : FmtSI) : Shape.Statement (.xori f) := by
  intro hw w h
  obtain rfl : packSI 0x05 f = w := Option.some.inj h
  refine (decodeShape_05 _ (packSI_op _ f)).trans ?_
  exact congrArg (fun x => Decoded.instr (.xori x)) (siOf_packSI _ f)

/-- `sllImm`. -/
theorem Shape.sllImm (f : FmtSI) : Shape.Statement (.sllImm f) := by
  intro hw w h
  obtain rfl : packShift 0 f = w := Option.some.inj h
  have hx : f.imm.toNat < 64 := of_decide_eq_true hw
  obtain ⟨gd, ga, sa, imm⟩ := f
  refine (decodeShape_06 _ (packShift_op _ _)).trans ?_
  rw [decodeMajor06, packShift_sel]
  refine congrArg (fun x => Decoded.instr (.sllImm x)) ((shiftOf_packShift _ _).trans ?_)
  exact congrArg (fun x => FmtSI.mk gd ga sa x) (shift_imm imm hx)

/-- `srlImm`. -/
theorem Shape.srlImm (f : FmtSI) : Shape.Statement (.srlImm f) := by
  intro hw w h
  obtain rfl : packShift 1 f = w := Option.some.inj h
  have hx : f.imm.toNat < 64 := of_decide_eq_true hw
  obtain ⟨gd, ga, sa, imm⟩ := f
  refine (decodeShape_06 _ (packShift_op _ _)).trans ?_
  rw [decodeMajor06, packShift_sel]
  refine congrArg (fun x => Decoded.instr (.srlImm x)) ((shiftOf_packShift _ _).trans ?_)
  exact congrArg (fun x => FmtSI.mk gd ga sa x) (shift_imm imm hx)

/-- `sraImm`. -/
theorem Shape.sraImm (f : FmtSI) : Shape.Statement (.sraImm f) := by
  intro hw w h
  obtain rfl : packShift 2 f = w := Option.some.inj h
  have hx : f.imm.toNat < 64 := of_decide_eq_true hw
  obtain ⟨gd, ga, sa, imm⟩ := f
  refine (decodeShape_06 _ (packShift_op _ _)).trans ?_
  rw [decodeMajor06, packShift_sel]
  refine congrArg (fun x => Decoded.instr (.sraImm x)) ((shiftOf_packShift _ _).trans ?_)
  exact congrArg (fun x => FmtSI.mk gd ga sa x) (shift_imm imm hx)

/-- `rolImm`. -/
theorem Shape.rolImm (f : FmtSI) : Shape.Statement (.rolImm f) := by
  intro hw w h
  obtain rfl : packShift 3 f = w := Option.some.inj h
  have hx : f.imm.toNat < 64 := of_decide_eq_true hw
  obtain ⟨gd, ga, sa, imm⟩ := f
  refine (decodeShape_06 _ (packShift_op _ _)).trans ?_
  rw [decodeMajor06, packShift_sel]
  refine congrArg (fun x => Decoded.instr (.rolImm x)) ((shiftOf_packShift _ _).trans ?_)
  exact congrArg (fun x => FmtSI.mk gd ga sa x) (shift_imm imm hx)

/-- `ldhi`. -/
theorem Shape.ldhi (f : FmtSU) : Shape.Statement (.ldhi f) := by
  intro hw w h
  obtain rfl : packSU 0x07 f = w := Option.some.inj h
  refine (decodeShape_07 _ (packSU_op _ f)).trans ?_
  exact congrArg (fun x => Decoded.instr (.ldhi x)) (suOf_packSU _ f)

/-- `addpc`. -/
theorem Shape.addpc (f : FmtSU) : Shape.Statement (.addpc f) := by
  intro hw w h
  obtain rfl : packSU 0x08 f = w := Option.some.inj h
  refine (decodeShape_08 _ (packSU_op _ f)).trans ?_
  exact congrArg (fun x => Decoded.instr (.addpc x)) (suOf_packSU _ f)

/-- `ldD`. -/
theorem Shape.ldD (f : FmtSI) : Shape.Statement (.ldD f) := by
  intro hw w h
  obtain rfl : packSI 0x09 f = w := Option.some.inj h
  refine (decodeShape_09 _ (packSI_op _ f)).trans ?_
  exact congrArg (fun x => Decoded.instr (.ldD x)) (siOf_packSI _ f)

/-- `ldW`. -/
theorem Shape.ldW (f : FmtSI) : Shape.Statement (.ldW f) := by
  intro hw w h
  obtain rfl : packSI 0x0a f = w := Option.some.inj h
  refine (decodeShape_0A _ (packSI_op _ f)).trans ?_
  exact congrArg (fun x => Decoded.instr (.ldW x)) (siOf_packSI _ f)

/-- `ldWz`. -/
theorem Shape.ldWz (f : FmtSI) : Shape.Statement (.ldWz f) := by
  intro hw w h
  obtain rfl : packSI 0x0b f = w := Option.some.inj h
  refine (decodeShape_0B _ (packSI_op _ f)).trans ?_
  exact congrArg (fun x => Decoded.instr (.ldWz x)) (siOf_packSI _ f)

/-- `ldH`. -/
theorem Shape.ldH (f : FmtSI) : Shape.Statement (.ldH f) := by
  intro hw w h
  obtain rfl : packSI 0x0c f = w := Option.some.inj h
  refine (decodeShape_0C _ (packSI_op _ f)).trans ?_
  exact congrArg (fun x => Decoded.instr (.ldH x)) (siOf_packSI _ f)

/-- `ldHz`. -/
theorem Shape.ldHz (f : FmtSI) : Shape.Statement (.ldHz f) := by
  intro hw w h
  obtain rfl : packSI 0x0d f = w := Option.some.inj h
  refine (decodeShape_0D _ (packSI_op _ f)).trans ?_
  exact congrArg (fun x => Decoded.instr (.ldHz x)) (siOf_packSI _ f)

/-- `ldB`. -/
theorem Shape.ldB (f : FmtSI) : Shape.Statement (.ldB f) := by
  intro hw w h
  obtain rfl : packSI 0x0e f = w := Option.some.inj h
  refine (decodeShape_0E _ (packSI_op _ f)).trans ?_
  exact congrArg (fun x => Decoded.instr (.ldB x)) (siOf_packSI _ f)

/-- `ldBz`. -/
theorem Shape.ldBz (f : FmtSI) : Shape.Statement (.ldBz f) := by
  intro hw w h
  obtain rfl : packSI 0x0f f = w := Option.some.inj h
  refine (decodeShape_0F _ (packSI_op _ f)).trans ?_
  exact congrArg (fun x => Decoded.instr (.ldBz x)) (siOf_packSI _ f)

/-- `stD`. -/
theorem Shape.stD (f : FmtSI) : Shape.Statement (.stD f) := by
  intro hw w h
  obtain rfl : packSI 0x10 f = w := Option.some.inj h
  refine (decodeShape_10 _ (packSI_op _ f)).trans ?_
  exact congrArg (fun x => Decoded.instr (.stD x)) (siOf_packSI _ f)

/-- `stW`. -/
theorem Shape.stW (f : FmtSI) : Shape.Statement (.stW f) := by
  intro hw w h
  obtain rfl : packSI 0x11 f = w := Option.some.inj h
  refine (decodeShape_11 _ (packSI_op _ f)).trans ?_
  exact congrArg (fun x => Decoded.instr (.stW x)) (siOf_packSI _ f)

/-- `stH`. -/
theorem Shape.stH (f : FmtSI) : Shape.Statement (.stH f) := by
  intro hw w h
  obtain rfl : packSI 0x12 f = w := Option.some.inj h
  refine (decodeShape_12 _ (packSI_op _ f)).trans ?_
  exact congrArg (fun x => Decoded.instr (.stH x)) (siOf_packSI _ f)

/-- `stB`. -/
theorem Shape.stB (f : FmtSI) : Shape.Statement (.stB f) := by
  intro hw w h
  obtain rfl : packSI 0x13 f = w := Option.some.inj h
  refine (decodeShape_13 _ (packSI_op _ f)).trans ?_
  exact congrArg (fun x => Decoded.instr (.stB x)) (siOf_packSI _ f)

/-- `beq`. -/
theorem Shape.beq (f : FmtSB) : Shape.Statement (.beq f) := by
  intro hw w h
  obtain rfl : packSB 0x14 0x0 f = w := Option.some.inj h
  refine (decodeShape_14 _ (packSB_op _ _ f)).trans ?_
  rw [decodeMajor14, packSB_cond]
  exact congrArg (fun x => Decoded.instr (.beq x)) (sbOf_packSB _ _ f)

/-- `bne`. -/
theorem Shape.bne (f : FmtSB) : Shape.Statement (.bne f) := by
  intro hw w h
  obtain rfl : packSB 0x14 0x1 f = w := Option.some.inj h
  refine (decodeShape_14 _ (packSB_op _ _ f)).trans ?_
  rw [decodeMajor14, packSB_cond]
  exact congrArg (fun x => Decoded.instr (.bne x)) (sbOf_packSB _ _ f)

/-- `blt`. -/
theorem Shape.blt (f : FmtSB) : Shape.Statement (.blt f) := by
  intro hw w h
  obtain rfl : packSB 0x14 0x2 f = w := Option.some.inj h
  refine (decodeShape_14 _ (packSB_op _ _ f)).trans ?_
  rw [decodeMajor14, packSB_cond]
  exact congrArg (fun x => Decoded.instr (.blt x)) (sbOf_packSB _ _ f)

/-- `bge`. -/
theorem Shape.bge (f : FmtSB) : Shape.Statement (.bge f) := by
  intro hw w h
  obtain rfl : packSB 0x14 0x3 f = w := Option.some.inj h
  refine (decodeShape_14 _ (packSB_op _ _ f)).trans ?_
  rw [decodeMajor14, packSB_cond]
  exact congrArg (fun x => Decoded.instr (.bge x)) (sbOf_packSB _ _ f)

/-- `blo`. -/
theorem Shape.blo (f : FmtSB) : Shape.Statement (.blo f) := by
  intro hw w h
  obtain rfl : packSB 0x14 0x4 f = w := Option.some.inj h
  refine (decodeShape_14 _ (packSB_op _ _ f)).trans ?_
  rw [decodeMajor14, packSB_cond]
  exact congrArg (fun x => Decoded.instr (.blo x)) (sbOf_packSB _ _ f)

/-- `bhs`. -/
theorem Shape.bhs (f : FmtSB) : Shape.Statement (.bhs f) := by
  intro hw w h
  obtain rfl : packSB 0x14 0x5 f = w := Option.some.inj h
  refine (decodeShape_14 _ (packSB_op _ _ f)).trans ?_
  rw [decodeMajor14, packSB_cond]
  exact congrArg (fun x => Decoded.instr (.bhs x)) (sbOf_packSB _ _ f)

/-- `jal`. -/
theorem Shape.jal (f : FmtSJ) : Shape.Statement (.jal f) := by
  intro hw w h
  obtain rfl : packSJ 0x15 f = w := Option.some.inj h
  refine (decodeShape_15 _ (packSJ_op _ f)).trans ?_
  exact congrArg (fun x => Decoded.instr (.jal x)) (sjOf_packSJ _ f)

/-- `jalr`. -/
theorem Shape.jalr (f : FmtSI) : Shape.Statement (.jalr f) := by
  intro hw w h
  obtain rfl : packSI 0x16 f = w := Option.some.inj h
  refine (decodeShape_16 _ (packSI_op _ f)).trans ?_
  exact congrArg (fun x => Decoded.instr (.jalr x)) (siOf_packSI _ f)

/-- `aswpW`. -/
theorem Shape.aswpW (f : FmtAtomic) : Shape.Statement (.aswpW f) := by
  intro hw w h
  obtain rfl : packAtomic 0x17 0x0 f = w := Option.some.inj h
  refine (decodeShape_17 _ (packAtomic_op _ _ f)).trans ?_
  rw [decodeMajor17, packAtomic_aop]
  exact congrArg (fun x => Decoded.instr (.aswpW x)) (atomicOf_packAtomic _ _ f)

/-- `aaddW`. -/
theorem Shape.aaddW (f : FmtAtomic) : Shape.Statement (.aaddW f) := by
  intro hw w h
  obtain rfl : packAtomic 0x17 0x1 f = w := Option.some.inj h
  refine (decodeShape_17 _ (packAtomic_op _ _ f)).trans ?_
  rw [decodeMajor17, packAtomic_aop]
  exact congrArg (fun x => Decoded.instr (.aaddW x)) (atomicOf_packAtomic _ _ f)

/-- `aandW`. -/
theorem Shape.aandW (f : FmtAtomic) : Shape.Statement (.aandW f) := by
  intro hw w h
  obtain rfl : packAtomic 0x17 0x2 f = w := Option.some.inj h
  refine (decodeShape_17 _ (packAtomic_op _ _ f)).trans ?_
  rw [decodeMajor17, packAtomic_aop]
  exact congrArg (fun x => Decoded.instr (.aandW x)) (atomicOf_packAtomic _ _ f)

/-- `aorW`. -/
theorem Shape.aorW (f : FmtAtomic) : Shape.Statement (.aorW f) := by
  intro hw w h
  obtain rfl : packAtomic 0x17 0x3 f = w := Option.some.inj h
  refine (decodeShape_17 _ (packAtomic_op _ _ f)).trans ?_
  rw [decodeMajor17, packAtomic_aop]
  exact congrArg (fun x => Decoded.instr (.aorW x)) (atomicOf_packAtomic _ _ f)

/-- `axorW`. -/
theorem Shape.axorW (f : FmtAtomic) : Shape.Statement (.axorW f) := by
  intro hw w h
  obtain rfl : packAtomic 0x17 0x4 f = w := Option.some.inj h
  refine (decodeShape_17 _ (packAtomic_op _ _ f)).trans ?_
  rw [decodeMajor17, packAtomic_aop]
  exact congrArg (fun x => Decoded.instr (.axorW x)) (atomicOf_packAtomic _ _ f)

/-- `aminW`. -/
theorem Shape.aminW (f : FmtAtomic) : Shape.Statement (.aminW f) := by
  intro hw w h
  obtain rfl : packAtomic 0x17 0x5 f = w := Option.some.inj h
  refine (decodeShape_17 _ (packAtomic_op _ _ f)).trans ?_
  rw [decodeMajor17, packAtomic_aop]
  exact congrArg (fun x => Decoded.instr (.aminW x)) (atomicOf_packAtomic _ _ f)

/-- `amaxW`. -/
theorem Shape.amaxW (f : FmtAtomic) : Shape.Statement (.amaxW f) := by
  intro hw w h
  obtain rfl : packAtomic 0x17 0x6 f = w := Option.some.inj h
  refine (decodeShape_17 _ (packAtomic_op _ _ f)).trans ?_
  rw [decodeMajor17, packAtomic_aop]
  exact congrArg (fun x => Decoded.instr (.amaxW x)) (atomicOf_packAtomic _ _ f)

/-- `aminzW`. -/
theorem Shape.aminzW (f : FmtAtomic) : Shape.Statement (.aminzW f) := by
  intro hw w h
  obtain rfl : packAtomic 0x17 0x7 f = w := Option.some.inj h
  refine (decodeShape_17 _ (packAtomic_op _ _ f)).trans ?_
  rw [decodeMajor17, packAtomic_aop]
  exact congrArg (fun x => Decoded.instr (.aminzW x)) (atomicOf_packAtomic _ _ f)

/-- `amaxzW`. -/
theorem Shape.amaxzW (f : FmtAtomic) : Shape.Statement (.amaxzW f) := by
  intro hw w h
  obtain rfl : packAtomic 0x17 0x8 f = w := Option.some.inj h
  refine (decodeShape_17 _ (packAtomic_op _ _ f)).trans ?_
  rw [decodeMajor17, packAtomic_aop]
  exact congrArg (fun x => Decoded.instr (.amaxzW x)) (atomicOf_packAtomic _ _ f)

/-- `acasW`. -/
theorem Shape.acasW (f : FmtAtomic) : Shape.Statement (.acasW f) := by
  intro hw w h
  obtain rfl : packAtomic 0x17 0x9 f = w := Option.some.inj h
  refine (decodeShape_17 _ (packAtomic_op _ _ f)).trans ?_
  rw [decodeMajor17, packAtomic_aop]
  exact congrArg (fun x => Decoded.instr (.acasW x)) (atomicOf_packAtomic _ _ f)

/-- `aswpD`. -/
theorem Shape.aswpD (f : FmtAtomic) : Shape.Statement (.aswpD f) := by
  intro hw w h
  obtain rfl : packAtomic 0x18 0x0 f = w := Option.some.inj h
  refine (decodeShape_18 _ (packAtomic_op _ _ f)).trans ?_
  rw [decodeMajor18, packAtomic_aop]
  exact congrArg (fun x => Decoded.instr (.aswpD x)) (atomicOf_packAtomic _ _ f)

/-- `aaddD`. -/
theorem Shape.aaddD (f : FmtAtomic) : Shape.Statement (.aaddD f) := by
  intro hw w h
  obtain rfl : packAtomic 0x18 0x1 f = w := Option.some.inj h
  refine (decodeShape_18 _ (packAtomic_op _ _ f)).trans ?_
  rw [decodeMajor18, packAtomic_aop]
  exact congrArg (fun x => Decoded.instr (.aaddD x)) (atomicOf_packAtomic _ _ f)

/-- `aandD`. -/
theorem Shape.aandD (f : FmtAtomic) : Shape.Statement (.aandD f) := by
  intro hw w h
  obtain rfl : packAtomic 0x18 0x2 f = w := Option.some.inj h
  refine (decodeShape_18 _ (packAtomic_op _ _ f)).trans ?_
  rw [decodeMajor18, packAtomic_aop]
  exact congrArg (fun x => Decoded.instr (.aandD x)) (atomicOf_packAtomic _ _ f)

/-- `aorD`. -/
theorem Shape.aorD (f : FmtAtomic) : Shape.Statement (.aorD f) := by
  intro hw w h
  obtain rfl : packAtomic 0x18 0x3 f = w := Option.some.inj h
  refine (decodeShape_18 _ (packAtomic_op _ _ f)).trans ?_
  rw [decodeMajor18, packAtomic_aop]
  exact congrArg (fun x => Decoded.instr (.aorD x)) (atomicOf_packAtomic _ _ f)

/-- `axorD`. -/
theorem Shape.axorD (f : FmtAtomic) : Shape.Statement (.axorD f) := by
  intro hw w h
  obtain rfl : packAtomic 0x18 0x4 f = w := Option.some.inj h
  refine (decodeShape_18 _ (packAtomic_op _ _ f)).trans ?_
  rw [decodeMajor18, packAtomic_aop]
  exact congrArg (fun x => Decoded.instr (.axorD x)) (atomicOf_packAtomic _ _ f)

/-- `aminD`. -/
theorem Shape.aminD (f : FmtAtomic) : Shape.Statement (.aminD f) := by
  intro hw w h
  obtain rfl : packAtomic 0x18 0x5 f = w := Option.some.inj h
  refine (decodeShape_18 _ (packAtomic_op _ _ f)).trans ?_
  rw [decodeMajor18, packAtomic_aop]
  exact congrArg (fun x => Decoded.instr (.aminD x)) (atomicOf_packAtomic _ _ f)

/-- `amaxD`. -/
theorem Shape.amaxD (f : FmtAtomic) : Shape.Statement (.amaxD f) := by
  intro hw w h
  obtain rfl : packAtomic 0x18 0x6 f = w := Option.some.inj h
  refine (decodeShape_18 _ (packAtomic_op _ _ f)).trans ?_
  rw [decodeMajor18, packAtomic_aop]
  exact congrArg (fun x => Decoded.instr (.amaxD x)) (atomicOf_packAtomic _ _ f)

/-- `aminzD`. -/
theorem Shape.aminzD (f : FmtAtomic) : Shape.Statement (.aminzD f) := by
  intro hw w h
  obtain rfl : packAtomic 0x18 0x7 f = w := Option.some.inj h
  refine (decodeShape_18 _ (packAtomic_op _ _ f)).trans ?_
  rw [decodeMajor18, packAtomic_aop]
  exact congrArg (fun x => Decoded.instr (.aminzD x)) (atomicOf_packAtomic _ _ f)

/-- `amaxzD`. -/
theorem Shape.amaxzD (f : FmtAtomic) : Shape.Statement (.amaxzD f) := by
  intro hw w h
  obtain rfl : packAtomic 0x18 0x8 f = w := Option.some.inj h
  refine (decodeShape_18 _ (packAtomic_op _ _ f)).trans ?_
  rw [decodeMajor18, packAtomic_aop]
  exact congrArg (fun x => Decoded.instr (.amaxzD x)) (atomicOf_packAtomic _ _ f)

/-- `acasD`. -/
theorem Shape.acasD (f : FmtAtomic) : Shape.Statement (.acasD f) := by
  intro hw w h
  obtain rfl : packAtomic 0x18 0x9 f = w := Option.some.inj h
  refine (decodeShape_18 _ (packAtomic_op _ _ f)).trans ?_
  rw [decodeMajor18, packAtomic_aop]
  exact congrArg (fun x => Decoded.instr (.acasD x)) (atomicOf_packAtomic _ _ f)

/-- `ldAcqW`. -/
theorem Shape.ldAcqW (f : FmtMem) : Shape.Statement (.ldAcqW f) := by
  intro hw w h
  obtain rfl : packMem 0x19 0x0 f = w := Option.some.inj h
  refine (decodeShape_19 _ (packMem_op _ _ f)).trans ?_
  rw [decodeMajor19, packMem_group, packMem_low]
  exact congrArg (fun x => Decoded.instr (.ldAcqW x)) (memOf_packMem _ _ f)

/-- `ldAcqD`. -/
theorem Shape.ldAcqD (f : FmtMem) : Shape.Statement (.ldAcqD f) := by
  intro hw w h
  obtain rfl : packMem 0x19 0x1 f = w := Option.some.inj h
  refine (decodeShape_19 _ (packMem_op _ _ f)).trans ?_
  rw [decodeMajor19, packMem_group, packMem_low]
  exact congrArg (fun x => Decoded.instr (.ldAcqD x)) (memOf_packMem _ _ f)

/-- `stRelW`. -/
theorem Shape.stRelW (f : FmtMem) : Shape.Statement (.stRelW f) := by
  intro hw w h
  obtain rfl : packMem 0x19 0x2 f = w := Option.some.inj h
  refine (decodeShape_19 _ (packMem_op _ _ f)).trans ?_
  rw [decodeMajor19, packMem_group, packMem_low]
  exact congrArg (fun x => Decoded.instr (.stRelW x)) (memOf_packMem _ _ f)

/-- `stRelD`. -/
theorem Shape.stRelD (f : FmtMem) : Shape.Statement (.stRelD f) := by
  intro hw w h
  obtain rfl : packMem 0x19 0x3 f = w := Option.some.inj h
  refine (decodeShape_19 _ (packMem_op _ _ f)).trans ?_
  rw [decodeMajor19, packMem_group, packMem_low]
  exact congrArg (fun x => Decoded.instr (.stRelD x)) (memOf_packMem _ _ f)

/-- `fenceSc`. -/
theorem Shape.fenceSc (f : FmtMem) : Shape.Statement (.fenceSc f) := by
  intro hw w h
  obtain rfl : packMem 0x19 0x4 f = w := Option.some.inj h
  refine (decodeShape_19 _ (packMem_op _ _ f)).trans ?_
  rw [decodeMajor19, packMem_group, packMem_low]
  exact congrArg (fun x => Decoded.instr (.fenceSc x)) (memOf_packMem _ _ f)

/-- `await`. -/
theorem Shape.await (f : FmtMem) : Shape.Statement (.await f) := by
  intro hw w h
  obtain rfl : packMem 0x19 0x5 f = w := Option.some.inj h
  refine (decodeShape_19 _ (packMem_op _ _ f)).trans ?_
  rw [decodeMajor19, packMem_group, packMem_low]
  exact congrArg (fun x => Decoded.instr (.await x)) (memOf_packMem _ _ f)

/-- `wake`. -/
theorem Shape.wake (f : FmtMem) : Shape.Statement (.wake f) := by
  intro hw w h
  obtain rfl : packMem 0x19 0x6 f = w := Option.some.inj h
  refine (decodeShape_19 _ (packMem_op _ _ f)).trans ?_
  rw [decodeMajor19, packMem_group, packMem_low]
  exact congrArg (fun x => Decoded.instr (.wake x)) (memOf_packMem _ _ f)

/-- `barArrive`. -/
theorem Shape.barArrive (f : FmtBar) : Shape.Statement (.barArrive f) := by
  intro hw w h
  obtain rfl : packBar 0x19 0x1 f = w := Option.some.inj h
  refine (decodeShape_19 _ (packBar_op _ _ f)).trans ?_
  rw [decodeMajor19, packBar_fn]
  exact congrArg (fun x => Decoded.instr (.barArrive x)) (barOf_packBar _ _ f)

/-- `barWait`. -/
theorem Shape.barWait (f : FmtBar) : Shape.Statement (.barWait f) := by
  intro hw w h
  obtain rfl : packBar 0x19 0x2 f = w := Option.some.inj h
  refine (decodeShape_19 _ (packBar_op _ _ f)).trans ?_
  rw [decodeMajor19, packBar_fn]
  exact congrArg (fun x => Decoded.instr (.barWait x)) (barOf_packBar _ _ f)

/-- `barSync`. -/
theorem Shape.barSync (f : FmtBar) : Shape.Statement (.barSync f) := by
  intro hw w h
  obtain rfl : packBar 0x19 0x3 f = w := Option.some.inj h
  refine (decodeShape_19 _ (packBar_op _ _ f)).trans ?_
  rw [decodeMajor19, packBar_fn]
  exact congrArg (fun x => Decoded.instr (.barSync x)) (barOf_packBar _ _ f)

/-- `barCfg`. -/
theorem Shape.barCfg (f : FmtBar) : Shape.Statement (.barCfg f) := by
  intro hw w h
  obtain rfl : packBar 0x19 0x4 f = w := Option.some.inj h
  refine (decodeShape_19 _ (packBar_op _ _ f)).trans ?_
  rw [decodeMajor19, packBar_fn]
  exact congrArg (fun x => Decoded.instr (.barCfg x)) (barOf_packBar _ _ f)

/-- `barStat`. -/
theorem Shape.barStat (f : FmtBar) : Shape.Statement (.barStat f) := by
  intro hw w h
  obtain rfl : packBar 0x19 0x5 f = w := Option.some.inj h
  refine (decodeShape_19 _ (packBar_op _ _ f)).trans ?_
  rw [decodeMajor19, packBar_fn]
  exact congrArg (fun x => Decoded.instr (.barStat x)) (barOf_packBar _ _ f)

/-- `mfs`. -/
theorem Shape.mfs (f : FmtSI) : Shape.Statement (.mfs f) := by
  intro hw w h
  obtain rfl : packSI 0x1a f = w := Option.some.inj h
  refine (decodeShape_1A _ (packSI_op _ f)).trans ?_
  exact congrArg (fun x => Decoded.instr (.mfs x)) (siOf_packSI _ f)

/-- `mts`. -/
theorem Shape.mts (f : FmtSI) : Shape.Statement (.mts f) := by
  intro hw w h
  obtain rfl : packSI 0x1b f = w := Option.some.inj h
  have hx : ((f.gd == 0) && (f.imm != 0 && f.imm != 1 && f.imm != 3 && f.imm != 0x409)) = true := hw
  simp only [Bool.and_eq_true, beq_iff_eq, bne_iff_ne] at hx
  refine (decodeShape_1B _ (packSI_op _ f)).trans ?_
  rw [decodeMajor1B, packSI_imm]
  split
  · next h0 => exact absurd h0 hx.2.1.1.1
  · next h0 => exact absurd h0 hx.2.1.1.2
  · next h0 => exact absurd h0 hx.2.1.2
  · next h0 => exact absurd h0 hx.2.2
  · exact congrArg (fun x => Decoded.instr (.mts x)) (siOf_packSI _ f)

/-- `mtsVl`. -/
theorem Shape.mtsVl (f : FmtSI) : Shape.Statement (.mtsVl f) := by
  intro hw w h
  obtain rfl : packSI 0x1b f = w := Option.some.inj h
  have hx : ((f.gd == 0) && (f.imm == 0x0)) = true := hw
  simp only [Bool.and_eq_true, beq_iff_eq] at hx
  obtain ⟨gd, ga, sa, imm⟩ := f
  obtain rfl : imm = _ := hx.2
  refine (decodeShape_1B _ (packSI_op _ _)).trans ?_
  rw [decodeMajor1B, packSI_imm]
  exact congrArg (fun x => Decoded.instr (.mtsVl x)) (siOf_packSI _ _)

/-- `mtsVt`. -/
theorem Shape.mtsVt (f : FmtSI) : Shape.Statement (.mtsVt f) := by
  intro hw w h
  obtain rfl : packSI 0x1b f = w := Option.some.inj h
  have hx : ((f.gd == 0) && (f.imm == 0x1)) = true := hw
  simp only [Bool.and_eq_true, beq_iff_eq] at hx
  obtain ⟨gd, ga, sa, imm⟩ := f
  obtain rfl : imm = _ := hx.2
  refine (decodeShape_1B _ (packSI_op _ _)).trans ?_
  rw [decodeMajor1B, packSI_imm]
  exact congrArg (fun x => Decoded.instr (.mtsVt x)) (siOf_packSI _ _)

/-- `mtsEs`. -/
theorem Shape.mtsEs (f : FmtSI) : Shape.Statement (.mtsEs f) := by
  intro hw w h
  obtain rfl : packSI 0x1b f = w := Option.some.inj h
  have hx : ((f.gd == 0) && (f.imm == 0x3)) = true := hw
  simp only [Bool.and_eq_true, beq_iff_eq] at hx
  obtain ⟨gd, ga, sa, imm⟩ := f
  obtain rfl : imm = _ := hx.2
  refine (decodeShape_1B _ (packSI_op _ _)).trans ?_
  rw [decodeMajor1B, packSI_imm]
  exact congrArg (fun x => Decoded.instr (.mtsEs x)) (siOf_packSI _ _)

/-- `mtsDirty`. -/
theorem Shape.mtsDirty (f : FmtSI) : Shape.Statement (.mtsDirty f) := by
  intro hw w h
  obtain rfl : packSI 0x1b f = w := Option.some.inj h
  have hx : ((f.gd == 0) && (f.imm == 0x409)) = true := hw
  simp only [Bool.and_eq_true, beq_iff_eq] at hx
  obtain ⟨gd, ga, sa, imm⟩ := f
  obtain rfl : imm = _ := hx.2
  refine (decodeShape_1B _ (packSI_op _ _)).trans ?_
  rw [decodeMajor1B, packSI_imm]
  exact congrArg (fun x => Decoded.instr (.mtsDirty x)) (siOf_packSI _ _)

/-- `trap`. -/
theorem Shape.trap (f : FmtSR) : Shape.Statement (.trap f) := by
  intro hw w h
  obtain rfl : packSR 0x1c 0x0 f = w := Option.some.inj h
  refine (decodeShape_1C _ (packSR_op _ _ f)).trans ?_
  rw [decodeMajor1C, packSR_fn]
  exact congrArg (fun x => Decoded.instr (.trap x)) (srOf_packSR _ _ f)

/-- `eret`. -/
theorem Shape.eret (f : FmtSR) : Shape.Statement (.eret f) := by
  intro hw w h
  obtain rfl : packSR 0x1c 0x1 f = w := Option.some.inj h
  refine (decodeShape_1C _ (packSR_op _ _ f)).trans ?_
  rw [decodeMajor1C, packSR_fn]
  exact congrArg (fun x => Decoded.instr (.eret x)) (srOf_packSR _ _ f)

/-- `ifence`. -/
theorem Shape.ifence (f : FmtSR) : Shape.Statement (.ifence f) := by
  intro hw w h
  obtain rfl : packSR 0x1c 0x2 f = w := Option.some.inj h
  refine (decodeShape_1C _ (packSR_op _ _ f)).trans ?_
  rw [decodeMajor1C, packSR_fn]
  exact congrArg (fun x => Decoded.instr (.ifence x)) (srOf_packSR _ _ f)

/-- `tlbinvAll`. -/
theorem Shape.tlbinvAll (f : FmtSR) : Shape.Statement (.tlbinvAll f) := by
  intro hw w h
  obtain rfl : packSR 0x1c 0x3 f = w := Option.some.inj h
  refine (decodeShape_1C _ (packSR_op _ _ f)).trans ?_
  rw [decodeMajor1C, packSR_fn]
  exact congrArg (fun x => Decoded.instr (.tlbinvAll x)) (srOf_packSR _ _ f)

/-- `tlbinvCtx`. -/
theorem Shape.tlbinvCtx (f : FmtSR) : Shape.Statement (.tlbinvCtx f) := by
  intro hw w h
  obtain rfl : packSR 0x1c 0x4 f = w := Option.some.inj h
  refine (decodeShape_1C _ (packSR_op _ _ f)).trans ?_
  rw [decodeMajor1C, packSR_fn]
  exact congrArg (fun x => Decoded.instr (.tlbinvCtx x)) (srOf_packSR _ _ f)

/-- `tlbinvVa`. -/
theorem Shape.tlbinvVa (f : FmtSR) : Shape.Statement (.tlbinvVa f) := by
  intro hw w h
  obtain rfl : packSR 0x1c 0x5 f = w := Option.some.inj h
  refine (decodeShape_1C _ (packSR_op _ _ f)).trans ?_
  rw [decodeMajor1C, packSR_fn]
  exact congrArg (fun x => Decoded.instr (.tlbinvVa x)) (srOf_packSR _ _ f)

/-- `cflush`. -/
theorem Shape.cflush (f : FmtSR) : Shape.Statement (.cflush f) := by
  intro hw w h
  obtain rfl : packSR 0x1c 0x6 f = w := Option.some.inj h
  refine (decodeShape_1C _ (packSR_op _ _ f)).trans ?_
  rw [decodeMajor1C, packSR_fn]
  exact congrArg (fun x => Decoded.instr (.cflush x)) (srOf_packSR _ _ f)

/-- `cclean`. -/
theorem Shape.cclean (f : FmtSR) : Shape.Statement (.cclean f) := by
  intro hw w h
  obtain rfl : packSR 0x1c 0x7 f = w := Option.some.inj h
  refine (decodeShape_1C _ (packSR_op _ _ f)).trans ?_
  rw [decodeMajor1C, packSR_fn]
  exact congrArg (fun x => Decoded.instr (.cclean x)) (srOf_packSR _ _ f)

/-- `cfetch`. -/
theorem Shape.cfetch (f : FmtSR) : Shape.Statement (.cfetch f) := by
  intro hw w h
  obtain rfl : packSR 0x1c 0x8 f = w := Option.some.inj h
  refine (decodeShape_1C _ (packSR_op _ _ f)).trans ?_
  rw [decodeMajor1C, packSR_fn]
  exact congrArg (fun x => Decoded.instr (.cfetch x)) (srOf_packSR _ _ f)

/-- `tlbprobe`. -/
theorem Shape.tlbprobe (f : FmtSR) : Shape.Statement (.tlbprobe f) := by
  intro hw w h
  obtain rfl : packSR 0x1c 0x9 f = w := Option.some.inj h
  refine (decodeShape_1C _ (packSR_op _ _ f)).trans ?_
  rw [decodeMajor1C, packSR_fn]
  exact congrArg (fun x => Decoded.instr (.tlbprobe x)) (srOf_packSR _ _ f)

/-- `spawn`. -/
theorem Shape.spawn (f : FmtSR) : Shape.Statement (.spawn f) := by
  intro hw w h
  obtain rfl : packSR 0x1d 0x0 f = w := Option.some.inj h
  refine (decodeShape_1D _ (packSR_op _ _ f)).trans ?_
  rw [decodeMajor1D, packSR_fn]
  exact congrArg (fun x => Decoded.instr (.spawn x)) (srOf_packSR _ _ f)

/-- `exit`. -/
theorem Shape.exit (f : FmtSR) : Shape.Statement (.exit f) := by
  intro hw w h
  obtain rfl : packSR 0x1d 0x1 f = w := Option.some.inj h
  refine (decodeShape_1D _ (packSR_op _ _ f)).trans ?_
  rw [decodeMajor1D, packSR_fn]
  exact congrArg (fun x => Decoded.instr (.exit x)) (srOf_packSR _ _ f)

/-- `yield`. -/
theorem Shape.yield (f : FmtSR) : Shape.Statement (.yield f) := by
  intro hw w h
  obtain rfl : packSR 0x1d 0x2 f = w := Option.some.inj h
  refine (decodeShape_1D _ (packSR_op _ _ f)).trans ?_
  rw [decodeMajor1D, packSR_fn]
  exact congrArg (fun x => Decoded.instr (.yield x)) (srOf_packSR _ _ f)

/-- `self`. -/
theorem Shape.self (f : FmtSR) : Shape.Statement (.self f) := by
  intro hw w h
  obtain rfl : packSR 0x1d 0x3 f = w := Option.some.inj h
  refine (decodeShape_1D _ (packSR_op _ _ f)).trans ?_
  rw [decodeMajor1D, packSR_fn]
  exact congrArg (fun x => Decoded.instr (.self x)) (srOf_packSR _ _ f)

/-- `vclaim`. -/
theorem Shape.vclaim (f : FmtSR) : Shape.Statement (.vclaim f) := by
  intro hw w h
  obtain rfl : packSR 0x1d 0x4 f = w := Option.some.inj h
  refine (decodeShape_1D _ (packSR_op _ _ f)).trans ?_
  rw [decodeMajor1D, packSR_fn]
  exact congrArg (fun x => Decoded.instr (.vclaim x)) (srOf_packSR _ _ f)

/-- `vsetl`. -/
theorem Shape.vsetl (f : FmtSR) : Shape.Statement (.vsetl f) := by
  intro hw w h
  obtain rfl : packSR 0x1e 0x0 f = w := Option.some.inj h
  refine (decodeShape_1E _ (packSR_op _ _ f)).trans ?_
  rw [decodeMajor1E, packSR_fn]
  exact congrArg (fun x => Decoded.instr (.vsetl x)) (srOf_packSR _ _ f)

/-- `vsett`. -/
theorem Shape.vsett (f : FmtSR) : Shape.Statement (.vsett f) := by
  intro hw w h
  obtain rfl : packSR 0x1e 0x1 f = w := Option.some.inj h
  refine (decodeShape_1E _ (packSR_op _ _ f)).trans ?_
  rw [decodeMajor1E, packSR_fn]
  exact congrArg (fun x => Decoded.instr (.vsett x)) (srOf_packSR _ _ f)

/-- `vsetes`. -/
theorem Shape.vsetes (f : FmtSR) : Shape.Statement (.vsetes f) := by
  intro hw w h
  obtain rfl : packSR 0x1e 0x2 f = w := Option.some.inj h
  refine (decodeShape_1E _ (packSR_op _ _ f)).trans ?_
  rw [decodeMajor1E, packSR_fn]
  exact congrArg (fun x => Decoded.instr (.vsetes x)) (srOf_packSR _ _ f)

/-- `vframe`. -/
theorem Shape.vframe (f : FmtVF) : Shape.Statement (.vframe f) := by
  intro hw w h
  obtain rfl : packVF 0x1f f = w := Option.some.inj h
  refine (decodeShape_1F _ (packVF_op _ f)).trans ?_
  exact congrArg (fun x => Decoded.instr (.vframe x)) (vfOf_packVF _ f)

/-- `qbind`. -/
theorem Shape.qbind (f : FmtV) : Shape.Statement (.qbind f) := by
  intro hw w h
  obtain rfl : packV 0x20 0x0 f = w := Option.some.inj h
  have hx : ((f.vd.toNat < 8) && (f.guard == 0) && !f.gneg && !f.cv && (f.fnx == 0)) = true := hw
  simp only [Bool.and_eq_true, beq_iff_eq] at hx
  obtain ⟨vd, va, vb, sa, sb, guard, gneg, cv, fnx⟩ := f
  obtain rfl : fnx = 0 := hx.2
  refine (decodeShape_20 _ (packV_op _ _ _)).trans ?_
  rw [decodeMajor20, packV_fn]
  exact congrArg (fun x => Decoded.instr (.qbind x)) (vOf_packV _ _ _)

/-- `qfree`. -/
theorem Shape.qfree (f : FmtV) : Shape.Statement (.qfree f) := by
  intro hw w h
  obtain rfl : packV 0x20 0x1 f = w := Option.some.inj h
  have hx : ((f.vd.toNat < 8) && (f.va == 0) && (f.vb == 0) && !f.sa && !f.sb && (f.guard == 0) && !f.gneg && !f.cv && (f.fnx == 0)) = true := hw
  simp only [Bool.and_eq_true, beq_iff_eq] at hx
  obtain ⟨vd, va, vb, sa, sb, guard, gneg, cv, fnx⟩ := f
  obtain rfl : fnx = 0 := hx.2
  refine (decodeShape_20 _ (packV_op _ _ _)).trans ?_
  rw [decodeMajor20, packV_fn]
  exact congrArg (fun x => Decoded.instr (.qfree x)) (vOf_packV _ _ _)

/-- `vpop`. -/
theorem Shape.vpop (f : FmtV) : Shape.Statement (.vpop f) := by
  intro hw w h
  obtain rfl : packV 0x20 0x2 f = w := Option.some.inj h
  have hx : ((f.va.toNat < 8) && (f.vb == 0) && !f.sa && !f.sb && (f.guard == 0) && !f.gneg && (f.fnx == 0)) = true := hw
  simp only [Bool.and_eq_true, beq_iff_eq] at hx
  obtain ⟨vd, va, vb, sa, sb, guard, gneg, cv, fnx⟩ := f
  obtain rfl : fnx = 0 := hx.2
  refine (decodeShape_20 _ (packV_op _ _ _)).trans ?_
  rw [decodeMajor20, packV_fn]
  exact congrArg (fun x => Decoded.instr (.vpop x)) (vOf_packV _ _ _)

/-- `hld`. -/
theorem Shape.hld (f : FmtV) : Shape.Statement (.hld f) := by
  intro hw w h
  obtain rfl : packV 0x20 0x3 f = w := Option.some.inj h
  have hx : ((f.vd.toNat < 8) && (f.vb == 0) && !f.sb && (f.guard == 0) && !f.gneg && !f.cv && (f.fnx == 0)) = true := hw
  simp only [Bool.and_eq_true, beq_iff_eq] at hx
  obtain ⟨vd, va, vb, sa, sb, guard, gneg, cv, fnx⟩ := f
  obtain rfl : fnx = 0 := hx.2
  refine (decodeShape_20 _ (packV_op _ _ _)).trans ?_
  rw [decodeMajor20, packV_fn]
  exact congrArg (fun x => Decoded.instr (.hld x)) (vOf_packV _ _ _)

/-- `hst`. -/
theorem Shape.hst (f : FmtV) : Shape.Statement (.hst f) := by
  intro hw w h
  obtain rfl : packV 0x20 0x4 f = w := Option.some.inj h
  have hx : ((f.vd.toNat < 8) && (f.vb == 0) && !f.sb && (f.guard == 0) && !f.gneg && !f.cv && (f.fnx == 0)) = true := hw
  simp only [Bool.and_eq_true, beq_iff_eq] at hx
  obtain ⟨vd, va, vb, sa, sb, guard, gneg, cv, fnx⟩ := f
  obtain rfl : fnx = 0 := hx.2
  refine (decodeShape_20 _ (packV_op _ _ _)).trans ?_
  rw [decodeMajor20, packV_fn]
  exact congrArg (fun x => Decoded.instr (.hst x)) (vOf_packV _ _ _)

/-- `tcopy`. -/
theorem Shape.tcopy (f : FmtV) : Shape.Statement (.tcopy f) := by
  intro hw w h
  obtain rfl : packV 0x20 0x5 f = w := Option.some.inj h
  have hx : ((f.vd.toNat < 8) && (f.va.toNat < 8) && !f.sa && (f.guard == 0) && !f.gneg && !f.cv && (f.fnx == 0)) = true := hw
  simp only [Bool.and_eq_true, beq_iff_eq] at hx
  obtain ⟨vd, va, vb, sa, sb, guard, gneg, cv, fnx⟩ := f
  obtain rfl : fnx = 0 := hx.2
  refine (decodeShape_20 _ (packV_op _ _ _)).trans ?_
  rw [decodeMajor20, packV_fn]
  exact congrArg (fun x => Decoded.instr (.tcopy x)) (vOf_packV _ _ _)

/-- `xpin`. -/
theorem Shape.xpin (f : FmtV) : Shape.Statement (.xpin f) := by
  intro hw w h
  obtain rfl : packV 0x21 0x0 f = w := Option.some.inj h
  have hx : ((f.vb == 0) && !f.sb && (f.guard == 0) && !f.gneg && !f.cv && (f.fnx == 0)) = true := hw
  simp only [Bool.and_eq_true, beq_iff_eq] at hx
  obtain ⟨vd, va, vb, sa, sb, guard, gneg, cv, fnx⟩ := f
  obtain rfl : fnx = 0 := hx.2
  refine (decodeShape_21 _ (packV_op _ _ _)).trans ?_
  rw [decodeMajor21, packV_fn]
  exact congrArg (fun x => Decoded.instr (.xpin x)) (vOf_packV _ _ _)

/-- `xunpin`. -/
theorem Shape.xunpin (f : FmtV) : Shape.Statement (.xunpin f) := by
  intro hw w h
  obtain rfl : packV 0x21 0x1 f = w := Option.some.inj h
  have hx : ((f.vd == 0) && (f.vb == 0) && !f.sb && (f.guard == 0) && !f.gneg && !f.cv && (f.fnx == 0)) = true := hw
  simp only [Bool.and_eq_true, beq_iff_eq] at hx
  obtain ⟨vd, va, vb, sa, sb, guard, gneg, cv, fnx⟩ := f
  obtain rfl : fnx = 0 := hx.2
  refine (decodeShape_21 _ (packV_op _ _ _)).trans ?_
  rw [decodeMajor21, packV_fn]
  exact congrArg (fun x => Decoded.instr (.xunpin x)) (vOf_packV _ _ _)

/-- `xrun`. -/
theorem Shape.xrun (f : FmtV) : Shape.Statement (.xrun f) := by
  intro hw w h
  obtain rfl : packV 0x21 0x2 f = w := Option.some.inj h
  have hx : ((f.guard == 0) && !f.gneg && !f.cv && (f.fnx == 0)) = true := hw
  simp only [Bool.and_eq_true, beq_iff_eq] at hx
  obtain ⟨vd, va, vb, sa, sb, guard, gneg, cv, fnx⟩ := f
  obtain rfl : fnx = 0 := hx.2
  refine (decodeShape_21 _ (packV_op _ _ _)).trans ?_
  rw [decodeMajor21, packV_fn]
  exact congrArg (fun x => Decoded.instr (.xrun x)) (vOf_packV _ _ _)

/-- `xsplice`. -/
theorem Shape.xsplice (f : FmtV) : Shape.Statement (.xsplice f) := by
  intro hw w h
  obtain rfl : packV 0x21 0x3 f = w := Option.some.inj h
  have hx : ((f.guard == 0) && !f.gneg && !f.cv && (f.fnx == 0)) = true := hw
  simp only [Bool.and_eq_true, beq_iff_eq] at hx
  obtain ⟨vd, va, vb, sa, sb, guard, gneg, cv, fnx⟩ := f
  obtain rfl : fnx = 0 := hx.2
  refine (decodeShape_21 _ (packV_op _ _ _)).trans ?_
  rw [decodeMajor21, packV_fn]
  exact congrArg (fun x => Decoded.instr (.xsplice x)) (vOf_packV _ _ _)

/-- `xreap`. -/
theorem Shape.xreap (f : FmtV) : Shape.Statement (.xreap f) := by
  intro hw w h
  obtain rfl : packV 0x21 0x4 f = w := Option.some.inj h
  have hx : ((f.guard == 0) && !f.gneg && !f.cv && (f.fnx == 0)) = true := hw
  simp only [Bool.and_eq_true, beq_iff_eq] at hx
  obtain ⟨vd, va, vb, sa, sb, guard, gneg, cv, fnx⟩ := f
  obtain rfl : fnx = 0 := hx.2
  refine (decodeShape_21 _ (packV_op _ _ _)).trans ?_
  rw [decodeMajor21, packV_fn]
  exact congrArg (fun x => Decoded.instr (.xreap x)) (vOf_packV _ _ _)

/-- `xlen`. -/
theorem Shape.xlen (f : FmtV) : Shape.Statement (.xlen f) := by
  intro hw w h
  obtain rfl : packV 0x21 0x5 f = w := Option.some.inj h
  have hx : ((f.vb == 0) && !f.sb && (f.guard == 0) && !f.gneg && !f.cv && (f.fnx == 0)) = true := hw
  simp only [Bool.and_eq_true, beq_iff_eq] at hx
  obtain ⟨vd, va, vb, sa, sb, guard, gneg, cv, fnx⟩ := f
  obtain rfl : fnx = 0 := hx.2
  refine (decodeShape_21 _ (packV_op _ _ _)).trans ?_
  rw [decodeMajor21, packV_fn]
  exact congrArg (fun x => Decoded.instr (.xlen x)) (vOf_packV _ _ _)

/-- `ringCfg`. -/
theorem Shape.ringCfg (f : FmtV) : Shape.Statement (.ringCfg f) := by
  intro hw w h
  obtain rfl : packV 0x22 0x0 f = w := Option.some.inj h
  have hx : ((f.vd.toNat < 4) && (f.vb == 0) && !f.sb && (f.guard == 0) && !f.gneg && !f.cv && (f.fnx == 0)) = true := hw
  simp only [Bool.and_eq_true, beq_iff_eq] at hx
  obtain ⟨vd, va, vb, sa, sb, guard, gneg, cv, fnx⟩ := f
  obtain rfl : fnx = 0 := hx.2
  refine (decodeShape_22 _ (packV_op _ _ _)).trans ?_
  rw [decodeMajor22, packV_fn]
  exact congrArg (fun x => Decoded.instr (.ringCfg x)) (vOf_packV _ _ _)

/-- `ringPost`. -/
theorem Shape.ringPost (f : FmtV) : Shape.Statement (.ringPost f) := by
  intro hw w h
  obtain rfl : packV 0x22 0x1 f = w := Option.some.inj h
  have hx : ((f.vd.toNat < 4) && (f.va == 0) && (f.vb == 0) && !f.sa && !f.sb && (f.guard == 0) && !f.gneg && !f.cv && (f.fnx == 0)) = true := hw
  simp only [Bool.and_eq_true, beq_iff_eq] at hx
  obtain ⟨vd, va, vb, sa, sb, guard, gneg, cv, fnx⟩ := f
  obtain rfl : fnx = 0 := hx.2
  refine (decodeShape_22 _ (packV_op _ _ _)).trans ?_
  rw [decodeMajor22, packV_fn]
  exact congrArg (fun x => Decoded.instr (.ringPost x)) (vOf_packV _ _ _)

/-- `qbindRing`. -/
theorem Shape.qbindRing (f : FmtV) : Shape.Statement (.qbindRing f) := by
  intro hw w h
  obtain rfl : packV 0x22 0x2 f = w := Option.some.inj h
  have hx : ((f.vd.toNat < 8) && (f.va.toNat < 4) && (f.vb == 0) && !f.sa && !f.sb && (f.guard == 0) && !f.gneg && !f.cv && (f.fnx == 0)) = true := hw
  simp only [Bool.and_eq_true, beq_iff_eq] at hx
  obtain ⟨vd, va, vb, sa, sb, guard, gneg, cv, fnx⟩ := f
  obtain rfl : fnx = 0 := hx.2
  refine (decodeShape_22 _ (packV_op _ _ _)).trans ?_
  rw [decodeMajor22, packV_fn]
  exact congrArg (fun x => Decoded.instr (.qbindRing x)) (vOf_packV _ _ _)

/-- `ringHdr`. -/
theorem Shape.ringHdr (f : FmtV) : Shape.Statement (.ringHdr f) := by
  intro hw w h
  obtain rfl : packV 0x22 0x3 f = w := Option.some.inj h
  have hx : ((f.va.toNat < 8) && (f.vb == 0) && !f.sa && !f.sb && (f.guard == 0) && !f.gneg && !f.cv && (f.fnx == 0)) = true := hw
  simp only [Bool.and_eq_true, beq_iff_eq] at hx
  obtain ⟨vd, va, vb, sa, sb, guard, gneg, cv, fnx⟩ := f
  obtain rfl : fnx = 0 := hx.2
  refine (decodeShape_22 _ (packV_op _ _ _)).trans ?_
  rw [decodeMajor22, packV_fn]
  exact congrArg (fun x => Decoded.instr (.ringHdr x)) (vOf_packV _ _ _)

/-- `ringDone`. -/
theorem Shape.ringDone (f : FmtV) : Shape.Statement (.ringDone f) := by
  intro hw w h
  obtain rfl : packV 0x22 0x4 f = w := Option.some.inj h
  have hx : ((f.vd == 0) && (f.va.toNat < 8) && (f.vb == 0) && !f.sa && !f.sb && (f.guard == 0) && !f.gneg && !f.cv && (f.fnx == 0)) = true := hw
  simp only [Bool.and_eq_true, beq_iff_eq] at hx
  obtain ⟨vd, va, vb, sa, sb, guard, gneg, cv, fnx⟩ := f
  obtain rfl : fnx = 0 := hx.2
  refine (decodeShape_22 _ (packV_op _ _ _)).trans ?_
  rw [decodeMajor22, packV_fn]
  exact congrArg (fun x => Decoded.instr (.ringDone x)) (vOf_packV _ _ _)

/-- `ringStat`. -/
theorem Shape.ringStat (f : FmtV) : Shape.Statement (.ringStat f) := by
  intro hw w h
  obtain rfl : packV 0x22 0x5 f = w := Option.some.inj h
  have hx : ((f.va.toNat < 4) && (f.vb == 0) && !f.sa && !f.sb && (f.guard == 0) && !f.gneg && !f.cv && (f.fnx == 0)) = true := hw
  simp only [Bool.and_eq_true, beq_iff_eq] at hx
  obtain ⟨vd, va, vb, sa, sb, guard, gneg, cv, fnx⟩ := f
  obtain rfl : fnx = 0 := hx.2
  refine (decodeShape_22 _ (packV_op _ _ _)).trans ?_
  rw [decodeMajor22, packV_fn]
  exact congrArg (fun x => Decoded.instr (.ringStat x)) (vOf_packV _ _ _)

/-- `ringBrk`. -/
theorem Shape.ringBrk (f : FmtV) : Shape.Statement (.ringBrk f) := by
  intro hw w h
  obtain rfl : packV 0x22 0x6 f = w := Option.some.inj h
  have hx : ((f.vd.toNat < 4) && (f.va == 0) && (f.vb == 0) && !f.sa && !f.sb && (f.guard == 0) && !f.gneg && !f.cv && (f.fnx == 0)) = true := hw
  simp only [Bool.and_eq_true, beq_iff_eq] at hx
  obtain ⟨vd, va, vb, sa, sb, guard, gneg, cv, fnx⟩ := f
  obtain rfl : fnx = 0 := hx.2
  refine (decodeShape_22 _ (packV_op _ _ _)).trans ?_
  rw [decodeMajor22, packV_fn]
  exact congrArg (fun x => Decoded.instr (.ringBrk x)) (vOf_packV _ _ _)

/-- `kseal`. -/
theorem Shape.kseal (f : FmtV) : Shape.Statement (.kseal f) := by
  intro hw w h
  obtain rfl : packV 0x23 0x0 f = w := Option.some.inj h
  have hx : ((f.vd == 0) && (f.guard == 0) && !f.gneg && !f.cv && (f.fnx == 0)) = true := hw
  simp only [Bool.and_eq_true, beq_iff_eq] at hx
  obtain ⟨vd, va, vb, sa, sb, guard, gneg, cv, fnx⟩ := f
  obtain rfl : fnx = 0 := hx.2
  refine (decodeShape_23 _ (packV_op _ _ _)).trans ?_
  rw [decodeMajor23, packV_fn]
  exact congrArg (fun x => Decoded.instr (.kseal x)) (vOf_packV _ _ _)

/-- `kopen`. -/
theorem Shape.kopen (f : FmtV) : Shape.Statement (.kopen f) := by
  intro hw w h
  obtain rfl : packV 0x23 0x1 f = w := Option.some.inj h
  have hx : ((f.vd == 0) && (f.guard == 0) && !f.gneg && !f.cv && (f.fnx == 0)) = true := hw
  simp only [Bool.and_eq_true, beq_iff_eq] at hx
  obtain ⟨vd, va, vb, sa, sb, guard, gneg, cv, fnx⟩ := f
  obtain rfl : fnx = 0 := hx.2
  refine (decodeShape_23 _ (packV_op _ _ _)).trans ?_
  rw [decodeMajor23, packV_fn]
  exact congrArg (fun x => Decoded.instr (.kopen x)) (vOf_packV _ _ _)

/-- `vadd`. -/
theorem Shape.vadd (f : FmtV) : Shape.Statement (.vadd f) := by
  intro hw w h
  obtain rfl : packV 0x28 0x0 f = w := Option.some.inj h
  have hx : ((f.fnx == 0)) = true := hw
  simp only [beq_iff_eq] at hx
  obtain ⟨vd, va, vb, sa, sb, guard, gneg, cv, fnx⟩ := f
  obtain rfl : fnx = 0 := hx
  refine (decodeShape_28 _ (packV_op _ _ _)).trans ?_
  rw [decodeMajor28, packV_fn]
  exact congrArg (fun x => Decoded.instr (.vadd x)) (vOf_packV _ _ _)

/-- `vsub`. -/
theorem Shape.vsub (f : FmtV) : Shape.Statement (.vsub f) := by
  intro hw w h
  obtain rfl : packV 0x28 0x1 f = w := Option.some.inj h
  have hx : ((f.fnx == 0)) = true := hw
  simp only [beq_iff_eq] at hx
  obtain ⟨vd, va, vb, sa, sb, guard, gneg, cv, fnx⟩ := f
  obtain rfl : fnx = 0 := hx
  refine (decodeShape_28 _ (packV_op _ _ _)).trans ?_
  rw [decodeMajor28, packV_fn]
  exact congrArg (fun x => Decoded.instr (.vsub x)) (vOf_packV _ _ _)

/-- `vmul`. -/
theorem Shape.vmul (f : FmtV) : Shape.Statement (.vmul f) := by
  intro hw w h
  obtain rfl : packV 0x28 0x2 f = w := Option.some.inj h
  have hx : ((f.fnx == 0)) = true := hw
  simp only [beq_iff_eq] at hx
  obtain ⟨vd, va, vb, sa, sb, guard, gneg, cv, fnx⟩ := f
  obtain rfl : fnx = 0 := hx
  refine (decodeShape_28 _ (packV_op _ _ _)).trans ?_
  rw [decodeMajor28, packV_fn]
  exact congrArg (fun x => Decoded.instr (.vmul x)) (vOf_packV _ _ _)

/-- `vmac`. -/
theorem Shape.vmac (f : FmtV) : Shape.Statement (.vmac f) := by
  intro hw w h
  obtain rfl : packV 0x28 0x3 f = w := Option.some.inj h
  have hx : ((f.fnx == 0)) = true := hw
  simp only [beq_iff_eq] at hx
  obtain ⟨vd, va, vb, sa, sb, guard, gneg, cv, fnx⟩ := f
  obtain rfl : fnx = 0 := hx
  refine (decodeShape_28 _ (packV_op _ _ _)).trans ?_
  rw [decodeMajor28, packV_fn]
  exact congrArg (fun x => Decoded.instr (.vmac x)) (vOf_packV _ _ _)

/-- `vmin`. -/
theorem Shape.vmin (f : FmtV) : Shape.Statement (.vmin f) := by
  intro hw w h
  obtain rfl : packV 0x28 0x4 f = w := Option.some.inj h
  have hx : ((f.fnx == 0)) = true := hw
  simp only [beq_iff_eq] at hx
  obtain ⟨vd, va, vb, sa, sb, guard, gneg, cv, fnx⟩ := f
  obtain rfl : fnx = 0 := hx
  refine (decodeShape_28 _ (packV_op _ _ _)).trans ?_
  rw [decodeMajor28, packV_fn]
  exact congrArg (fun x => Decoded.instr (.vmin x)) (vOf_packV _ _ _)

/-- `vmax`. -/
theorem Shape.vmax (f : FmtV) : Shape.Statement (.vmax f) := by
  intro hw w h
  obtain rfl : packV 0x28 0x5 f = w := Option.some.inj h
  have hx : ((f.fnx == 0)) = true := hw
  simp only [beq_iff_eq] at hx
  obtain ⟨vd, va, vb, sa, sb, guard, gneg, cv, fnx⟩ := f
  obtain rfl : fnx = 0 := hx
  refine (decodeShape_28 _ (packV_op _ _ _)).trans ?_
  rw [decodeMajor28, packV_fn]
  exact congrArg (fun x => Decoded.instr (.vmax x)) (vOf_packV _ _ _)

/-- `vdiv`. -/
theorem Shape.vdiv (f : FmtV) : Shape.Statement (.vdiv f) := by
  intro hw w h
  obtain rfl : packV 0x28 0x6 f = w := Option.some.inj h
  have hx : ((f.fnx == 0)) = true := hw
  simp only [beq_iff_eq] at hx
  obtain ⟨vd, va, vb, sa, sb, guard, gneg, cv, fnx⟩ := f
  obtain rfl : fnx = 0 := hx
  refine (decodeShape_28 _ (packV_op _ _ _)).trans ?_
  rw [decodeMajor28, packV_fn]
  exact congrArg (fun x => Decoded.instr (.vdiv x)) (vOf_packV _ _ _)

/-- `vrem`. -/
theorem Shape.vrem (f : FmtV) : Shape.Statement (.vrem f) := by
  intro hw w h
  obtain rfl : packV 0x28 0x7 f = w := Option.some.inj h
  have hx : ((f.fnx == 0)) = true := hw
  simp only [beq_iff_eq] at hx
  obtain ⟨vd, va, vb, sa, sb, guard, gneg, cv, fnx⟩ := f
  obtain rfl : fnx = 0 := hx
  refine (decodeShape_28 _ (packV_op _ _ _)).trans ?_
  rw [decodeMajor28, packV_fn]
  exact congrArg (fun x => Decoded.instr (.vrem x)) (vOf_packV _ _ _)

/-- `vand`. -/
theorem Shape.vand (f : FmtV) : Shape.Statement (.vand f) := by
  intro hw w h
  obtain rfl : packV 0x28 0x8 f = w := Option.some.inj h
  have hx : ((f.fnx == 0)) = true := hw
  simp only [beq_iff_eq] at hx
  obtain ⟨vd, va, vb, sa, sb, guard, gneg, cv, fnx⟩ := f
  obtain rfl : fnx = 0 := hx
  refine (decodeShape_28 _ (packV_op _ _ _)).trans ?_
  rw [decodeMajor28, packV_fn]
  exact congrArg (fun x => Decoded.instr (.vand x)) (vOf_packV _ _ _)

/-- `vor`. -/
theorem Shape.vor (f : FmtV) : Shape.Statement (.vor f) := by
  intro hw w h
  obtain rfl : packV 0x28 0x9 f = w := Option.some.inj h
  have hx : ((f.fnx == 0)) = true := hw
  simp only [beq_iff_eq] at hx
  obtain ⟨vd, va, vb, sa, sb, guard, gneg, cv, fnx⟩ := f
  obtain rfl : fnx = 0 := hx
  refine (decodeShape_28 _ (packV_op _ _ _)).trans ?_
  rw [decodeMajor28, packV_fn]
  exact congrArg (fun x => Decoded.instr (.vor x)) (vOf_packV _ _ _)

/-- `vxor`. -/
theorem Shape.vxor (f : FmtV) : Shape.Statement (.vxor f) := by
  intro hw w h
  obtain rfl : packV 0x28 0xa f = w := Option.some.inj h
  have hx : ((f.fnx == 0)) = true := hw
  simp only [beq_iff_eq] at hx
  obtain ⟨vd, va, vb, sa, sb, guard, gneg, cv, fnx⟩ := f
  obtain rfl : fnx = 0 := hx
  refine (decodeShape_28 _ (packV_op _ _ _)).trans ?_
  rw [decodeMajor28, packV_fn]
  exact congrArg (fun x => Decoded.instr (.vxor x)) (vOf_packV _ _ _)

/-- `vsll`. -/
theorem Shape.vsll (f : FmtV) : Shape.Statement (.vsll f) := by
  intro hw w h
  obtain rfl : packV 0x28 0xb f = w := Option.some.inj h
  have hx : ((f.fnx == 0)) = true := hw
  simp only [beq_iff_eq] at hx
  obtain ⟨vd, va, vb, sa, sb, guard, gneg, cv, fnx⟩ := f
  obtain rfl : fnx = 0 := hx
  refine (decodeShape_28 _ (packV_op _ _ _)).trans ?_
  rw [decodeMajor28, packV_fn]
  exact congrArg (fun x => Decoded.instr (.vsll x)) (vOf_packV _ _ _)

/-- `vsrl`. -/
theorem Shape.vsrl (f : FmtV) : Shape.Statement (.vsrl f) := by
  intro hw w h
  obtain rfl : packV 0x28 0xc f = w := Option.some.inj h
  have hx : ((f.fnx == 0)) = true := hw
  simp only [beq_iff_eq] at hx
  obtain ⟨vd, va, vb, sa, sb, guard, gneg, cv, fnx⟩ := f
  obtain rfl : fnx = 0 := hx
  refine (decodeShape_28 _ (packV_op _ _ _)).trans ?_
  rw [decodeMajor28, packV_fn]
  exact congrArg (fun x => Decoded.instr (.vsrl x)) (vOf_packV _ _ _)

/-- `vsra`. -/
theorem Shape.vsra (f : FmtV) : Shape.Statement (.vsra f) := by
  intro hw w h
  obtain rfl : packV 0x28 0xd f = w := Option.some.inj h
  have hx : ((f.fnx == 0)) = true := hw
  simp only [beq_iff_eq] at hx
  obtain ⟨vd, va, vb, sa, sb, guard, gneg, cv, fnx⟩ := f
  obtain rfl : fnx = 0 := hx
  refine (decodeShape_28 _ (packV_op _ _ _)).trans ?_
  rw [decodeMajor28, packV_fn]
  exact congrArg (fun x => Decoded.instr (.vsra x)) (vOf_packV _ _ _)

/-- `vadds`. -/
theorem Shape.vadds (f : FmtV) : Shape.Statement (.vadds f) := by
  intro hw w h
  obtain rfl : packV 0x28 0xe f = w := Option.some.inj h
  have hx : ((f.fnx == 0)) = true := hw
  simp only [beq_iff_eq] at hx
  obtain ⟨vd, va, vb, sa, sb, guard, gneg, cv, fnx⟩ := f
  obtain rfl : fnx = 0 := hx
  refine (decodeShape_28 _ (packV_op _ _ _)).trans ?_
  rw [decodeMajor28, packV_fn]
  exact congrArg (fun x => Decoded.instr (.vadds x)) (vOf_packV _ _ _)

/-- `vsubs`. -/
theorem Shape.vsubs (f : FmtV) : Shape.Statement (.vsubs f) := by
  intro hw w h
  obtain rfl : packV 0x28 0xf f = w := Option.some.inj h
  have hx : ((f.fnx == 0)) = true := hw
  simp only [beq_iff_eq] at hx
  obtain ⟨vd, va, vb, sa, sb, guard, gneg, cv, fnx⟩ := f
  obtain rfl : fnx = 0 := hx
  refine (decodeShape_28 _ (packV_op _ _ _)).trans ?_
  rw [decodeMajor28, packV_fn]
  exact congrArg (fun x => Decoded.instr (.vsubs x)) (vOf_packV _ _ _)

/-- `vsqrt`. -/
theorem Shape.vsqrt (f : FmtV) : Shape.Statement (.vsqrt f) := by
  intro hw w h
  obtain rfl : packV 0x29 0x0 f = w := Option.some.inj h
  have hx : ((f.vb == 0) && !f.sb && (f.fnx == 0)) = true := hw
  simp only [Bool.and_eq_true, beq_iff_eq] at hx
  obtain ⟨vd, va, vb, sa, sb, guard, gneg, cv, fnx⟩ := f
  obtain rfl : fnx = 0 := hx.2
  refine (decodeShape_29 _ (packV_op _ _ _)).trans ?_
  rw [decodeMajor29, packV_fn]
  exact congrArg (fun x => Decoded.instr (.vsqrt x)) (vOf_packV _ _ _)

/-- `vnmac`. -/
theorem Shape.vnmac (f : FmtV) : Shape.Statement (.vnmac f) := by
  intro hw w h
  obtain rfl : packV 0x29 0x1 f = w := Option.some.inj h
  have hx : ((f.fnx == 0)) = true := hw
  simp only [beq_iff_eq] at hx
  obtain ⟨vd, va, vb, sa, sb, guard, gneg, cv, fnx⟩ := f
  obtain rfl : fnx = 0 := hx
  refine (decodeShape_29 _ (packV_op _ _ _)).trans ?_
  rw [decodeMajor29, packV_fn]
  exact congrArg (fun x => Decoded.instr (.vnmac x)) (vOf_packV _ _ _)

/-- `vabs`. -/
theorem Shape.vabs (f : FmtV) : Shape.Statement (.vabs f) := by
  intro hw w h
  obtain rfl : packV 0x29 0x2 f = w := Option.some.inj h
  have hx : ((f.vb == 0) && !f.sb && (f.fnx == 0)) = true := hw
  simp only [Bool.and_eq_true, beq_iff_eq] at hx
  obtain ⟨vd, va, vb, sa, sb, guard, gneg, cv, fnx⟩ := f
  obtain rfl : fnx = 0 := hx.2
  refine (decodeShape_29 _ (packV_op _ _ _)).trans ?_
  rw [decodeMajor29, packV_fn]
  exact congrArg (fun x => Decoded.instr (.vabs x)) (vOf_packV _ _ _)

/-- `vneg`. -/
theorem Shape.vneg (f : FmtV) : Shape.Statement (.vneg f) := by
  intro hw w h
  obtain rfl : packV 0x29 0x3 f = w := Option.some.inj h
  have hx : ((f.vb == 0) && !f.sb && (f.fnx == 0)) = true := hw
  simp only [Bool.and_eq_true, beq_iff_eq] at hx
  obtain ⟨vd, va, vb, sa, sb, guard, gneg, cv, fnx⟩ := f
  obtain rfl : fnx = 0 := hx.2
  refine (decodeShape_29 _ (packV_op _ _ _)).trans ?_
  rw [decodeMajor29, packV_fn]
  exact congrArg (fun x => Decoded.instr (.vneg x)) (vOf_packV _ _ _)

/-- `vsgnj`. -/
theorem Shape.vsgnj (f : FmtV) : Shape.Statement (.vsgnj f) := by
  intro hw w h
  obtain rfl : packV 0x29 0x4 f = w := Option.some.inj h
  have hx : ((f.fnx == 0)) = true := hw
  simp only [beq_iff_eq] at hx
  obtain ⟨vd, va, vb, sa, sb, guard, gneg, cv, fnx⟩ := f
  obtain rfl : fnx = 0 := hx
  refine (decodeShape_29 _ (packV_op _ _ _)).trans ?_
  rw [decodeMajor29, packV_fn]
  exact congrArg (fun x => Decoded.instr (.vsgnj x)) (vOf_packV _ _ _)

/-- `vexp2`. -/
theorem Shape.vexp2 (f : FmtV) : Shape.Statement (.vexp2 f) := by
  intro hw w h
  obtain rfl : packV 0x29 0x5 f = w := Option.some.inj h
  have hx : ((f.vb == 0) && !f.sb && (f.fnx == 0)) = true := hw
  simp only [Bool.and_eq_true, beq_iff_eq] at hx
  obtain ⟨vd, va, vb, sa, sb, guard, gneg, cv, fnx⟩ := f
  obtain rfl : fnx = 0 := hx.2
  refine (decodeShape_29 _ (packV_op _ _ _)).trans ?_
  rw [decodeMajor29, packV_fn]
  exact congrArg (fun x => Decoded.instr (.vexp2 x)) (vOf_packV _ _ _)

/-- `vlog2`. -/
theorem Shape.vlog2 (f : FmtV) : Shape.Statement (.vlog2 f) := by
  intro hw w h
  obtain rfl : packV 0x29 0x6 f = w := Option.some.inj h
  have hx : ((f.vb == 0) && !f.sb && (f.fnx == 0)) = true := hw
  simp only [Bool.and_eq_true, beq_iff_eq] at hx
  obtain ⟨vd, va, vb, sa, sb, guard, gneg, cv, fnx⟩ := f
  obtain rfl : fnx = 0 := hx.2
  refine (decodeShape_29 _ (packV_op _ _ _)).trans ?_
  rw [decodeMajor29, packV_fn]
  exact congrArg (fun x => Decoded.instr (.vlog2 x)) (vOf_packV _ _ _)

/-- `vrint`. -/
theorem Shape.vrint (f : FmtV) : Shape.Statement (.vrint f) := by
  intro hw w h
  obtain rfl : packV 0x29 0x7 f = w := Option.some.inj h
  have hx : ((f.vb == 0) && !f.sb && (f.fnx == 0)) = true := hw
  simp only [Bool.and_eq_true, beq_iff_eq] at hx
  obtain ⟨vd, va, vb, sa, sb, guard, gneg, cv, fnx⟩ := f
  obtain rfl : fnx = 0 := hx.2
  refine (decodeShape_29 _ (packV_op _ _ _)).trans ?_
  rw [decodeMajor29, packV_fn]
  exact congrArg (fun x => Decoded.instr (.vrint x)) (vOf_packV _ _ _)

/-- `vscale`. -/
theorem Shape.vscale (f : FmtV) : Shape.Statement (.vscale f) := by
  intro hw w h
  obtain rfl : packV 0x29 0x8 f = w := Option.some.inj h
  have hx : ((f.fnx == 0)) = true := hw
  simp only [beq_iff_eq] at hx
  obtain ⟨vd, va, vb, sa, sb, guard, gneg, cv, fnx⟩ := f
  obtain rfl : fnx = 0 := hx
  refine (decodeShape_29 _ (packV_op _ _ _)).trans ?_
  rw [decodeMajor29, packV_fn]
  exact congrArg (fun x => Decoded.instr (.vscale x)) (vOf_packV _ _ _)

/-- `vcmpEq`. -/
theorem Shape.vcmpEq (f : FmtVC) : Shape.Statement (.vcmpEq f) := by
  intro hw w h
  obtain rfl : packVC 0x2a 0x0 f = w := Option.some.inj h
  refine (decodeShape_2A _ (packVC_op _ _ f)).trans ?_
  rw [decodeMajor2A, packVC_cond]
  exact congrArg (fun x => Decoded.instr (.vcmpEq x)) (vcOf_packVC _ _ f)

/-- `vcmpNe`. -/
theorem Shape.vcmpNe (f : FmtVC) : Shape.Statement (.vcmpNe f) := by
  intro hw w h
  obtain rfl : packVC 0x2a 0x1 f = w := Option.some.inj h
  refine (decodeShape_2A _ (packVC_op _ _ f)).trans ?_
  rw [decodeMajor2A, packVC_cond]
  exact congrArg (fun x => Decoded.instr (.vcmpNe x)) (vcOf_packVC _ _ f)

/-- `vcmpLt`. -/
theorem Shape.vcmpLt (f : FmtVC) : Shape.Statement (.vcmpLt f) := by
  intro hw w h
  obtain rfl : packVC 0x2a 0x2 f = w := Option.some.inj h
  refine (decodeShape_2A _ (packVC_op _ _ f)).trans ?_
  rw [decodeMajor2A, packVC_cond]
  exact congrArg (fun x => Decoded.instr (.vcmpLt x)) (vcOf_packVC _ _ f)

/-- `vcmpGe`. -/
theorem Shape.vcmpGe (f : FmtVC) : Shape.Statement (.vcmpGe f) := by
  intro hw w h
  obtain rfl : packVC 0x2a 0x3 f = w := Option.some.inj h
  refine (decodeShape_2A _ (packVC_op _ _ f)).trans ?_
  rw [decodeMajor2A, packVC_cond]
  exact congrArg (fun x => Decoded.instr (.vcmpGe x)) (vcOf_packVC _ _ f)

/-- `vcmpLe`. -/
theorem Shape.vcmpLe (f : FmtVC) : Shape.Statement (.vcmpLe f) := by
  intro hw w h
  obtain rfl : packVC 0x2a 0x4 f = w := Option.some.inj h
  refine (decodeShape_2A _ (packVC_op _ _ f)).trans ?_
  rw [decodeMajor2A, packVC_cond]
  exact congrArg (fun x => Decoded.instr (.vcmpLe x)) (vcOf_packVC _ _ f)

/-- `vcmpGt`. -/
theorem Shape.vcmpGt (f : FmtVC) : Shape.Statement (.vcmpGt f) := by
  intro hw w h
  obtain rfl : packVC 0x2a 0x5 f = w := Option.some.inj h
  refine (decodeShape_2A _ (packVC_op _ _ f)).trans ?_
  rw [decodeMajor2A, packVC_cond]
  exact congrArg (fun x => Decoded.instr (.vcmpGt x)) (vcOf_packVC _ _ f)

/-- `vcmpUn`. -/
theorem Shape.vcmpUn (f : FmtVC) : Shape.Statement (.vcmpUn f) := by
  intro hw w h
  obtain rfl : packVC 0x2a 0x6 f = w := Option.some.inj h
  refine (decodeShape_2A _ (packVC_op _ _ f)).trans ?_
  rw [decodeMajor2A, packVC_cond]
  exact congrArg (fun x => Decoded.instr (.vcmpUn x)) (vcOf_packVC _ _ f)

/-- `vcmpOrd`. -/
theorem Shape.vcmpOrd (f : FmtVC) : Shape.Statement (.vcmpOrd f) := by
  intro hw w h
  obtain rfl : packVC 0x2a 0x7 f = w := Option.some.inj h
  refine (decodeShape_2A _ (packVC_op _ _ f)).trans ?_
  rw [decodeMajor2A, packVC_cond]
  exact congrArg (fun x => Decoded.instr (.vcmpOrd x)) (vcOf_packVC _ _ f)

/-- `pand`. -/
theorem Shape.pand (f : FmtVP) : Shape.Statement (.pand f) := by
  intro hw w h
  obtain rfl : packVP 0x2b 0x0 f = w := Option.some.inj h
  refine (decodeShape_2B _ (packVP_op _ _ f)).trans ?_
  rw [decodeMajor2B, packVP_fn]
  exact congrArg (fun x => Decoded.instr (.pand x)) (vpOf_packVP _ _ f)

/-- `por`. -/
theorem Shape.por (f : FmtVP) : Shape.Statement (.por f) := by
  intro hw w h
  obtain rfl : packVP 0x2b 0x1 f = w := Option.some.inj h
  refine (decodeShape_2B _ (packVP_op _ _ f)).trans ?_
  rw [decodeMajor2B, packVP_fn]
  exact congrArg (fun x => Decoded.instr (.por x)) (vpOf_packVP _ _ f)

/-- `pxor`. -/
theorem Shape.pxor (f : FmtVP) : Shape.Statement (.pxor f) := by
  intro hw w h
  obtain rfl : packVP 0x2b 0x2 f = w := Option.some.inj h
  refine (decodeShape_2B _ (packVP_op _ _ f)).trans ?_
  rw [decodeMajor2B, packVP_fn]
  exact congrArg (fun x => Decoded.instr (.pxor x)) (vpOf_packVP _ _ f)

/-- `pandn`. -/
theorem Shape.pandn (f : FmtVP) : Shape.Statement (.pandn f) := by
  intro hw w h
  obtain rfl : packVP 0x2b 0x3 f = w := Option.some.inj h
  refine (decodeShape_2B _ (packVP_op _ _ f)).trans ?_
  rw [decodeMajor2B, packVP_fn]
  exact congrArg (fun x => Decoded.instr (.pandn x)) (vpOf_packVP _ _ f)

/-- `pnot`. -/
theorem Shape.pnot (f : FmtVP) : Shape.Statement (.pnot f) := by
  intro hw w h
  obtain rfl : packVP 0x2b 0x4 f = w := Option.some.inj h
  refine (decodeShape_2B _ (packVP_op _ _ f)).trans ?_
  rw [decodeMajor2B, packVP_fn]
  exact congrArg (fun x => Decoded.instr (.pnot x)) (vpOf_packVP _ _ f)

/-- `pset`. -/
theorem Shape.pset (f : FmtVP) : Shape.Statement (.pset f) := by
  intro hw w h
  obtain rfl : packVP 0x2b 0x5 f = w := Option.some.inj h
  refine (decodeShape_2B _ (packVP_op _ _ f)).trans ?_
  rw [decodeMajor2B, packVP_fn]
  exact congrArg (fun x => Decoded.instr (.pset x)) (vpOf_packVP _ _ f)

/-- `pfirst`. -/
theorem Shape.pfirst (f : FmtVP) : Shape.Statement (.pfirst f) := by
  intro hw w h
  obtain rfl : packVP 0x2b 0x6 f = w := Option.some.inj h
  refine (decodeShape_2B _ (packVP_op _ _ f)).trans ?_
  rw [decodeMajor2B, packVP_fn]
  exact congrArg (fun x => Decoded.instr (.pfirst x)) (vpOf_packVP _ _ f)

/-- `pbrkb`. -/
theorem Shape.pbrkb (f : FmtVP) : Shape.Statement (.pbrkb f) := by
  intro hw w h
  obtain rfl : packVP 0x2b 0x7 f = w := Option.some.inj h
  refine (decodeShape_2B _ (packVP_op _ _ f)).trans ?_
  rw [decodeMajor2B, packVP_fn]
  exact congrArg (fun x => Decoded.instr (.pbrkb x)) (vpOf_packVP _ _ f)

/-- `pbrka`. -/
theorem Shape.pbrka (f : FmtVP) : Shape.Statement (.pbrka f) := by
  intro hw w h
  obtain rfl : packVP 0x2b 0x8 f = w := Option.some.inj h
  refine (decodeShape_2B _ (packVP_op _ _ f)).trans ?_
  rw [decodeMajor2B, packVP_fn]
  exact congrArg (fun x => Decoded.instr (.pbrka x)) (vpOf_packVP _ _ f)

/-- `vmov`. -/
theorem Shape.vmov (f : FmtV) : Shape.Statement (.vmov f) := by
  intro hw w h
  obtain rfl : packV 0x2c 0x0 f = w := Option.some.inj h
  have hx : ((f.vb == 0) && !f.sb && (f.fnx == 0)) = true := hw
  simp only [Bool.and_eq_true, beq_iff_eq] at hx
  obtain ⟨vd, va, vb, sa, sb, guard, gneg, cv, fnx⟩ := f
  obtain rfl : fnx = 0 := hx.2
  refine (decodeShape_2C _ (packV_op _ _ _)).trans ?_
  rw [decodeMajor2C, packV_fn]
  exact congrArg (fun x => Decoded.instr (.vmov x)) (vOf_packV _ _ _)

/-- `vslideup`. -/
theorem Shape.vslideup (f : FmtV) : Shape.Statement (.vslideup f) := by
  intro hw w h
  obtain rfl : packV 0x2c 0x1 f = w := Option.some.inj h
  have hx : ((f.fnx == 0)) = true := hw
  simp only [beq_iff_eq] at hx
  obtain ⟨vd, va, vb, sa, sb, guard, gneg, cv, fnx⟩ := f
  obtain rfl : fnx = 0 := hx
  refine (decodeShape_2C _ (packV_op _ _ _)).trans ?_
  rw [decodeMajor2C, packV_fn]
  exact congrArg (fun x => Decoded.instr (.vslideup x)) (vOf_packV _ _ _)

/-- `vslidedn`. -/
theorem Shape.vslidedn (f : FmtV) : Shape.Statement (.vslidedn f) := by
  intro hw w h
  obtain rfl : packV 0x2c 0x2 f = w := Option.some.inj h
  have hx : ((f.fnx == 0)) = true := hw
  simp only [beq_iff_eq] at hx
  obtain ⟨vd, va, vb, sa, sb, guard, gneg, cv, fnx⟩ := f
  obtain rfl : fnx = 0 := hx
  refine (decodeShape_2C _ (packV_op _ _ _)).trans ?_
  rw [decodeMajor2C, packV_fn]
  exact congrArg (fun x => Decoded.instr (.vslidedn x)) (vOf_packV _ _ _)

/-- `vperm`. -/
theorem Shape.vperm (f : FmtV) : Shape.Statement (.vperm f) := by
  intro hw w h
  obtain rfl : packV 0x2c 0x3 f = w := Option.some.inj h
  have hx : ((f.fnx == 0)) = true := hw
  simp only [beq_iff_eq] at hx
  obtain ⟨vd, va, vb, sa, sb, guard, gneg, cv, fnx⟩ := f
  obtain rfl : fnx = 0 := hx
  refine (decodeShape_2C _ (packV_op _ _ _)).trans ?_
  rw [decodeMajor2C, packV_fn]
  exact congrArg (fun x => Decoded.instr (.vperm x)) (vOf_packV _ _ _)

/-- `vcompress`. -/
theorem Shape.vcompress (f : FmtV) : Shape.Statement (.vcompress f) := by
  intro hw w h
  obtain rfl : packV 0x2c 0x4 f = w := Option.some.inj h
  have hx : ((f.vb == 0) && !f.sb && (f.fnx == 0)) = true := hw
  simp only [Bool.and_eq_true, beq_iff_eq] at hx
  obtain ⟨vd, va, vb, sa, sb, guard, gneg, cv, fnx⟩ := f
  obtain rfl : fnx = 0 := hx.2
  refine (decodeShape_2C _ (packV_op _ _ _)).trans ?_
  rw [decodeMajor2C, packV_fn]
  exact congrArg (fun x => Decoded.instr (.vcompress x)) (vOf_packV _ _ _)

/-- `vexpand`. -/
theorem Shape.vexpand (f : FmtV) : Shape.Statement (.vexpand f) := by
  intro hw w h
  obtain rfl : packV 0x2c 0x5 f = w := Option.some.inj h
  have hx : ((f.vb == 0) && !f.sb && (f.fnx == 0)) = true := hw
  simp only [Bool.and_eq_true, beq_iff_eq] at hx
  obtain ⟨vd, va, vb, sa, sb, guard, gneg, cv, fnx⟩ := f
  obtain rfl : fnx = 0 := hx.2
  refine (decodeShape_2C _ (packV_op _ _ _)).trans ?_
  rw [decodeMajor2C, packV_fn]
  exact congrArg (fun x => Decoded.instr (.vexpand x)) (vOf_packV _ _ _)

/-- `vbcast`. -/
theorem Shape.vbcast (f : FmtV) : Shape.Statement (.vbcast f) := by
  intro hw w h
  obtain rfl : packV 0x2c 0x6 f = w := Option.some.inj h
  have hx : ((f.va == 0) && !f.sa && (f.fnx == 0)) = true := hw
  simp only [Bool.and_eq_true, beq_iff_eq] at hx
  obtain ⟨vd, va, vb, sa, sb, guard, gneg, cv, fnx⟩ := f
  obtain rfl : fnx = 0 := hx.2
  refine (decodeShape_2C _ (packV_op _ _ _)).trans ?_
  rw [decodeMajor2C, packV_fn]
  exact congrArg (fun x => Decoded.instr (.vbcast x)) (vOf_packV _ _ _)

/-- `vrev`. -/
theorem Shape.vrev (f : FmtV) : Shape.Statement (.vrev f) := by
  intro hw w h
  obtain rfl : packV 0x2c 0x7 f = w := Option.some.inj h
  have hx : ((f.vb == 0) && !f.sb && (f.fnx == 0)) = true := hw
  simp only [Bool.and_eq_true, beq_iff_eq] at hx
  obtain ⟨vd, va, vb, sa, sb, guard, gneg, cv, fnx⟩ := f
  obtain rfl : fnx = 0 := hx.2
  refine (decodeShape_2C _ (packV_op _ _ _)).trans ?_
  rw [decodeMajor2C, packV_fn]
  exact congrArg (fun x => Decoded.instr (.vrev x)) (vOf_packV _ _ _)

/-- `vext`. -/
theorem Shape.vext (f : FmtV) : Shape.Statement (.vext f) := by
  intro hw w h
  obtain rfl : packV 0x2c 0x8 f = w := Option.some.inj h
  have hx : ((f.guard == 0) && !f.gneg && (f.fnx == 0)) = true := hw
  simp only [Bool.and_eq_true, beq_iff_eq] at hx
  obtain ⟨vd, va, vb, sa, sb, guard, gneg, cv, fnx⟩ := f
  obtain rfl : fnx = 0 := hx.2
  refine (decodeShape_2C _ (packV_op _ _ _)).trans ?_
  rw [decodeMajor2C, packV_fn]
  exact congrArg (fun x => Decoded.instr (.vext x)) (vOf_packV _ _ _)

/-- `vins`. -/
theorem Shape.vins (f : FmtV) : Shape.Statement (.vins f) := by
  intro hw w h
  obtain rfl : packV 0x2c 0x9 f = w := Option.some.inj h
  have hx : ((f.guard == 0) && !f.gneg && (f.fnx == 0)) = true := hw
  simp only [Bool.and_eq_true, beq_iff_eq] at hx
  obtain ⟨vd, va, vb, sa, sb, guard, gneg, cv, fnx⟩ := f
  obtain rfl : fnx = 0 := hx.2
  refine (decodeShape_2C _ (packV_op _ _ _)).trans ?_
  rw [decodeMajor2C, packV_fn]
  exact congrArg (fun x => Decoded.instr (.vins x)) (vOf_packV _ _ _)

/-- `vredOsum`. -/
theorem Shape.vredOsum (f : FmtV) : Shape.Statement (.vredOsum f) := by
  intro hw w h
  obtain rfl : packV 0x2d 0x0 f = w := Option.some.inj h
  have hx : ((f.fnx == 0)) = true := hw
  simp only [beq_iff_eq] at hx
  obtain ⟨vd, va, vb, sa, sb, guard, gneg, cv, fnx⟩ := f
  obtain rfl : fnx = 0 := hx
  refine (decodeShape_2D _ (packV_op _ _ _)).trans ?_
  rw [decodeMajor2D, packV_fn]
  exact congrArg (fun x => Decoded.instr (.vredOsum x)) (vOf_packV _ _ _)

/-- `vredSum`. -/
theorem Shape.vredSum (f : FmtV) : Shape.Statement (.vredSum f) := by
  intro hw w h
  obtain rfl : packV 0x2d 0x1 f = w := Option.some.inj h
  have hx : ((f.fnx == 0)) = true := hw
  simp only [beq_iff_eq] at hx
  obtain ⟨vd, va, vb, sa, sb, guard, gneg, cv, fnx⟩ := f
  obtain rfl : fnx = 0 := hx
  refine (decodeShape_2D _ (packV_op _ _ _)).trans ?_
  rw [decodeMajor2D, packV_fn]
  exact congrArg (fun x => Decoded.instr (.vredSum x)) (vOf_packV _ _ _)

/-- `vredMax`. -/
theorem Shape.vredMax (f : FmtV) : Shape.Statement (.vredMax f) := by
  intro hw w h
  obtain rfl : packV 0x2d 0x2 f = w := Option.some.inj h
  have hx : ((f.fnx == 0)) = true := hw
  simp only [beq_iff_eq] at hx
  obtain ⟨vd, va, vb, sa, sb, guard, gneg, cv, fnx⟩ := f
  obtain rfl : fnx = 0 := hx
  refine (decodeShape_2D _ (packV_op _ _ _)).trans ?_
  rw [decodeMajor2D, packV_fn]
  exact congrArg (fun x => Decoded.instr (.vredMax x)) (vOf_packV _ _ _)

/-- `vredMin`. -/
theorem Shape.vredMin (f : FmtV) : Shape.Statement (.vredMin f) := by
  intro hw w h
  obtain rfl : packV 0x2d 0x3 f = w := Option.some.inj h
  have hx : ((f.fnx == 0)) = true := hw
  simp only [beq_iff_eq] at hx
  obtain ⟨vd, va, vb, sa, sb, guard, gneg, cv, fnx⟩ := f
  obtain rfl : fnx = 0 := hx
  refine (decodeShape_2D _ (packV_op _ _ _)).trans ?_
  rw [decodeMajor2D, packV_fn]
  exact congrArg (fun x => Decoded.instr (.vredMin x)) (vOf_packV _ _ _)

/-- `vredAnd`. -/
theorem Shape.vredAnd (f : FmtV) : Shape.Statement (.vredAnd f) := by
  intro hw w h
  obtain rfl : packV 0x2d 0x4 f = w := Option.some.inj h
  have hx : ((f.fnx == 0)) = true := hw
  simp only [beq_iff_eq] at hx
  obtain ⟨vd, va, vb, sa, sb, guard, gneg, cv, fnx⟩ := f
  obtain rfl : fnx = 0 := hx
  refine (decodeShape_2D _ (packV_op _ _ _)).trans ?_
  rw [decodeMajor2D, packV_fn]
  exact congrArg (fun x => Decoded.instr (.vredAnd x)) (vOf_packV _ _ _)

/-- `vredOr`. -/
theorem Shape.vredOr (f : FmtV) : Shape.Statement (.vredOr f) := by
  intro hw w h
  obtain rfl : packV 0x2d 0x5 f = w := Option.some.inj h
  have hx : ((f.fnx == 0)) = true := hw
  simp only [beq_iff_eq] at hx
  obtain ⟨vd, va, vb, sa, sb, guard, gneg, cv, fnx⟩ := f
  obtain rfl : fnx = 0 := hx
  refine (decodeShape_2D _ (packV_op _ _ _)).trans ?_
  rw [decodeMajor2D, packV_fn]
  exact congrArg (fun x => Decoded.instr (.vredOr x)) (vOf_packV _ _ _)

/-- `vredXor`. -/
theorem Shape.vredXor (f : FmtV) : Shape.Statement (.vredXor f) := by
  intro hw w h
  obtain rfl : packV 0x2d 0x6 f = w := Option.some.inj h
  have hx : ((f.fnx == 0)) = true := hw
  simp only [beq_iff_eq] at hx
  obtain ⟨vd, va, vb, sa, sb, guard, gneg, cv, fnx⟩ := f
  obtain rfl : fnx = 0 := hx
  refine (decodeShape_2D _ (packV_op _ _ _)).trans ?_
  rw [decodeMajor2D, packV_fn]
  exact congrArg (fun x => Decoded.instr (.vredXor x)) (vOf_packV _ _ _)

/-- `vscanSum`. -/
theorem Shape.vscanSum (f : FmtV) : Shape.Statement (.vscanSum f) := by
  intro hw w h
  obtain rfl : packV 0x2d 0x7 f = w := Option.some.inj h
  have hx : ((f.fnx == 0)) = true := hw
  simp only [beq_iff_eq] at hx
  obtain ⟨vd, va, vb, sa, sb, guard, gneg, cv, fnx⟩ := f
  obtain rfl : fnx = 0 := hx
  refine (decodeShape_2D _ (packV_op _ _ _)).trans ?_
  rw [decodeMajor2D, packV_fn]
  exact congrArg (fun x => Decoded.instr (.vscanSum x)) (vOf_packV _ _ _)

/-- `vscanMax`. -/
theorem Shape.vscanMax (f : FmtV) : Shape.Statement (.vscanMax f) := by
  intro hw w h
  obtain rfl : packV 0x2d 0x8 f = w := Option.some.inj h
  have hx : ((f.fnx == 0)) = true := hw
  simp only [beq_iff_eq] at hx
  obtain ⟨vd, va, vb, sa, sb, guard, gneg, cv, fnx⟩ := f
  obtain rfl : fnx = 0 := hx
  refine (decodeShape_2D _ (packV_op _ _ _)).trans ?_
  rw [decodeMajor2D, packV_fn]
  exact congrArg (fun x => Decoded.instr (.vscanMax x)) (vOf_packV _ _ _)

/-- `vscanMin`. -/
theorem Shape.vscanMin (f : FmtV) : Shape.Statement (.vscanMin f) := by
  intro hw w h
  obtain rfl : packV 0x2d 0x9 f = w := Option.some.inj h
  have hx : ((f.fnx == 0)) = true := hw
  simp only [beq_iff_eq] at hx
  obtain ⟨vd, va, vb, sa, sb, guard, gneg, cv, fnx⟩ := f
  obtain rfl : fnx = 0 := hx
  refine (decodeShape_2D _ (packV_op _ _ _)).trans ?_
  rw [decodeMajor2D, packV_fn]
  exact congrArg (fun x => Decoded.instr (.vscanMin x)) (vOf_packV _ _ _)

/-- `vredGsum`. -/
theorem Shape.vredGsum (f : FmtV) : Shape.Statement (.vredGsum f) := by
  intro hw w h
  obtain rfl : packV 0x2d 0xa f = w := Option.some.inj h
  have hx : ((f.fnx == 0)) = true := hw
  simp only [beq_iff_eq] at hx
  obtain ⟨vd, va, vb, sa, sb, guard, gneg, cv, fnx⟩ := f
  obtain rfl : fnx = 0 := hx
  refine (decodeShape_2D _ (packV_op _ _ _)).trans ?_
  rw [decodeMajor2D, packV_fn]
  exact congrArg (fun x => Decoded.instr (.vredGsum x)) (vOf_packV _ _ _)

/-- `vcvt`. -/
theorem Shape.vcvt (f : FmtV) : Shape.Statement (.vcvt f) := by
  intro hw w h
  obtain rfl : packV 0x2e 0x0 f = w := Option.some.inj h
  have hx : (!f.sb && (f.fnx == 0) && (convCode f.vb)) = true := hw
  simp only [Bool.and_eq_true, beq_iff_eq] at hx
  obtain ⟨vd, va, vb, sa, sb, guard, gneg, cv, fnx⟩ := f
  obtain rfl : fnx = 0 := hx.1.2
  refine (decodeShape_2E _ (packV_op _ _ _)).trans ?_
  rw [decodeMajor2E, packV_fn]
  exact congrArg (fun x => Decoded.instr (.vcvt x)) (vOf_packV _ _ _)

/-- `vcvtRtz`. -/
theorem Shape.vcvtRtz (f : FmtV) : Shape.Statement (.vcvtRtz f) := by
  intro hw w h
  obtain rfl : packV 0x2e 0x1 f = w := Option.some.inj h
  have hx : (!f.sb && (f.fnx == 0) && (convCode f.vb)) = true := hw
  simp only [Bool.and_eq_true, beq_iff_eq] at hx
  obtain ⟨vd, va, vb, sa, sb, guard, gneg, cv, fnx⟩ := f
  obtain rfl : fnx = 0 := hx.1.2
  refine (decodeShape_2E _ (packV_op _ _ _)).trans ?_
  rw [decodeMajor2E, packV_fn]
  exact congrArg (fun x => Decoded.instr (.vcvtRtz x)) (vOf_packV _ _ _)

/-- `vcvtSat`. -/
theorem Shape.vcvtSat (f : FmtV) : Shape.Statement (.vcvtSat f) := by
  intro hw w h
  obtain rfl : packV 0x2e 0x2 f = w := Option.some.inj h
  have hx : (!f.sb && (f.fnx == 0) && (convCode f.vb)) = true := hw
  simp only [Bool.and_eq_true, beq_iff_eq] at hx
  obtain ⟨vd, va, vb, sa, sb, guard, gneg, cv, fnx⟩ := f
  obtain rfl : fnx = 0 := hx.1.2
  refine (decodeShape_2E _ (packV_op _ _ _)).trans ?_
  rw [decodeMajor2E, packV_fn]
  exact congrArg (fun x => Decoded.instr (.vcvtSat x)) (vOf_packV _ _ _)

/-- `vcvtf`. -/
theorem Shape.vcvtf (f : FmtV) : Shape.Statement (.vcvtf f) := by
  intro hw w h
  obtain rfl : packV 0x2e 0x3 f = w := Option.some.inj h
  have hx : (!f.sb && (f.fnx == 0) && (convCode f.vb)) = true := hw
  simp only [Bool.and_eq_true, beq_iff_eq] at hx
  obtain ⟨vd, va, vb, sa, sb, guard, gneg, cv, fnx⟩ := f
  obtain rfl : fnx = 0 := hx.1.2
  refine (decodeShape_2E _ (packV_op _ _ _)).trans ?_
  rw [decodeMajor2E, packV_fn]
  exact congrArg (fun x => Decoded.instr (.vcvtf x)) (vOf_packV _ _ _)

/-- `vpopc`. -/
theorem Shape.vpopc (f : FmtV) : Shape.Statement (.vpopc f) := by
  intro hw w h
  obtain rfl : packV 0x2e 0x4 f = w := Option.some.inj h
  have hx : ((f.va.toNat < 8) && (f.vb == 0) && !f.sb && (f.fnx == 0)) = true := hw
  simp only [Bool.and_eq_true, beq_iff_eq] at hx
  obtain ⟨vd, va, vb, sa, sb, guard, gneg, cv, fnx⟩ := f
  obtain rfl : fnx = 0 := hx.2
  refine (decodeShape_2E _ (packV_op _ _ _)).trans ?_
  rw [decodeMajor2E, packV_fn]
  exact congrArg (fun x => Decoded.instr (.vpopc x)) (vOf_packV _ _ _)

/-- `vfirst`. -/
theorem Shape.vfirst (f : FmtV) : Shape.Statement (.vfirst f) := by
  intro hw w h
  obtain rfl : packV 0x2e 0x5 f = w := Option.some.inj h
  have hx : ((f.va.toNat < 8) && (f.vb == 0) && !f.sb && (f.fnx == 0)) = true := hw
  simp only [Bool.and_eq_true, beq_iff_eq] at hx
  obtain ⟨vd, va, vb, sa, sb, guard, gneg, cv, fnx⟩ := f
  obtain rfl : fnx = 0 := hx.2
  refine (decodeShape_2E _ (packV_op _ _ _)).trans ?_
  rw [decodeMajor2E, packV_fn]
  exact congrArg (fun x => Decoded.instr (.vfirst x)) (vOf_packV _ _ _)

/-- `vfromp`. -/
theorem Shape.vfromp (f : FmtV) : Shape.Statement (.vfromp f) := by
  intro hw w h
  obtain rfl : packV 0x2e 0x6 f = w := Option.some.inj h
  have hx : ((f.va.toNat < 8) && (f.vb == 0) && !f.sb && (f.fnx == 0)) = true := hw
  simp only [Bool.and_eq_true, beq_iff_eq] at hx
  obtain ⟨vd, va, vb, sa, sb, guard, gneg, cv, fnx⟩ := f
  obtain rfl : fnx = 0 := hx.2
  refine (decodeShape_2E _ (packV_op _ _ _)).trans ?_
  rw [decodeMajor2E, packV_fn]
  exact congrArg (fun x => Decoded.instr (.vfromp x)) (vOf_packV _ _ _)

/-- `vtop`. -/
theorem Shape.vtop (f : FmtV) : Shape.Statement (.vtop f) := by
  intro hw w h
  obtain rfl : packV 0x2e 0x7 f = w := Option.some.inj h
  have hx : ((f.vd.toNat < 8) && (f.vb == 0) && !f.sb && (f.fnx == 0)) = true := hw
  simp only [Bool.and_eq_true, beq_iff_eq] at hx
  obtain ⟨vd, va, vb, sa, sb, guard, gneg, cv, fnx⟩ := f
  obtain rfl : fnx = 0 := hx.2
  refine (decodeShape_2E _ (packV_op _ _ _)).trans ?_
  rw [decodeMajor2E, packV_fn]
  exact congrArg (fun x => Decoded.instr (.vtop x)) (vOf_packV _ _ _)

/-- `vaddVs`. -/
theorem Shape.vaddVs (f : FmtV) : Shape.Statement (.vaddVs f) := by
  intro hw w h
  obtain rfl : packV 0x2f 0x0 f = w := Option.some.inj h
  have hx : ((f.fnx == 0)) = true := hw
  simp only [beq_iff_eq] at hx
  obtain ⟨vd, va, vb, sa, sb, guard, gneg, cv, fnx⟩ := f
  obtain rfl : fnx = 0 := hx
  refine (decodeShape_2F _ (packV_op _ _ _)).trans ?_
  rw [decodeMajor2F, packV_fn]
  exact congrArg (fun x => Decoded.instr (.vaddVs x)) (vOf_packV _ _ _)

/-- `vsubVs`. -/
theorem Shape.vsubVs (f : FmtV) : Shape.Statement (.vsubVs f) := by
  intro hw w h
  obtain rfl : packV 0x2f 0x1 f = w := Option.some.inj h
  have hx : ((f.fnx == 0)) = true := hw
  simp only [beq_iff_eq] at hx
  obtain ⟨vd, va, vb, sa, sb, guard, gneg, cv, fnx⟩ := f
  obtain rfl : fnx = 0 := hx
  refine (decodeShape_2F _ (packV_op _ _ _)).trans ?_
  rw [decodeMajor2F, packV_fn]
  exact congrArg (fun x => Decoded.instr (.vsubVs x)) (vOf_packV _ _ _)

/-- `vmulVs`. -/
theorem Shape.vmulVs (f : FmtV) : Shape.Statement (.vmulVs f) := by
  intro hw w h
  obtain rfl : packV 0x2f 0x2 f = w := Option.some.inj h
  have hx : ((f.fnx == 0)) = true := hw
  simp only [beq_iff_eq] at hx
  obtain ⟨vd, va, vb, sa, sb, guard, gneg, cv, fnx⟩ := f
  obtain rfl : fnx = 0 := hx
  refine (decodeShape_2F _ (packV_op _ _ _)).trans ?_
  rw [decodeMajor2F, packV_fn]
  exact congrArg (fun x => Decoded.instr (.vmulVs x)) (vOf_packV _ _ _)

/-- `vmacVs`. -/
theorem Shape.vmacVs (f : FmtV) : Shape.Statement (.vmacVs f) := by
  intro hw w h
  obtain rfl : packV 0x2f 0x3 f = w := Option.some.inj h
  have hx : ((f.fnx == 0)) = true := hw
  simp only [beq_iff_eq] at hx
  obtain ⟨vd, va, vb, sa, sb, guard, gneg, cv, fnx⟩ := f
  obtain rfl : fnx = 0 := hx
  refine (decodeShape_2F _ (packV_op _ _ _)).trans ?_
  rw [decodeMajor2F, packV_fn]
  exact congrArg (fun x => Decoded.instr (.vmacVs x)) (vOf_packV _ _ _)

/-- `vminVs`. -/
theorem Shape.vminVs (f : FmtV) : Shape.Statement (.vminVs f) := by
  intro hw w h
  obtain rfl : packV 0x2f 0x4 f = w := Option.some.inj h
  have hx : ((f.fnx == 0)) = true := hw
  simp only [beq_iff_eq] at hx
  obtain ⟨vd, va, vb, sa, sb, guard, gneg, cv, fnx⟩ := f
  obtain rfl : fnx = 0 := hx
  refine (decodeShape_2F _ (packV_op _ _ _)).trans ?_
  rw [decodeMajor2F, packV_fn]
  exact congrArg (fun x => Decoded.instr (.vminVs x)) (vOf_packV _ _ _)

/-- `vmaxVs`. -/
theorem Shape.vmaxVs (f : FmtV) : Shape.Statement (.vmaxVs f) := by
  intro hw w h
  obtain rfl : packV 0x2f 0x5 f = w := Option.some.inj h
  have hx : ((f.fnx == 0)) = true := hw
  simp only [beq_iff_eq] at hx
  obtain ⟨vd, va, vb, sa, sb, guard, gneg, cv, fnx⟩ := f
  obtain rfl : fnx = 0 := hx
  refine (decodeShape_2F _ (packV_op _ _ _)).trans ?_
  rw [decodeMajor2F, packV_fn]
  exact congrArg (fun x => Decoded.instr (.vmaxVs x)) (vOf_packV _ _ _)

/-- `vdivVs`. -/
theorem Shape.vdivVs (f : FmtV) : Shape.Statement (.vdivVs f) := by
  intro hw w h
  obtain rfl : packV 0x2f 0x6 f = w := Option.some.inj h
  have hx : ((f.fnx == 0)) = true := hw
  simp only [beq_iff_eq] at hx
  obtain ⟨vd, va, vb, sa, sb, guard, gneg, cv, fnx⟩ := f
  obtain rfl : fnx = 0 := hx
  refine (decodeShape_2F _ (packV_op _ _ _)).trans ?_
  rw [decodeMajor2F, packV_fn]
  exact congrArg (fun x => Decoded.instr (.vdivVs x)) (vOf_packV _ _ _)

/-- `vandVs`. -/
theorem Shape.vandVs (f : FmtV) : Shape.Statement (.vandVs f) := by
  intro hw w h
  obtain rfl : packV 0x2f 0x8 f = w := Option.some.inj h
  have hx : ((f.fnx == 0)) = true := hw
  simp only [beq_iff_eq] at hx
  obtain ⟨vd, va, vb, sa, sb, guard, gneg, cv, fnx⟩ := f
  obtain rfl : fnx = 0 := hx
  refine (decodeShape_2F _ (packV_op _ _ _)).trans ?_
  rw [decodeMajor2F, packV_fn]
  exact congrArg (fun x => Decoded.instr (.vandVs x)) (vOf_packV _ _ _)

/-- `vorVs`. -/
theorem Shape.vorVs (f : FmtV) : Shape.Statement (.vorVs f) := by
  intro hw w h
  obtain rfl : packV 0x2f 0x9 f = w := Option.some.inj h
  have hx : ((f.fnx == 0)) = true := hw
  simp only [beq_iff_eq] at hx
  obtain ⟨vd, va, vb, sa, sb, guard, gneg, cv, fnx⟩ := f
  obtain rfl : fnx = 0 := hx
  refine (decodeShape_2F _ (packV_op _ _ _)).trans ?_
  rw [decodeMajor2F, packV_fn]
  exact congrArg (fun x => Decoded.instr (.vorVs x)) (vOf_packV _ _ _)

/-- `vxorVs`. -/
theorem Shape.vxorVs (f : FmtV) : Shape.Statement (.vxorVs f) := by
  intro hw w h
  obtain rfl : packV 0x2f 0xa f = w := Option.some.inj h
  have hx : ((f.fnx == 0)) = true := hw
  simp only [beq_iff_eq] at hx
  obtain ⟨vd, va, vb, sa, sb, guard, gneg, cv, fnx⟩ := f
  obtain rfl : fnx = 0 := hx
  refine (decodeShape_2F _ (packV_op _ _ _)).trans ?_
  rw [decodeMajor2F, packV_fn]
  exact congrArg (fun x => Decoded.instr (.vxorVs x)) (vOf_packV _ _ _)

/-- `vsllVs`. -/
theorem Shape.vsllVs (f : FmtV) : Shape.Statement (.vsllVs f) := by
  intro hw w h
  obtain rfl : packV 0x2f 0xb f = w := Option.some.inj h
  have hx : ((f.fnx == 0)) = true := hw
  simp only [beq_iff_eq] at hx
  obtain ⟨vd, va, vb, sa, sb, guard, gneg, cv, fnx⟩ := f
  obtain rfl : fnx = 0 := hx
  refine (decodeShape_2F _ (packV_op _ _ _)).trans ?_
  rw [decodeMajor2F, packV_fn]
  exact congrArg (fun x => Decoded.instr (.vsllVs x)) (vOf_packV _ _ _)

/-- `vsrlVs`. -/
theorem Shape.vsrlVs (f : FmtV) : Shape.Statement (.vsrlVs f) := by
  intro hw w h
  obtain rfl : packV 0x2f 0xc f = w := Option.some.inj h
  have hx : ((f.fnx == 0)) = true := hw
  simp only [beq_iff_eq] at hx
  obtain ⟨vd, va, vb, sa, sb, guard, gneg, cv, fnx⟩ := f
  obtain rfl : fnx = 0 := hx
  refine (decodeShape_2F _ (packV_op _ _ _)).trans ?_
  rw [decodeMajor2F, packV_fn]
  exact congrArg (fun x => Decoded.instr (.vsrlVs x)) (vOf_packV _ _ _)

/-- `vsraVs`. -/
theorem Shape.vsraVs (f : FmtV) : Shape.Statement (.vsraVs f) := by
  intro hw w h
  obtain rfl : packV 0x2f 0xd f = w := Option.some.inj h
  have hx : ((f.fnx == 0)) = true := hw
  simp only [beq_iff_eq] at hx
  obtain ⟨vd, va, vb, sa, sb, guard, gneg, cv, fnx⟩ := f
  obtain rfl : fnx = 0 := hx
  refine (decodeShape_2F _ (packV_op _ _ _)).trans ?_
  rw [decodeMajor2F, packV_fn]
  exact congrArg (fun x => Decoded.instr (.vsraVs x)) (vOf_packV _ _ _)

/-- `vaddsVs`. -/
theorem Shape.vaddsVs (f : FmtV) : Shape.Statement (.vaddsVs f) := by
  intro hw w h
  obtain rfl : packV 0x2f 0xe f = w := Option.some.inj h
  have hx : ((f.fnx == 0)) = true := hw
  simp only [beq_iff_eq] at hx
  obtain ⟨vd, va, vb, sa, sb, guard, gneg, cv, fnx⟩ := f
  obtain rfl : fnx = 0 := hx
  refine (decodeShape_2F _ (packV_op _ _ _)).trans ?_
  rw [decodeMajor2F, packV_fn]
  exact congrArg (fun x => Decoded.instr (.vaddsVs x)) (vOf_packV _ _ _)

/-- `vsubsVs`. -/
theorem Shape.vsubsVs (f : FmtV) : Shape.Statement (.vsubsVs f) := by
  intro hw w h
  obtain rfl : packV 0x2f 0xf f = w := Option.some.inj h
  have hx : ((f.fnx == 0)) = true := hw
  simp only [beq_iff_eq] at hx
  obtain ⟨vd, va, vb, sa, sb, guard, gneg, cv, fnx⟩ := f
  obtain rfl : fnx = 0 := hx
  refine (decodeShape_2F _ (packV_op _ _ _)).trans ?_
  rw [decodeMajor2F, packV_fn]
  exact congrArg (fun x => Decoded.instr (.vsubsVs x)) (vOf_packV _ _ _)

/-- `vld`. -/
theorem Shape.vld (f : FmtV) : Shape.Statement (.vld f) := by
  intro hw w h
  obtain rfl : packV 0x30 0x0 f = w := Option.some.inj h
  have hx : ((f.vb == 0) && !f.sb && (f.fnx == 0)) = true := hw
  simp only [Bool.and_eq_true, beq_iff_eq] at hx
  obtain ⟨vd, va, vb, sa, sb, guard, gneg, cv, fnx⟩ := f
  obtain rfl : fnx = 0 := hx.2
  refine (decodeShape_30 _ (packV_op _ _ _)).trans ?_
  rw [decodeMajor30, packV_fn]
  exact congrArg (fun x => Decoded.instr (.vld x)) (vOf_packV _ _ _)

/-- `vlds`. -/
theorem Shape.vlds (f : FmtV) : Shape.Statement (.vlds f) := by
  intro hw w h
  obtain rfl : packV 0x30 0x1 f = w := Option.some.inj h
  have hx : ((f.fnx == 0)) = true := hw
  simp only [beq_iff_eq] at hx
  obtain ⟨vd, va, vb, sa, sb, guard, gneg, cv, fnx⟩ := f
  obtain rfl : fnx = 0 := hx
  refine (decodeShape_30 _ (packV_op _ _ _)).trans ?_
  rw [decodeMajor30, packV_fn]
  exact congrArg (fun x => Decoded.instr (.vlds x)) (vOf_packV _ _ _)

/-- `vldt`. -/
theorem Shape.vldt (f : FmtV) : Shape.Statement (.vldt f) := by
  intro hw w h
  obtain rfl : packV 0x30 0x2 f = w := Option.some.inj h
  have hx : ((f.fnx == 0)) = true := hw
  simp only [beq_iff_eq] at hx
  obtain ⟨vd, va, vb, sa, sb, guard, gneg, cv, fnx⟩ := f
  obtain rfl : fnx = 0 := hx
  refine (decodeShape_30 _ (packV_op _ _ _)).trans ?_
  rw [decodeMajor30, packV_fn]
  exact congrArg (fun x => Decoded.instr (.vldt x)) (vOf_packV _ _ _)

/-- `vldseg2`. -/
theorem Shape.vldseg2 (f : FmtV) : Shape.Statement (.vldseg2 f) := by
  intro hw w h
  obtain rfl : packV 0x30 0x8 f = w := Option.some.inj h
  have hx : ((f.vb == 0) && !f.sb && (f.fnx == 0)) = true := hw
  simp only [Bool.and_eq_true, beq_iff_eq] at hx
  obtain ⟨vd, va, vb, sa, sb, guard, gneg, cv, fnx⟩ := f
  obtain rfl : fnx = 0 := hx.2
  refine (decodeShape_30 _ (packV_op _ _ _)).trans ?_
  rw [decodeMajor30, packV_fn]
  exact congrArg (fun x => Decoded.instr (.vldseg2 x)) (vOf_packV _ _ _)

/-- `vldseg3`. -/
theorem Shape.vldseg3 (f : FmtV) : Shape.Statement (.vldseg3 f) := by
  intro hw w h
  obtain rfl : packV 0x30 0x9 f = w := Option.some.inj h
  have hx : ((f.vb == 0) && !f.sb && (f.fnx == 0)) = true := hw
  simp only [Bool.and_eq_true, beq_iff_eq] at hx
  obtain ⟨vd, va, vb, sa, sb, guard, gneg, cv, fnx⟩ := f
  obtain rfl : fnx = 0 := hx.2
  refine (decodeShape_30 _ (packV_op _ _ _)).trans ?_
  rw [decodeMajor30, packV_fn]
  exact congrArg (fun x => Decoded.instr (.vldseg3 x)) (vOf_packV _ _ _)

/-- `vldseg4`. -/
theorem Shape.vldseg4 (f : FmtV) : Shape.Statement (.vldseg4 f) := by
  intro hw w h
  obtain rfl : packV 0x30 0xa f = w := Option.some.inj h
  have hx : ((f.vb == 0) && !f.sb && (f.fnx == 0)) = true := hw
  simp only [Bool.and_eq_true, beq_iff_eq] at hx
  obtain ⟨vd, va, vb, sa, sb, guard, gneg, cv, fnx⟩ := f
  obtain rfl : fnx = 0 := hx.2
  refine (decodeShape_30 _ (packV_op _ _ _)).trans ?_
  rw [decodeMajor30, packV_fn]
  exact congrArg (fun x => Decoded.instr (.vldseg4 x)) (vOf_packV _ _ _)

/-- `vldseg5`. -/
theorem Shape.vldseg5 (f : FmtV) : Shape.Statement (.vldseg5 f) := by
  intro hw w h
  obtain rfl : packV 0x30 0xb f = w := Option.some.inj h
  have hx : ((f.vb == 0) && !f.sb && (f.fnx == 0)) = true := hw
  simp only [Bool.and_eq_true, beq_iff_eq] at hx
  obtain ⟨vd, va, vb, sa, sb, guard, gneg, cv, fnx⟩ := f
  obtain rfl : fnx = 0 := hx.2
  refine (decodeShape_30 _ (packV_op _ _ _)).trans ?_
  rw [decodeMajor30, packV_fn]
  exact congrArg (fun x => Decoded.instr (.vldseg5 x)) (vOf_packV _ _ _)

/-- `vldseg6`. -/
theorem Shape.vldseg6 (f : FmtV) : Shape.Statement (.vldseg6 f) := by
  intro hw w h
  obtain rfl : packV 0x30 0xc f = w := Option.some.inj h
  have hx : ((f.vb == 0) && !f.sb && (f.fnx == 0)) = true := hw
  simp only [Bool.and_eq_true, beq_iff_eq] at hx
  obtain ⟨vd, va, vb, sa, sb, guard, gneg, cv, fnx⟩ := f
  obtain rfl : fnx = 0 := hx.2
  refine (decodeShape_30 _ (packV_op _ _ _)).trans ?_
  rw [decodeMajor30, packV_fn]
  exact congrArg (fun x => Decoded.instr (.vldseg6 x)) (vOf_packV _ _ _)

/-- `vldseg7`. -/
theorem Shape.vldseg7 (f : FmtV) : Shape.Statement (.vldseg7 f) := by
  intro hw w h
  obtain rfl : packV 0x30 0xd f = w := Option.some.inj h
  have hx : ((f.vb == 0) && !f.sb && (f.fnx == 0)) = true := hw
  simp only [Bool.and_eq_true, beq_iff_eq] at hx
  obtain ⟨vd, va, vb, sa, sb, guard, gneg, cv, fnx⟩ := f
  obtain rfl : fnx = 0 := hx.2
  refine (decodeShape_30 _ (packV_op _ _ _)).trans ?_
  rw [decodeMajor30, packV_fn]
  exact congrArg (fun x => Decoded.instr (.vldseg7 x)) (vOf_packV _ _ _)

/-- `vldseg8`. -/
theorem Shape.vldseg8 (f : FmtV) : Shape.Statement (.vldseg8 f) := by
  intro hw w h
  obtain rfl : packV 0x30 0xe f = w := Option.some.inj h
  have hx : ((f.vb == 0) && !f.sb && (f.fnx == 0)) = true := hw
  simp only [Bool.and_eq_true, beq_iff_eq] at hx
  obtain ⟨vd, va, vb, sa, sb, guard, gneg, cv, fnx⟩ := f
  obtain rfl : fnx = 0 := hx.2
  refine (decodeShape_30 _ (packV_op _ _ _)).trans ?_
  rw [decodeMajor30, packV_fn]
  exact congrArg (fun x => Decoded.instr (.vldseg8 x)) (vOf_packV _ _ _)

/-- `vst`. -/
theorem Shape.vst (f : FmtV) : Shape.Statement (.vst f) := by
  intro hw w h
  obtain rfl : packV 0x31 0x0 f = w := Option.some.inj h
  have hx : ((f.vb == 0) && !f.sb && (f.fnx == 0)) = true := hw
  simp only [Bool.and_eq_true, beq_iff_eq] at hx
  obtain ⟨vd, va, vb, sa, sb, guard, gneg, cv, fnx⟩ := f
  obtain rfl : fnx = 0 := hx.2
  refine (decodeShape_31 _ (packV_op _ _ _)).trans ?_
  rw [decodeMajor31, packV_fn]
  exact congrArg (fun x => Decoded.instr (.vst x)) (vOf_packV _ _ _)

/-- `vsts`. -/
theorem Shape.vsts (f : FmtV) : Shape.Statement (.vsts f) := by
  intro hw w h
  obtain rfl : packV 0x31 0x1 f = w := Option.some.inj h
  have hx : ((f.fnx == 0)) = true := hw
  simp only [beq_iff_eq] at hx
  obtain ⟨vd, va, vb, sa, sb, guard, gneg, cv, fnx⟩ := f
  obtain rfl : fnx = 0 := hx
  refine (decodeShape_31 _ (packV_op _ _ _)).trans ?_
  rw [decodeMajor31, packV_fn]
  exact congrArg (fun x => Decoded.instr (.vsts x)) (vOf_packV _ _ _)

/-- `vstt`. -/
theorem Shape.vstt (f : FmtV) : Shape.Statement (.vstt f) := by
  intro hw w h
  obtain rfl : packV 0x31 0x2 f = w := Option.some.inj h
  have hx : ((f.fnx == 0)) = true := hw
  simp only [beq_iff_eq] at hx
  obtain ⟨vd, va, vb, sa, sb, guard, gneg, cv, fnx⟩ := f
  obtain rfl : fnx = 0 := hx
  refine (decodeShape_31 _ (packV_op _ _ _)).trans ?_
  rw [decodeMajor31, packV_fn]
  exact congrArg (fun x => Decoded.instr (.vstt x)) (vOf_packV _ _ _)

/-- `vstseg2`. -/
theorem Shape.vstseg2 (f : FmtV) : Shape.Statement (.vstseg2 f) := by
  intro hw w h
  obtain rfl : packV 0x31 0x8 f = w := Option.some.inj h
  have hx : ((f.vb == 0) && !f.sb && (f.fnx == 0)) = true := hw
  simp only [Bool.and_eq_true, beq_iff_eq] at hx
  obtain ⟨vd, va, vb, sa, sb, guard, gneg, cv, fnx⟩ := f
  obtain rfl : fnx = 0 := hx.2
  refine (decodeShape_31 _ (packV_op _ _ _)).trans ?_
  rw [decodeMajor31, packV_fn]
  exact congrArg (fun x => Decoded.instr (.vstseg2 x)) (vOf_packV _ _ _)

/-- `vstseg3`. -/
theorem Shape.vstseg3 (f : FmtV) : Shape.Statement (.vstseg3 f) := by
  intro hw w h
  obtain rfl : packV 0x31 0x9 f = w := Option.some.inj h
  have hx : ((f.vb == 0) && !f.sb && (f.fnx == 0)) = true := hw
  simp only [Bool.and_eq_true, beq_iff_eq] at hx
  obtain ⟨vd, va, vb, sa, sb, guard, gneg, cv, fnx⟩ := f
  obtain rfl : fnx = 0 := hx.2
  refine (decodeShape_31 _ (packV_op _ _ _)).trans ?_
  rw [decodeMajor31, packV_fn]
  exact congrArg (fun x => Decoded.instr (.vstseg3 x)) (vOf_packV _ _ _)

/-- `vstseg4`. -/
theorem Shape.vstseg4 (f : FmtV) : Shape.Statement (.vstseg4 f) := by
  intro hw w h
  obtain rfl : packV 0x31 0xa f = w := Option.some.inj h
  have hx : ((f.vb == 0) && !f.sb && (f.fnx == 0)) = true := hw
  simp only [Bool.and_eq_true, beq_iff_eq] at hx
  obtain ⟨vd, va, vb, sa, sb, guard, gneg, cv, fnx⟩ := f
  obtain rfl : fnx = 0 := hx.2
  refine (decodeShape_31 _ (packV_op _ _ _)).trans ?_
  rw [decodeMajor31, packV_fn]
  exact congrArg (fun x => Decoded.instr (.vstseg4 x)) (vOf_packV _ _ _)

/-- `vstseg5`. -/
theorem Shape.vstseg5 (f : FmtV) : Shape.Statement (.vstseg5 f) := by
  intro hw w h
  obtain rfl : packV 0x31 0xb f = w := Option.some.inj h
  have hx : ((f.vb == 0) && !f.sb && (f.fnx == 0)) = true := hw
  simp only [Bool.and_eq_true, beq_iff_eq] at hx
  obtain ⟨vd, va, vb, sa, sb, guard, gneg, cv, fnx⟩ := f
  obtain rfl : fnx = 0 := hx.2
  refine (decodeShape_31 _ (packV_op _ _ _)).trans ?_
  rw [decodeMajor31, packV_fn]
  exact congrArg (fun x => Decoded.instr (.vstseg5 x)) (vOf_packV _ _ _)

/-- `vstseg6`. -/
theorem Shape.vstseg6 (f : FmtV) : Shape.Statement (.vstseg6 f) := by
  intro hw w h
  obtain rfl : packV 0x31 0xc f = w := Option.some.inj h
  have hx : ((f.vb == 0) && !f.sb && (f.fnx == 0)) = true := hw
  simp only [Bool.and_eq_true, beq_iff_eq] at hx
  obtain ⟨vd, va, vb, sa, sb, guard, gneg, cv, fnx⟩ := f
  obtain rfl : fnx = 0 := hx.2
  refine (decodeShape_31 _ (packV_op _ _ _)).trans ?_
  rw [decodeMajor31, packV_fn]
  exact congrArg (fun x => Decoded.instr (.vstseg6 x)) (vOf_packV _ _ _)

/-- `vstseg7`. -/
theorem Shape.vstseg7 (f : FmtV) : Shape.Statement (.vstseg7 f) := by
  intro hw w h
  obtain rfl : packV 0x31 0xd f = w := Option.some.inj h
  have hx : ((f.vb == 0) && !f.sb && (f.fnx == 0)) = true := hw
  simp only [Bool.and_eq_true, beq_iff_eq] at hx
  obtain ⟨vd, va, vb, sa, sb, guard, gneg, cv, fnx⟩ := f
  obtain rfl : fnx = 0 := hx.2
  refine (decodeShape_31 _ (packV_op _ _ _)).trans ?_
  rw [decodeMajor31, packV_fn]
  exact congrArg (fun x => Decoded.instr (.vstseg7 x)) (vOf_packV _ _ _)

/-- `vstseg8`. -/
theorem Shape.vstseg8 (f : FmtV) : Shape.Statement (.vstseg8 f) := by
  intro hw w h
  obtain rfl : packV 0x31 0xe f = w := Option.some.inj h
  have hx : ((f.vb == 0) && !f.sb && (f.fnx == 0)) = true := hw
  simp only [Bool.and_eq_true, beq_iff_eq] at hx
  obtain ⟨vd, va, vb, sa, sb, guard, gneg, cv, fnx⟩ := f
  obtain rfl : fnx = 0 := hx.2
  refine (decodeShape_31 _ (packV_op _ _ _)).trans ?_
  rw [decodeMajor31, packV_fn]
  exact congrArg (fun x => Decoded.instr (.vstseg8 x)) (vOf_packV _ _ _)

/-- `vgather32`. -/
theorem Shape.vgather32 (f : FmtV) : Shape.Statement (.vgather32 f) := by
  intro hw w h
  obtain rfl : packV 0x32 0x0 f = w := Option.some.inj h
  have hx : ((f.fnx == 0)) = true := hw
  simp only [beq_iff_eq] at hx
  obtain ⟨vd, va, vb, sa, sb, guard, gneg, cv, fnx⟩ := f
  obtain rfl : fnx = 0 := hx
  refine (decodeShape_32 _ (packV_op _ _ _)).trans ?_
  rw [decodeMajor32, packV_fn]
  exact congrArg (fun x => Decoded.instr (.vgather32 x)) (vOf_packV _ _ _)

/-- `vgather64`. -/
theorem Shape.vgather64 (f : FmtV) : Shape.Statement (.vgather64 f) := by
  intro hw w h
  obtain rfl : packV 0x32 0x1 f = w := Option.some.inj h
  have hx : ((f.fnx == 0)) = true := hw
  simp only [beq_iff_eq] at hx
  obtain ⟨vd, va, vb, sa, sb, guard, gneg, cv, fnx⟩ := f
  obtain rfl : fnx = 0 := hx
  refine (decodeShape_32 _ (packV_op _ _ _)).trans ?_
  rw [decodeMajor32, packV_fn]
  exact congrArg (fun x => Decoded.instr (.vgather64 x)) (vOf_packV _ _ _)

/-- `vgatherX32`. -/
theorem Shape.vgatherX32 (f : FmtV) : Shape.Statement (.vgatherX32 f) := by
  intro hw w h
  obtain rfl : packV 0x32 0x2 f = w := Option.some.inj h
  have hx : ((f.fnx == 0)) = true := hw
  simp only [beq_iff_eq] at hx
  obtain ⟨vd, va, vb, sa, sb, guard, gneg, cv, fnx⟩ := f
  obtain rfl : fnx = 0 := hx
  refine (decodeShape_32 _ (packV_op _ _ _)).trans ?_
  rw [decodeMajor32, packV_fn]
  exact congrArg (fun x => Decoded.instr (.vgatherX32 x)) (vOf_packV _ _ _)

/-- `vgatherX64`. -/
theorem Shape.vgatherX64 (f : FmtV) : Shape.Statement (.vgatherX64 f) := by
  intro hw w h
  obtain rfl : packV 0x32 0x3 f = w := Option.some.inj h
  have hx : ((f.fnx == 0)) = true := hw
  simp only [beq_iff_eq] at hx
  obtain ⟨vd, va, vb, sa, sb, guard, gneg, cv, fnx⟩ := f
  obtain rfl : fnx = 0 := hx
  refine (decodeShape_32 _ (packV_op _ _ _)).trans ?_
  rw [decodeMajor32, packV_fn]
  exact congrArg (fun x => Decoded.instr (.vgatherX64 x)) (vOf_packV _ _ _)

/-- `vscatter32`. -/
theorem Shape.vscatter32 (f : FmtV) : Shape.Statement (.vscatter32 f) := by
  intro hw w h
  obtain rfl : packV 0x32 0x8 f = w := Option.some.inj h
  have hx : ((f.fnx == 0)) = true := hw
  simp only [beq_iff_eq] at hx
  obtain ⟨vd, va, vb, sa, sb, guard, gneg, cv, fnx⟩ := f
  obtain rfl : fnx = 0 := hx
  refine (decodeShape_32 _ (packV_op _ _ _)).trans ?_
  rw [decodeMajor32, packV_fn]
  exact congrArg (fun x => Decoded.instr (.vscatter32 x)) (vOf_packV _ _ _)

/-- `vscatter64`. -/
theorem Shape.vscatter64 (f : FmtV) : Shape.Statement (.vscatter64 f) := by
  intro hw w h
  obtain rfl : packV 0x32 0x9 f = w := Option.some.inj h
  have hx : ((f.fnx == 0)) = true := hw
  simp only [beq_iff_eq] at hx
  obtain ⟨vd, va, vb, sa, sb, guard, gneg, cv, fnx⟩ := f
  obtain rfl : fnx = 0 := hx
  refine (decodeShape_32 _ (packV_op _ _ _)).trans ?_
  rw [decodeMajor32, packV_fn]
  exact congrArg (fun x => Decoded.instr (.vscatter64 x)) (vOf_packV _ _ _)

/-- `vscatterX32`. -/
theorem Shape.vscatterX32 (f : FmtV) : Shape.Statement (.vscatterX32 f) := by
  intro hw w h
  obtain rfl : packV 0x32 0xa f = w := Option.some.inj h
  have hx : ((f.fnx == 0)) = true := hw
  simp only [beq_iff_eq] at hx
  obtain ⟨vd, va, vb, sa, sb, guard, gneg, cv, fnx⟩ := f
  obtain rfl : fnx = 0 := hx
  refine (decodeShape_32 _ (packV_op _ _ _)).trans ?_
  rw [decodeMajor32, packV_fn]
  exact congrArg (fun x => Decoded.instr (.vscatterX32 x)) (vOf_packV _ _ _)

/-- `vscatterX64`. -/
theorem Shape.vscatterX64 (f : FmtV) : Shape.Statement (.vscatterX64 f) := by
  intro hw w h
  obtain rfl : packV 0x32 0xb f = w := Option.some.inj h
  have hx : ((f.fnx == 0)) = true := hw
  simp only [beq_iff_eq] at hx
  obtain ⟨vd, va, vb, sa, sb, guard, gneg, cv, fnx⟩ := f
  obtain rfl : fnx = 0 := hx
  refine (decodeShape_32 _ (packV_op _ _ _)).trans ?_
  rw [decodeMajor32, packV_fn]
  exact congrArg (fun x => Decoded.instr (.vscatterX64 x)) (vOf_packV _ _ _)

/-- `vamoAdd`. -/
theorem Shape.vamoAdd (f : FmtV) : Shape.Statement (.vamoAdd f) := by
  intro hw w h
  obtain rfl : packV 0x33 0x0 f = w := Option.some.inj h
  have hx : (!f.cv && (f.fnx == 0)) = true := hw
  simp only [Bool.and_eq_true, beq_iff_eq] at hx
  obtain ⟨vd, va, vb, sa, sb, guard, gneg, cv, fnx⟩ := f
  obtain rfl : fnx = 0 := hx.2
  refine (decodeShape_33 _ (packV_op _ _ _)).trans ?_
  rw [decodeMajor33, packV_fn]
  exact congrArg (fun x => Decoded.instr (.vamoAdd x)) (vOf_packV _ _ _)

/-- `vamoMin`. -/
theorem Shape.vamoMin (f : FmtV) : Shape.Statement (.vamoMin f) := by
  intro hw w h
  obtain rfl : packV 0x33 0x1 f = w := Option.some.inj h
  have hx : (!f.cv && (f.fnx == 0)) = true := hw
  simp only [Bool.and_eq_true, beq_iff_eq] at hx
  obtain ⟨vd, va, vb, sa, sb, guard, gneg, cv, fnx⟩ := f
  obtain rfl : fnx = 0 := hx.2
  refine (decodeShape_33 _ (packV_op _ _ _)).trans ?_
  rw [decodeMajor33, packV_fn]
  exact congrArg (fun x => Decoded.instr (.vamoMin x)) (vOf_packV _ _ _)

/-- `vamoMax`. -/
theorem Shape.vamoMax (f : FmtV) : Shape.Statement (.vamoMax f) := by
  intro hw w h
  obtain rfl : packV 0x33 0x2 f = w := Option.some.inj h
  have hx : (!f.cv && (f.fnx == 0)) = true := hw
  simp only [Bool.and_eq_true, beq_iff_eq] at hx
  obtain ⟨vd, va, vb, sa, sb, guard, gneg, cv, fnx⟩ := f
  obtain rfl : fnx = 0 := hx.2
  refine (decodeShape_33 _ (packV_op _ _ _)).trans ?_
  rw [decodeMajor33, packV_fn]
  exact congrArg (fun x => Decoded.instr (.vamoMax x)) (vOf_packV _ _ _)

/-- `vamoAnd`. -/
theorem Shape.vamoAnd (f : FmtV) : Shape.Statement (.vamoAnd f) := by
  intro hw w h
  obtain rfl : packV 0x33 0x3 f = w := Option.some.inj h
  have hx : (!f.cv && (f.fnx == 0)) = true := hw
  simp only [Bool.and_eq_true, beq_iff_eq] at hx
  obtain ⟨vd, va, vb, sa, sb, guard, gneg, cv, fnx⟩ := f
  obtain rfl : fnx = 0 := hx.2
  refine (decodeShape_33 _ (packV_op _ _ _)).trans ?_
  rw [decodeMajor33, packV_fn]
  exact congrArg (fun x => Decoded.instr (.vamoAnd x)) (vOf_packV _ _ _)

/-- `vamoOr`. -/
theorem Shape.vamoOr (f : FmtV) : Shape.Statement (.vamoOr f) := by
  intro hw w h
  obtain rfl : packV 0x33 0x4 f = w := Option.some.inj h
  have hx : (!f.cv && (f.fnx == 0)) = true := hw
  simp only [Bool.and_eq_true, beq_iff_eq] at hx
  obtain ⟨vd, va, vb, sa, sb, guard, gneg, cv, fnx⟩ := f
  obtain rfl : fnx = 0 := hx.2
  refine (decodeShape_33 _ (packV_op _ _ _)).trans ?_
  rw [decodeMajor33, packV_fn]
  exact congrArg (fun x => Decoded.instr (.vamoOr x)) (vOf_packV _ _ _)

/-- `vamoXor`. -/
theorem Shape.vamoXor (f : FmtV) : Shape.Statement (.vamoXor f) := by
  intro hw w h
  obtain rfl : packV 0x33 0x5 f = w := Option.some.inj h
  have hx : (!f.cv && (f.fnx == 0)) = true := hw
  simp only [Bool.and_eq_true, beq_iff_eq] at hx
  obtain ⟨vd, va, vb, sa, sb, guard, gneg, cv, fnx⟩ := f
  obtain rfl : fnx = 0 := hx.2
  refine (decodeShape_33 _ (packV_op _ _ _)).trans ?_
  rw [decodeMajor33, packV_fn]
  exact congrArg (fun x => Decoded.instr (.vamoXor x)) (vOf_packV _ _ _)

/-- `vamoSwp`. -/
theorem Shape.vamoSwp (f : FmtV) : Shape.Statement (.vamoSwp f) := by
  intro hw w h
  obtain rfl : packV 0x33 0x6 f = w := Option.some.inj h
  have hx : (!f.cv && (f.fnx == 0)) = true := hw
  simp only [Bool.and_eq_true, beq_iff_eq] at hx
  obtain ⟨vd, va, vb, sa, sb, guard, gneg, cv, fnx⟩ := f
  obtain rfl : fnx = 0 := hx.2
  refine (decodeShape_33 _ (packV_op _ _ _)).trans ?_
  rw [decodeMajor33, packV_fn]
  exact congrArg (fun x => Decoded.instr (.vamoSwp x)) (vOf_packV _ _ _)

/-- `vamofAdd`. -/
theorem Shape.vamofAdd (f : FmtV) : Shape.Statement (.vamofAdd f) := by
  intro hw w h
  obtain rfl : packV 0x33 0x8 f = w := Option.some.inj h
  have hx : (!f.cv && (f.fnx == 0)) = true := hw
  simp only [Bool.and_eq_true, beq_iff_eq] at hx
  obtain ⟨vd, va, vb, sa, sb, guard, gneg, cv, fnx⟩ := f
  obtain rfl : fnx = 0 := hx.2
  refine (decodeShape_33 _ (packV_op _ _ _)).trans ?_
  rw [decodeMajor33, packV_fn]
  exact congrArg (fun x => Decoded.instr (.vamofAdd x)) (vOf_packV _ _ _)

/-- `vamofMin`. -/
theorem Shape.vamofMin (f : FmtV) : Shape.Statement (.vamofMin f) := by
  intro hw w h
  obtain rfl : packV 0x33 0x9 f = w := Option.some.inj h
  have hx : (!f.cv && (f.fnx == 0)) = true := hw
  simp only [Bool.and_eq_true, beq_iff_eq] at hx
  obtain ⟨vd, va, vb, sa, sb, guard, gneg, cv, fnx⟩ := f
  obtain rfl : fnx = 0 := hx.2
  refine (decodeShape_33 _ (packV_op _ _ _)).trans ?_
  rw [decodeMajor33, packV_fn]
  exact congrArg (fun x => Decoded.instr (.vamofMin x)) (vOf_packV _ _ _)

/-- `vamofMax`. -/
theorem Shape.vamofMax (f : FmtV) : Shape.Statement (.vamofMax f) := by
  intro hw w h
  obtain rfl : packV 0x33 0xa f = w := Option.some.inj h
  have hx : (!f.cv && (f.fnx == 0)) = true := hw
  simp only [Bool.and_eq_true, beq_iff_eq] at hx
  obtain ⟨vd, va, vb, sa, sb, guard, gneg, cv, fnx⟩ := f
  obtain rfl : fnx = 0 := hx.2
  refine (decodeShape_33 _ (packV_op _ _ _)).trans ?_
  rw [decodeMajor33, packV_fn]
  exact congrArg (fun x => Decoded.instr (.vamofMax x)) (vOf_packV _ _ _)

/-- `vamofAnd`. -/
theorem Shape.vamofAnd (f : FmtV) : Shape.Statement (.vamofAnd f) := by
  intro hw w h
  obtain rfl : packV 0x33 0xb f = w := Option.some.inj h
  have hx : (!f.cv && (f.fnx == 0)) = true := hw
  simp only [Bool.and_eq_true, beq_iff_eq] at hx
  obtain ⟨vd, va, vb, sa, sb, guard, gneg, cv, fnx⟩ := f
  obtain rfl : fnx = 0 := hx.2
  refine (decodeShape_33 _ (packV_op _ _ _)).trans ?_
  rw [decodeMajor33, packV_fn]
  exact congrArg (fun x => Decoded.instr (.vamofAnd x)) (vOf_packV _ _ _)

/-- `vamofOr`. -/
theorem Shape.vamofOr (f : FmtV) : Shape.Statement (.vamofOr f) := by
  intro hw w h
  obtain rfl : packV 0x33 0xc f = w := Option.some.inj h
  have hx : (!f.cv && (f.fnx == 0)) = true := hw
  simp only [Bool.and_eq_true, beq_iff_eq] at hx
  obtain ⟨vd, va, vb, sa, sb, guard, gneg, cv, fnx⟩ := f
  obtain rfl : fnx = 0 := hx.2
  refine (decodeShape_33 _ (packV_op _ _ _)).trans ?_
  rw [decodeMajor33, packV_fn]
  exact congrArg (fun x => Decoded.instr (.vamofOr x)) (vOf_packV _ _ _)

/-- `vamofXor`. -/
theorem Shape.vamofXor (f : FmtV) : Shape.Statement (.vamofXor f) := by
  intro hw w h
  obtain rfl : packV 0x33 0xd f = w := Option.some.inj h
  have hx : (!f.cv && (f.fnx == 0)) = true := hw
  simp only [Bool.and_eq_true, beq_iff_eq] at hx
  obtain ⟨vd, va, vb, sa, sb, guard, gneg, cv, fnx⟩ := f
  obtain rfl : fnx = 0 := hx.2
  refine (decodeShape_33 _ (packV_op _ _ _)).trans ?_
  rw [decodeMajor33, packV_fn]
  exact congrArg (fun x => Decoded.instr (.vamofXor x)) (vOf_packV _ _ _)

/-- `vamofSwp`. -/
theorem Shape.vamofSwp (f : FmtV) : Shape.Statement (.vamofSwp f) := by
  intro hw w h
  obtain rfl : packV 0x33 0xe f = w := Option.some.inj h
  have hx : (!f.cv && (f.fnx == 0)) = true := hw
  simp only [Bool.and_eq_true, beq_iff_eq] at hx
  obtain ⟨vd, va, vb, sa, sb, guard, gneg, cv, fnx⟩ := f
  obtain rfl : fnx = 0 := hx.2
  refine (decodeShape_33 _ (packV_op _ _ _)).trans ?_
  rw [decodeMajor33, packV_fn]
  exact congrArg (fun x => Decoded.instr (.vamofSwp x)) (vOf_packV _ _ _)

/-- `mmab`. -/
theorem Shape.mmab (f : FmtV) : Shape.Statement (.mmab f) := by
  intro hw w h
  obtain rfl : packV 0x34 0x0 f = w := Option.some.inj h
  have hx : ((f.fnx == 0)) = true := hw
  simp only [beq_iff_eq] at hx
  obtain ⟨vd, va, vb, sa, sb, guard, gneg, cv, fnx⟩ := f
  obtain rfl : fnx = 0 := hx
  refine (decodeShape_34 _ (packV_op _ _ _)).trans ?_
  rw [decodeMajor34, packV_fn]
  exact congrArg (fun x => Decoded.instr (.mmab x)) (vOf_packV _ _ _)

/-- `mmah`. -/
theorem Shape.mmah (f : FmtV) : Shape.Statement (.mmah f) := by
  intro hw w h
  obtain rfl : packV 0x34 0x1 f = w := Option.some.inj h
  have hx : ((f.fnx == 0)) = true := hw
  simp only [beq_iff_eq] at hx
  obtain ⟨vd, va, vb, sa, sb, guard, gneg, cv, fnx⟩ := f
  obtain rfl : fnx = 0 := hx
  refine (decodeShape_34 _ (packV_op _ _ _)).trans ?_
  rw [decodeMajor34, packV_fn]
  exact congrArg (fun x => Decoded.instr (.mmah x)) (vOf_packV _ _ _)

/-- `mzero`. -/
theorem Shape.mzero (f : FmtV) : Shape.Statement (.mzero f) := by
  intro hw w h
  obtain rfl : packV 0x34 0x2 f = w := Option.some.inj h
  have hx : ((f.va == 0) && (f.vb == 0) && !f.sa && !f.sb && (f.fnx == 0)) = true := hw
  simp only [Bool.and_eq_true, beq_iff_eq] at hx
  obtain ⟨vd, va, vb, sa, sb, guard, gneg, cv, fnx⟩ := f
  obtain rfl : fnx = 0 := hx.2
  refine (decodeShape_34 _ (packV_op _ _ _)).trans ?_
  rw [decodeMajor34, packV_fn]
  exact congrArg (fun x => Decoded.instr (.mzero x)) (vOf_packV _ _ _)

/-- `vwmac`. -/
theorem Shape.vwmac (f : FmtV) : Shape.Statement (.vwmac f) := by
  intro hw w h
  obtain rfl : packV 0x34 0x3 f = w := Option.some.inj h
  have hx : ((f.fnx == 0)) = true := hw
  simp only [beq_iff_eq] at hx
  obtain ⟨vd, va, vb, sa, sb, guard, gneg, cv, fnx⟩ := f
  obtain rfl : fnx = 0 := hx
  refine (decodeShape_34 _ (packV_op _ _ _)).trans ?_
  rw [decodeMajor34, packV_fn]
  exact congrArg (fun x => Decoded.instr (.vwmac x)) (vOf_packV _ _ _)

/-- `vbnorm`. -/
theorem Shape.vbnorm (f : FmtV) : Shape.Statement (.vbnorm f) := by
  intro hw w h
  obtain rfl : packV 0x34 0x4 f = w := Option.some.inj h
  have hx : (!f.sb && (f.fnx == 0) && (1 ≤ f.vb.toNat && f.vb.toNat ≤ 15)) = true := hw
  simp only [Bool.and_eq_true, beq_iff_eq] at hx
  obtain ⟨vd, va, vb, sa, sb, guard, gneg, cv, fnx⟩ := f
  obtain rfl : fnx = 0 := hx.1.2
  refine (decodeShape_34 _ (packV_op _ _ _)).trans ?_
  rw [decodeMajor34, packV_fn]
  exact congrArg (fun x => Decoded.instr (.vbnorm x)) (vOf_packV _ _ _)

/-- `vbexpF32`. -/
theorem Shape.vbexpF32 (f : FmtV) : Shape.Statement (.vbexpF32 f) := by
  intro hw w h
  obtain rfl : packV 0x34 0x5 f = w := Option.some.inj h
  have hx : ((f.vb == 0) && !f.sb && (f.fnx == 0)) = true := hw
  simp only [Bool.and_eq_true, beq_iff_eq] at hx
  obtain ⟨vd, va, vb, sa, sb, guard, gneg, cv, fnx⟩ := f
  obtain rfl : fnx = 0 := hx.2
  refine (decodeShape_34 _ (packV_op _ _ _)).trans ?_
  rw [decodeMajor34, packV_fn]
  exact congrArg (fun x => Decoded.instr (.vbexpF32 x)) (vOf_packV _ _ _)

/-- `vbexpGet`. -/
theorem Shape.vbexpGet (f : FmtV) : Shape.Statement (.vbexpGet f) := by
  intro hw w h
  obtain rfl : packV 0x34 0x6 f = w := Option.some.inj h
  have hx : ((f.vb == 0) && !f.sb && (f.fnx == 0)) = true := hw
  simp only [Bool.and_eq_true, beq_iff_eq] at hx
  obtain ⟨vd, va, vb, sa, sb, guard, gneg, cv, fnx⟩ := f
  obtain rfl : fnx = 0 := hx.2
  refine (decodeShape_34 _ (packV_op _ _ _)).trans ?_
  rw [decodeMajor34, packV_fn]
  exact congrArg (fun x => Decoded.instr (.vbexpGet x)) (vOf_packV _ _ _)

/-- `vbexpSet`. -/
theorem Shape.vbexpSet (f : FmtV) : Shape.Statement (.vbexpSet f) := by
  intro hw w h
  obtain rfl : packV 0x34 0x7 f = w := Option.some.inj h
  have hx : ((f.vb == 0) && !f.sb && (f.fnx == 0)) = true := hw
  simp only [Bool.and_eq_true, beq_iff_eq] at hx
  obtain ⟨vd, va, vb, sa, sb, guard, gneg, cv, fnx⟩ := f
  obtain rfl : fnx = 0 := hx.2
  refine (decodeShape_34 _ (packV_op _ _ _)).trans ?_
  rw [decodeMajor34, packV_fn]
  exact congrArg (fun x => Decoded.instr (.vbexpSet x)) (vOf_packV _ _ _)

/-- `vgroup`. -/
theorem Shape.vgroup (f : FmtV) : Shape.Statement (.vgroup f) := by
  intro hw w h
  obtain rfl : packV 0x35 0x0 f = w := Option.some.inj h
  have hx : ((f.vb.toNat < 8) && !f.sb && (f.fnx == 0)) = true := hw
  simp only [Bool.and_eq_true, beq_iff_eq] at hx
  obtain ⟨vd, va, vb, sa, sb, guard, gneg, cv, fnx⟩ := f
  obtain rfl : fnx = 0 := hx.2
  refine (decodeShape_35 _ (packV_op _ _ _)).trans ?_
  rw [decodeMajor35, packV_fn]
  exact congrArg (fun x => Decoded.instr (.vgroup x)) (vOf_packV _ _ _)

/-- `vxsect`. -/
theorem Shape.vxsect (f : FmtV) : Shape.Statement (.vxsect f) := by
  intro hw w h
  obtain rfl : packV 0x35 0x1 f = w := Option.some.inj h
  have hx : ((f.va.toNat < 8) && (f.vb.toNat < 8) && !f.sa && !f.sb && !f.gneg && (f.fnx == 0) && (f.va != f.vb)) = true := hw
  simp only [Bool.and_eq_true, beq_iff_eq] at hx
  obtain ⟨vd, va, vb, sa, sb, guard, gneg, cv, fnx⟩ := f
  obtain rfl : fnx = 0 := hx.1.2
  refine (decodeShape_35 _ (packV_op _ _ _)).trans ?_
  rw [decodeMajor35, packV_fn]
  exact congrArg (fun x => Decoded.instr (.vxsect x)) (vOf_packV _ _ _)

/-- `vmerge`. -/
theorem Shape.vmerge (f : FmtV) : Shape.Statement (.vmerge f) := by
  intro hw w h
  obtain rfl : packV 0x35 0x2 f = w := Option.some.inj h
  have hx : (!f.gneg && (f.fnx == 0)) = true := hw
  simp only [Bool.and_eq_true, beq_iff_eq] at hx
  obtain ⟨vd, va, vb, sa, sb, guard, gneg, cv, fnx⟩ := f
  obtain rfl : fnx = 0 := hx.2
  refine (decodeShape_35 _ (packV_op _ _ _)).trans ?_
  rw [decodeMajor35, packV_fn]
  exact congrArg (fun x => Decoded.instr (.vmerge x)) (vOf_packV _ _ _)

/-- `vsegsum`. -/
theorem Shape.vsegsum (f : FmtV) : Shape.Statement (.vsegsum f) := by
  intro hw w h
  obtain rfl : packV 0x35 0x3 f = w := Option.some.inj h
  have hx : ((f.vb.toNat < 8) && !f.sb && (f.fnx == 0)) = true := hw
  simp only [Bool.and_eq_true, beq_iff_eq] at hx
  obtain ⟨vd, va, vb, sa, sb, guard, gneg, cv, fnx⟩ := f
  obtain rfl : fnx = 0 := hx.2
  refine (decodeShape_35 _ (packV_op _ _ _)).trans ?_
  rw [decodeMajor35, packV_fn]
  exact congrArg (fun x => Decoded.instr (.vsegsum x)) (vOf_packV _ _ _)

/-- `vsegmax`. -/
theorem Shape.vsegmax (f : FmtV) : Shape.Statement (.vsegmax f) := by
  intro hw w h
  obtain rfl : packV 0x35 0x4 f = w := Option.some.inj h
  have hx : ((f.vb.toNat < 8) && !f.sb && (f.fnx == 0)) = true := hw
  simp only [Bool.and_eq_true, beq_iff_eq] at hx
  obtain ⟨vd, va, vb, sa, sb, guard, gneg, cv, fnx⟩ := f
  obtain rfl : fnx = 0 := hx.2
  refine (decodeShape_35 _ (packV_op _ _ _)).trans ?_
  rw [decodeMajor35, packV_fn]
  exact congrArg (fun x => Decoded.instr (.vsegmax x)) (vOf_packV _ _ _)

/-- `vsegmin`. -/
theorem Shape.vsegmin (f : FmtV) : Shape.Statement (.vsegmin f) := by
  intro hw w h
  obtain rfl : packV 0x35 0x5 f = w := Option.some.inj h
  have hx : ((f.vb.toNat < 8) && !f.sb && (f.fnx == 0)) = true := hw
  simp only [Bool.and_eq_true, beq_iff_eq] at hx
  obtain ⟨vd, va, vb, sa, sb, guard, gneg, cv, fnx⟩ := f
  obtain rfl : fnx = 0 := hx.2
  refine (decodeShape_35 _ (packV_op _ _ _)).trans ?_
  rw [decodeMajor35, packV_fn]
  exact congrArg (fun x => Decoded.instr (.vsegmin x)) (vOf_packV _ _ _)

/-- `tcon`. -/
theorem Shape.tcon (f : FmtV) : Shape.Statement (.tcon f) := by
  intro hw w h
  obtain rfl : packV 0x36 0x0 f = w := Option.some.inj h
  have hx : ((f.vd == 0) && (f.vb == 0) && !f.sb && (f.guard == 0) && !f.gneg && !f.cv && (f.fnx == 0)) = true := hw
  simp only [Bool.and_eq_true, beq_iff_eq] at hx
  obtain ⟨vd, va, vb, sa, sb, guard, gneg, cv, fnx⟩ := f
  obtain rfl : fnx = 0 := hx.2
  refine (decodeShape_36 _ (packV_op _ _ _)).trans ?_
  rw [decodeMajor36, packV_fn]
  exact congrArg (fun x => Decoded.instr (.tcon x)) (vOf_packV _ _ _)

/-- `vdesc`. -/
theorem Shape.vdesc (f : FmtV) : Shape.Statement (.vdesc f) := by
  intro hw w h
  obtain rfl : packVdesc f = w := Option.some.inj h
  have hn := packVdesc_fn f
  have hx : f.fnx = 0 ∨ f.fnx = 1 ∨ f.fnx = 2 ∨ f.fnx = 3 := by
    generalize f.fnx = x
    revert x
    decide
  rcases hx with h | h | h | h <;> rw [h] at hn <;> (refine (decodeShape_37 _ (packVdesc_op f)).trans ?_; rw [decodeMajor37, hn]; exact congrArg (fun x => Decoded.instr (.vdesc x)) (vdescOf_packVdesc f))

/-- `vpnode`. -/
theorem Shape.vpnode (f : FmtV) : Shape.Statement (.vpnode f) := by
  intro hw w h
  obtain rfl : packV 0x37 0x4 f = w := Option.some.inj h
  have hx : ((f.va.toNat < 4) && !f.sa && !f.cv && (f.fnx == 0)) = true := hw
  simp only [Bool.and_eq_true, beq_iff_eq] at hx
  obtain ⟨vd, va, vb, sa, sb, guard, gneg, cv, fnx⟩ := f
  obtain rfl : fnx = 0 := hx.2
  refine (decodeShape_37 _ (packV_op _ _ _)).trans ?_
  rw [decodeMajor37, packV_fn]
  exact congrArg (fun x => Decoded.instr (.vpnode x)) (vOf_packV _ _ _)

/-- `vpget`. -/
theorem Shape.vpget (f : FmtV) : Shape.Statement (.vpget f) := by
  intro hw w h
  obtain rfl : packV 0x37 0x5 f = w := Option.some.inj h
  have hx : ((f.va.toNat < 4) && (f.vb == 0) && !f.sa && !f.sb && !f.cv && (f.fnx == 0)) = true := hw
  simp only [Bool.and_eq_true, beq_iff_eq] at hx
  obtain ⟨vd, va, vb, sa, sb, guard, gneg, cv, fnx⟩ := f
  obtain rfl : fnx = 0 := hx.2
  refine (decodeShape_37 _ (packV_op _ _ _)).trans ?_
  rw [decodeMajor37, packV_fn]
  exact congrArg (fun x => Decoded.instr (.vpget x)) (vOf_packV _ _ _)

/-- `vpclr`. -/
theorem Shape.vpclr (f : FmtV) : Shape.Statement (.vpclr f) := by
  intro hw w h
  obtain rfl : packV 0x37 0x6 f = w := Option.some.inj h
  have hx : ((f.vd == 0) && (f.va.toNat < 4) && (f.vb == 0) && !f.sa && !f.sb && !f.cv && (f.fnx == 0)) = true := hw
  simp only [Bool.and_eq_true, beq_iff_eq] at hx
  obtain ⟨vd, va, vb, sa, sb, guard, gneg, cv, fnx⟩ := f
  obtain rfl : fnx = 0 := hx.2
  refine (decodeShape_37 _ (packV_op _ _ _)).trans ?_
  rw [decodeMajor37, packV_fn]
  exact congrArg (fun x => Decoded.instr (.vpclr x)) (vOf_packV _ _ _)

/-- `entryDispatch`. -/
theorem Shape.entryDispatch  : Shape.Statement (.entryDispatch) := fun _ _ h => nomatch h

/-- `entryRetire`. -/
theorem Shape.entryRetire  : Shape.Statement (.entryRetire) := fun _ _ h => nomatch h

/-- `sliceExpiry`. -/
theorem Shape.sliceExpiry (slot : Nat) (groups : List Nat) : Shape.Statement (.sliceExpiry slot groups) := fun _ _ h => nomatch h

/-- `slotUnbind`. -/
theorem Shape.slotUnbind (slot : Nat) (groups : List Nat) : Shape.Statement (.slotUnbind slot groups) := fun _ _ h => nomatch h

/-- `contextSave`. -/
theorem Shape.contextSave (slot : Nat) : Shape.Statement (.contextSave slot) := fun _ _ h => nomatch h

/-- `slotBind`. -/
theorem Shape.slotBind (slot : Nat) : Shape.Statement (.slotBind slot) := fun _ _ h => nomatch h

/-- `streamEngineFetch`. -/
theorem Shape.streamEngineFetch (q : BitVec 3) : Shape.Statement (.streamEngineFetch q) := fun _ _ h => nomatch h

/-- `copyLanding`. -/
theorem Shape.copyLanding (copy : Nat) : Shape.Statement (.copyLanding copy) := fun _ _ h => nomatch h

/-- `ksealCompletion`. -/
theorem Shape.ksealCompletion (op : Nat) : Shape.Statement (.ksealCompletion op) := fun _ _ h => nomatch h

/-- `kopenCompletion`. -/
theorem Shape.kopenCompletion (op : Nat) : Shape.Statement (.kopenCompletion op) := fun _ _ h => nomatch h

/-- `barrierPhaseComplete`. -/
theorem Shape.barrierPhaseComplete (team : Nat) (bar : BitVec 6) : Shape.Statement (.barrierPhaseComplete team bar) := fun _ _ h => nomatch h

/-- `awaitWakeup`. -/
theorem Shape.awaitWakeup (slot : Nat) : Shape.Statement (.awaitWakeup slot) := fun _ _ h => nomatch h

/-- `ringHandshake`. -/
theorem Shape.ringHandshake (r : BitVec 2) (up down : RingPeer) : Shape.Statement (.ringHandshake r up down) := fun _ _ h => nomatch h

/-- `ringArrival`. -/
theorem Shape.ringArrival (r : BitVec 2) (b : RingBlock) : Shape.Statement (.ringArrival r b) := fun _ _ h => nomatch h

/-- `ringForward`. -/
theorem Shape.ringForward (r : BitVec 2) : Shape.Statement (.ringForward r) := fun _ _ h => nomatch h

/-- `ringSlotRelease`. -/
theorem Shape.ringSlotRelease (r : BitVec 2) : Shape.Statement (.ringSlotRelease r) := fun _ _ h => nomatch h

/-- `ringBreakFlit`. -/
theorem Shape.ringBreakFlit (r : BitVec 2) : Shape.Statement (.ringBreakFlit r) := fun _ _ h => nomatch h

/-- `thrumezLinkLoss`. -/
theorem Shape.thrumezLinkLoss (port : BitVec 3) : Shape.Statement (.thrumezLinkLoss port) := fun _ _ h => nomatch h

/-- `thrumezLinkRetrain`. -/
theorem Shape.thrumezLinkRetrain (port : BitVec 3) : Shape.Statement (.thrumezLinkRetrain port) := fun _ _ h => nomatch h

/-- `launchPortWrite`. -/
theorem Shape.launchPortWrite (part : BitVec 6) (record : List Byte) : Shape.Statement (.launchPortWrite part record) := fun _ _ h => nomatch h

/-- `launchStart`. -/
theorem Shape.launchStart (team : Nat) (placement : List Nat) : Shape.Statement (.launchStart team placement) := fun _ _ h => nomatch h

/-- `commitLayout`. -/
theorem Shape.commitLayout (d : Doorbell) (cut : CommitCut) : Shape.Statement (.commitLayout d cut) := fun _ _ h => nomatch h

/-- `readLayoutState`. -/
theorem Shape.readLayoutState (d : Doorbell) : Shape.Statement (.readLayoutState d) := fun _ _ h => nomatch h

/-- `registerSession`. -/
theorem Shape.registerSession (d : Doorbell) : Shape.Statement (.registerSession d) := fun _ _ h => nomatch h

/-- `energyReading`. -/
theorem Shape.energyReading (d : Doorbell) : Shape.Statement (.energyReading d) := fun _ _ h => nomatch h

/-- `attestation`. -/
theorem Shape.attestation (d : Doorbell) : Shape.Statement (.attestation d) := fun _ _ h => nomatch h

/-- `readCounts`. -/
theorem Shape.readCounts (d : Doorbell) : Shape.Statement (.readCounts d) := fun _ _ h => nomatch h

/-- `readEnabledUnits`. -/
theorem Shape.readEnabledUnits (d : Doorbell) : Shape.Statement (.readEnabledUnits d) := fun _ _ h => nomatch h

/-- `configurePageCounters`. -/
theorem Shape.configurePageCounters (d : Doorbell) : Shape.Statement (.configurePageCounters d) := fun _ _ h => nomatch h

/-- `promote`. -/
theorem Shape.promote (d : Doorbell) : Shape.Statement (.promote d) := fun _ _ h => nomatch h

/-- `cancelPromotion`. -/
theorem Shape.cancelPromotion (d : Doorbell) : Shape.Statement (.cancelPromotion d) := fun _ _ h => nomatch h

/-- `pagePromotion`. -/
theorem Shape.pagePromotion (number : Nat) (target : Nat) : Shape.Statement (.pagePromotion number target) := fun _ _ h => nomatch h

/-- `clearStartCount`. -/
theorem Shape.clearStartCount (d : Doorbell) : Shape.Statement (.clearStartCount d) := fun _ _ h => nomatch h

/-- `imageChunk`. -/
theorem Shape.imageChunk (d : Doorbell) : Shape.Statement (.imageChunk d) := fun _ _ h => nomatch h

/-- `commitImage`. -/
theorem Shape.commitImage (d : Doorbell) : Shape.Statement (.commitImage d) := fun _ _ h => nomatch h

/-- `tearDownLaunch`. -/
theorem Shape.tearDownLaunch (d : Doorbell) : Shape.Statement (.tearDownLaunch d) := fun _ _ h => nomatch h

/-- `hostMemoryRead`. -/
theorem Shape.hostMemoryRead (cls : HostClass) (place : HostAddress) (n : Nat) :
    Shape.Statement (.hostMemoryRead cls place n) := fun _ _ h => nomatch h

/-- `hostMemoryWrite`. -/
theorem Shape.hostMemoryWrite (cls : HostClass) (place : HostAddress) (bytes : List Byte) :
    Shape.Statement (.hostMemoryWrite cls place bytes) := fun _ _ h => nomatch h

/-- `energyAttribution`. -/
theorem Shape.energyAttribution (m : EnergyMeasure) : Shape.Statement (.energyAttribution m) := fun _ _ h => nomatch h

/-- `powerUp`. -/
theorem Shape.powerUp (b : BootInput) : Shape.Statement (.powerUp b) := fun _ _ h => nomatch h

/-- `firmwareReady`. -/
theorem Shape.firmwareReady  : Shape.Statement (.firmwareReady) := fun _ _ h => nomatch h

/-- `powerLoss`. -/
theorem Shape.powerLoss  : Shape.Statement (.powerLoss) := fun _ _ h => nomatch h

/-- `watchdogReset`. -/
theorem Shape.watchdogReset (m : EnergyMeasure) : Shape.Statement (.watchdogReset m) := fun _ _ h => nomatch h

/-- `laneGroupDisable`. -/
theorem Shape.laneGroupDisable (core lg : Nat) (uncorrected : Bool) : Shape.Statement (.laneGroupDisable core lg uncorrected) := fun _ _ h => nomatch h

/-- `illegalInstruction`. -/
theorem Shape.illegalInstruction (word : BitVec 32) : Shape.Statement (.illegalInstruction word) := fun _ _ h => nomatch h

/-- `instructionFetch`. -/
theorem Shape.instructionFetch  : Shape.Statement (.instructionFetch) := fun _ _ h => nomatch h

/-- `unknownRequestCode`. -/
theorem Shape.unknownRequestCode (code : BitVec 16) (d : Doorbell) : Shape.Statement (.unknownRequestCode code d) := fun _ _ h => nomatch h

/-- `packageReset`. -/
theorem Shape.packageReset (m : EnergyMeasure) : Shape.Statement (.packageReset m) := fun _ _ h => nomatch h

/-- `unitRemoval`. -/
theorem Shape.unitRemoval (u : ServiceUnit) (why : RemovalCause) : Shape.Statement (.unitRemoval u why) := fun _ _ h => nomatch h

end Sys2Proof.Laws
end

