-- ==== Sys2Proof/Laws/Scalar.lean ====
section
/-!
SUPPORT. The issue of a scalar instruction: its gate, and what its body then answers.
-/
namespace Sys2Proof.Machine

open Sys2Proof.Safety

/-- A ready instruction passes its gate. -/
theorem State.gate_pass {s : State} {privileged : Bool} {srcs : List Source} {dsts : List (BitVec 5)}
    (h : Ready s srcs dsts) (hp : privileged = true → s.cur.priv = true) : s.gate privileged srcs dsts = .pass := by
  obtain ⟨hf, hc, hs, hd⟩ := h
  have h1 : (privileged && !s.cur.priv) = false := by cases privileged <;> simp_all
  have h2 : s.cur.premature srcs = none := by
    unfold Thread.premature
    rw [Option.map_eq_none_iff, List.find?_eq_none]
    intro x hx
    have := hs x hx
    cases hb : x.2.1 <;> simp_all
  have h3 : srcs.any (fun x => s.cur.gempty x.1) = false := by
    rw [List.any_eq_false]
    exact fun x hx => by simp [(hs x hx).1]
  have h4 : dsts.any (fun r => s.cur.gempty r) = false := by
    rw [List.any_eq_false]
    exact fun r hr => by simp [hd r hr]
  simp [State.gate, h1, hf, hc, h2, h3, h4]

/-- A ready instruction does what its body does. -/
theorem State.scalar_ready {s : State} {privileged : Bool} {srcs : List Source} {dsts : List (BitVec 5)} {body : State → State}
    (h : Ready s srcs dsts) (hp : privileged = true → s.cur.priv = true) : s.scalar privileged srcs dsts body = .next (body s) := by
  rw [State.scalar, State.gate_pass h hp]

/-- A privileged instruction in user mode takes 0x45 (R48). -/
theorem State.scalar_privileged {s : State} {srcs : List Source} {dsts : List (BitVec 5)} {body : State → State}
    (h : s.cur.priv = false) : s.scalar true srcs dsts body = .next (s.wordTrap 0x45) := by
  simp [State.scalar, State.gate, h]

/-- A scalar instruction always goes on. -/
theorem State.scalar_goesOn (s : State) (privileged : Bool) (srcs : List Source) (dsts : List (BitVec 5)) (body : State → State) :
    goesOn (s.scalar privileged srcs dsts body) := by
  unfold State.scalar
  split <;> exact ⟨_, rfl⟩

/-- A register-register operation of a ready word: g(gd) receives the result, the PC moves on, nothing else changes. -/
theorem aluOp_ready {f : FmtSR} {op : Word → Word → Word} {s : State} (h : Ready s (FmtSR.sources f) [f.gd]) :
    aluOp f op s = .next (s.mod (fun t => (t.gwrite f.gd (op (t.gread f.ga) (t.gread f.gb))).next)) :=
  State.scalar_ready h nofun

/-- A unary operation of a ready word. -/
theorem aluUnary_ready {f : FmtSR} {op : Word → Word} {s : State} (h : Ready s (FmtSR.source f) [f.gd]) :
    aluUnary f op s = .next (s.mod (fun t => (t.gwrite f.gd (op (t.gread f.ga))).next)) :=
  State.scalar_ready h nofun

/-- An immediate operation of a ready word. -/
theorem aluImm_ready {f : FmtSI} {op : Word → Word} {s : State} (h : Ready s [(f.ga, f.sa, 0)] [f.gd]) :
    aluImm f op s = .next (s.mod (fun t => (t.gwrite f.gd (op (t.gread f.ga))).next)) :=
  State.scalar_ready h nofun

/-- A write to g0 is discarded (R52). -/
theorem Thread.gwrite_zero (t : Thread) (x : Word) : t.gwrite 0 x = t := rfl

/-- A write to another register (R52). -/
theorem Thread.gwrite_ne (t : Thread) {r : BitVec 5} (x : Word) (h : r ≠ 0) : t.gwrite r x = { t with g := t.g.set r.toNat x r.isLt } :=
  if_neg h

/-- A register read after a register write (R52): g0 reads 0 and discards. -/
theorem Thread.gread_gwrite (t : Thread) (r q : BitVec 5) (x : Word) :
    (t.gwrite r x).gread q = if q = 0 then 0 else if q = r then x else t.gread q := by
  unfold Thread.gread
  by_cases hq : q = 0
  · rw [if_pos hq, if_pos hq]
  · rw [if_neg hq, if_neg hq, if_neg hq]
    by_cases hr : r = 0
    · subst hr
      rw [if_neg hq]
      rfl
    · rw [Thread.gwrite_ne t x hr]
      by_cases h : q = r
      · subst h
        rw [if_pos rfl]
        exact Vector.getElem_set_self ..
      · rw [if_neg h]
        exact Vector.getElem_set_ne r.isLt q.isLt (fun e => h (BitVec.eq_of_toNat_eq e.symm))

end Sys2Proof.Machine
end

