-- ==== Sys2Proof/Laws/Queue.lean ====
section
/-!
SUPPORT. The queue with one lone word in it: its push, its dispatch and its retirement, and so all that issuing it does when queued
entries work at once (R17, R36, R83, R91).
-/
namespace Sys2Proof.Machine

open Sys2Proof.Safety

/-- Nothing queued: no frame captures and no convoy is open. -/
@[simp] theorem capturing_nil : capturing [] = none := rfl

@[simp] theorem openConvoy_nil : openConvoy [] = [] := rfl

/-- With nothing queued no scalar register is empty (R38). -/
theorem Thread.gempty_nil {t : Thread} (h : t.queue = []) (r : BitVec 5) : t.gempty r = false := by
  simp [Thread.gempty, Thread.waited, h]

/-- With nothing queued a strict source is premature only where it was found so when the word first issued. -/
theorem Thread.premature_nil {t : Thread} (h : t.queue = []) {srcs : List Source}
    (hs : ∀ x ∈ srcs, x.2.1 = true → t.stuck ≠ some x.2.2) : t.premature srcs = none := by
  unfold Thread.premature
  rw [Option.map_eq_none_iff, List.find?_eq_none]
  intro x hx
  have := hs x hx
  rw [Thread.gempty_nil h]
  cases hb : x.2.1 <;> simp_all

/-- With nothing queued and no premature read found, every scalar instruction issues at once. -/
theorem ready_of_empty {s : State} (hq : s.cur.queue = []) (hs : s.cur.stuck = none) (srcs : List Source) (dsts : List (BitVec 5)) :
    Ready s srcs dsts :=
  ⟨by rw [hq]; rfl, by rw [hq]; rfl, fun x _ => ⟨Thread.gempty_nil hq x.1, fun _ => by simp [hs]⟩, fun r _ => Thread.gempty_nil hq r⟩

/-- The push of a lone word that nothing precedes succeeds when its checks do. -/
theorem State.push_lone {s : State} {d : Desc} {w : BitVec 32} {descOf : BitVec 32 → Desc} (hd : descOf w = d) (hq : s.cur.queue = [])
    (hw : lone w) (hp : Pushes s d w) : s.push descOf d w = .done (pushed s d w) := by
  obtain ⟨h1, h2, h3, h4, h5⟩ := hp
  have hfr : breaksFrame s.cur w = false := by simp [breaksFrame, hq]
  have hcv : breaksConvoy s.cur w = false := by simp [breaksConvoy, hq]
  have hal : (d.align w s.cur.vt12).find? (fun g => decide (g.1 % g.2.1 ≠ 0)) = none := by
    rw [List.find?_eq_none]
    intro g hg
    simp [h2 g hg]
  have htl : (d.tile && (s.cur.trl == 0 || decide (2048 < s.cur.trl.toNat))) = false := by
    cases ht : d.tile
    · rfl
    · have := h3 ht
      have h6 : (s.cur.trl == 0) = false := by simpa using this.1
      have h7 : decide (2048 < s.cur.trl.toNat) = false := by simp; omega
      rw [h6, h7]
      rfl
  have hpr : s.cur.premature d.scalars = none := Thread.premature_nil hq h4
  have hem : d.scalars.any (fun _ => false) = false := by simp
  have hlen : decide (64 ≤ s.cur.occupied) = false := by simp [Thread.occupied, hq]
  have hpi : (pushed s d w).pipeCheck descOf [newEntry s.cur w d] = pushed s d w := by
    unfold State.pipeCheck
    have : pipeExcess (pushed s d w).cur.pipes ([newEntry s.cur w d].map (fun e => (descOf e.word).pipes)) [] 0 = none := by
      simpa [pushed, Thread.push, newEntry, hd] using h5
    rw [this]
  have hge := fun r => Thread.gempty_nil hq r
  unfold State.push
  simp only [hfr, h1, hal, htl, hcv, hpr, hem, hlen, hw.1, hw.2, hge, openConvoy_nil, hq, List.nil_append, List.any_nil,
    Bool.or_false, Bool.and_self, Bool.false_and, Bool.not_true, Bool.false_eq_true, if_false]
  exact congrArg Pushed.done hpi

/-- With nothing queued an entry's operands are all there when it is pushed (R40). -/
theorem newEntry_taken {t t' : Thread} {w : BitVec 32} {d : Desc} (hq : t.queue = []) : (newEntry t w d).taken t' = newEntry t w d := by
  have h : ∀ r, t.openWrites r = false := fun r => by simp [Thread.openWrites, Thread.openEntries, hq]
  have h0 : ∀ n : Nat, (d.scalars[n]?.map (·.1)).filter t.openWrites = none := fun n => by cases d.scalars[n]? <;> simp [h]
  simp [Entry.taken, newEntry, lateValue, h0]

/-- The queue after the push of a word that nothing precedes. -/
theorem pushed_queue {s : State} {d : Desc} {w : BitVec 32} (hq : s.cur.queue = []) :
    (pushed s d w).cur.queue = [newEntry s.cur w d] := by
  simp [pushed, Thread.push, hq]

/-- A lone entry that has not started has nothing to retire. -/
theorem State.retireOne_unstarted {s : State} {e : Entry} (hq : s.cur.queue = [e]) (hh : e.held = false) (hp : e.phase = .unstarted) :
    s.retireOne = none := by
  have h1 : firstPending s.cur.queue = some 0 := by simp [firstPending, hq, hh]
  unfold State.retireOne
  rw [h1]
  simp [hq, hp]

/-- A lone entry that has dispatched retires. -/
theorem State.retireOne_done {s : State} {e : Entry} {r : Retire} (hq : s.cur.queue = [e]) (hh : e.held = false) (hp : e.phase = .done r) :
    s.retireOne = some (s.retireAt 0 r) := by
  have h1 : firstPending s.cur.queue = some 0 := by simp [firstPending, hq, hh]
  unfold State.retireOne
  rw [h1]
  simp [hq, hp]

/-- A stream that becomes live changes neither the queue nor the status. -/
@[simp] theorem Thread.streamLive_queue (t : Thread) (q : BitVec 3) : (t.streamLive q).queue = t.queue := by
  unfold Thread.streamLive; split <;> rfl

@[simp] theorem Thread.streamLive_status (t : Thread) (q : BitVec 3) : (t.streamLive q).status = t.status := by
  unfold Thread.streamLive; split <;> rfl

/-- The use of a matrix row's errors changes neither the queue nor the status nor the privilege. -/
@[simp] theorem State.rowsDone_queue (s : State) (w : BitVec 32) : (s.rowsDone w).cur.queue = s.cur.queue := by
  unfold State.rowsDone; split <;> rfl

@[simp] theorem State.rowsDone_status (s : State) (w : BitVec 32) : (s.rowsDone w).cur.status = s.cur.status := by
  unfold State.rowsDone; split <;> rfl

/-- The retirement of the only entry empties the queue, where it defers no trap (R36). -/
theorem State.retireAt_queue {s : State} {e : Entry} {r : Retire} (hq : s.cur.queue = [e]) (hd : r.deferred = none) :
    (s.retireAt 0 r).cur.queue = [] := by
  have ha : ∀ (t : Thread) (w : BitVec 32), afterWriter t w [] = [] := fun t w => by unfold afterWriter; split <;> rfl
  unfold State.retireAt
  simp only [hd]
  cases r.hand <;> simp [State.handOver, hq, ha]

theorem State.retireAt_status {s : State} {r : Retire} (hd : r.deferred = none) : (s.retireAt 0 r).cur.status = s.cur.status := by
  unfold State.retireAt
  simp only [hd]
  cases r.hand <;> simp [State.handOver]

/-- The dispatch of a lone entry that completes. -/
theorem State.dispatchOne_lone {s : State} {d : Desc} {w : BitVec 32} {a : Acc} {v : Nat} {trim : Option Fail}
    (descOf : BitVec 32 → Desc) (hd : descOf w = d) (hq : s.cur.queue = []) (hw : lone w) (hc : Completes s d w a v trim) :
    (pushed s d w).dispatchOne descOf 0 = some (dispatched s d w a v trim) := by
  have hpq := pushed_queue (d := d) (w := w) hq
  have hes : (pushed s d w).cur.esOf 0 = s.cur.es.toNat := by
    have h1 : firstPending [newEntry s.cur w d] = some 0 := rfl
    have h2 : topLevel [newEntry s.cur w d] = 0 := rfl
    simp only [Thread.esOf, hpq, h1, h2, or_true, and_self, if_true]
    rfl
  have heg : (pushed s d w).cur.emptyGroups = 0 := by
    simp [Thread.emptyGroups, hpq, newEntry, Entry.empty, Entry.work]
  have hse : (pushed s d w).cur.strictEmpty 0 = 0 := by simp [Thread.strictEmpty, heg]
  have hpr : prematureRead (pushed s d w).cur.lg (d.sources (viewOf s d w) (pushed s d w).cur) ((pushed s d w).cur.strictEmpty 0) = none := by
    have h1 : (d.sources (viewOf s d w) (pushed s d w).cur).find?
        (fun x => x.strict && (x.groups &&& (pushed s d w).cur.strictEmpty 0) != 0) = none := by
      rw [List.find?_eq_none, hse]
      intro x _
      simp
    unfold prematureRead
    rw [h1]
  have hcut : runCut d (viewOf s d w) (pushed s d w) 0 = .done a v trim := by
    unfold runCut
    rw [hc.runs]
    simp
  have hat : (pushed s d w).dispatchAt descOf 0 0 = some (dispatched s d w a v trim) := by
    have hw1 : (newEntry s.cur w d).word = w := rfl
    unfold State.dispatchAt
    rw [hpq]
    simp only [List.length_singleton, Nat.lt_one_iff, getElem?_pos, List.getElem_cons_zero, newEntry_taken hq, hw1, hd, hes]
    have hv : (newEntry s.cur w d).view s.cur.es.toNat = viewOf s d w := rfl
    rw [hv, hpr, hcut]
    rfl
  have hopen : stillOpen (pushed s d w).cur 0 = false := by
    have h0 : capturing [newEntry s.cur w d] = none := by
      simp [capturing, newEntry, Entry.held, hq, hw.2]
    have h1 : openConvoy [newEntry s.cur w d] = [] := by
      simp [openConvoy, newEntry, hw.1]
    simp [stillOpen, Thread.openEntries, hpq, h0, h1]
  have hnext : nextToDispatch (pushed s d w).cur.queue = some 0 := by
    simp [nextToDispatch, hpq, newEntry, Entry.held, Entry.defers, Entry.isDone]
  unfold State.dispatchOne
  rw [hnext]
  simp only [hopen, hpq]
  have hf : isFrame (newEntry s.cur w d).word = false := hw.2
  simp only [List.length_singleton, Nat.lt_one_iff, getElem?_pos, List.getElem_cons_zero, hf]
  unfold State.dispatchConvoy
  rw [hat, hpq]
  have hj : joins (newEntry s.cur w d).word = false := hw.1
  simp only [List.length_singleton, Nat.lt_one_iff, getElem?_pos, List.getElem_cons_zero]
  cases (dispatched s d w a v trim).cur.queue[0]? <;> simp [hj]

/-- A cap from position 0 on leaves a lone entry alone. -/
theorem capYounger_lone (t : Thread) (e : Entry) (epoch v : Nat) (h : t.queue = [e]) : (capYounger t 0 epoch v).queue = [e] := by
  simp [capYounger, h]

/-- A cap changes no status. -/
theorem capYounger_status (t : Thread) (n epoch v : Nat) : (capYounger t n epoch v).status = t.status := rfl

/-- What a lone entry that completed leaves queued: itself, waiting to retire. -/
theorem State.finish_lone {s : State} {d : Desc} {w : BitVec 32} {a : Acc} {v : Nat} {trim : Option Fail} (hq : s.cur.queue = [])
    (hc : Completes s d w a v trim) :
    (dispatched s d w a v trim).cur.queue = [{ newEntry s.cur w d with phase := .done (retireWork s d w a v) }] ∧
      (dispatched s d w a v trim).cur.status = .running := by
  have hpq : a.s.cur.queue = [newEntry s.cur w d] := hc.queue.trans (pushed_queue hq)
  have hst := hc.status
  have hw : (newEntry s.cur w d).word = w := rfl
  unfold dispatched
  rw [State.rowsDone_queue, State.rowsDone_status]
  unfold State.finish
  constructor
  · cases trim <;> cases a.vlOut <;> simp [capYounger, Thread.expand, hpq, retireWork, hw]
  · cases trim <;> cases a.vlOut <;> simp [capYounger, Thread.expand, hst]

/-- With nothing queued the queue rests. -/
theorem State.settle_nil (descOf : BitVec 32 → Desc) (fuel : Nat) {s : State} (hq : s.cur.queue = []) : State.settle descOf fuel s = s := by
  cases fuel with
  | zero => rfl
  | succ n =>
    have h1 : s.retireOne = none := by simp [State.retireOne, firstPending, hq]
    have h2 : s.dispatchOne descOf 0 = none := by simp [State.dispatchOne, nextToDispatch, hq]
    unfold State.settle
    rw [h1, h2]
    simp

/-- Issuing a lone word that nothing precedes, where queued entries work at once: it is pushed, it completes, it retires. -/
theorem issue_lone {s : State} {d : Desc} {w : BitVec 32} {a : Acc} {v : Nat} {trim : Option Fail} (hd : descOf w = d)
    (hi : Idle s) (hw : lone w) (hp : Pushes s d w) (hc : Completes s d w a v trim) :
    issue w s = .next (retired s d w a v trim) := by
  have hq := hi.empty
  have hpush := State.push_lone hd hq hw hp
  have hfin := State.finish_lone hq hc
  have h1 : (pushed s d w).retireOne = none := State.retireOne_unstarted (pushed_queue hq) rfl rfl
  have h2 := State.dispatchOne_lone descOf hd hq hw hc
  have h3 := State.retireOne_done hfin.1 rfl rfl
  have h4 : (pushed s d w).cur.status = .running := hi.running
  have hpace : (pushed s d w).pace = .eager := hi.eager
  unfold issue
  rw [hd, hpush]
  simp only
  unfold State.work
  rw [hpace]
  simp only
  unfold State.settle
  rw [if_neg (by simp [h4]), h1, h2]
  simp only
  unfold State.settle
  rw [if_neg (by simp [hfin.2]), h3]
  simp only
  rw [State.settle_nil descOf 254 (State.retireAt_queue hfin.1 hc.quiet)]
  rfl

end Sys2Proof.Machine
end

