-- ==== Sys2Proof/Laws/QueuedWords.lean ====
section
/-!
SUPPORT. What every queued instruction does (R17): it issues its own word; and a lone word's run, once its elements meet no cause, completes
(R36, R83).
-/
namespace Sys2Proof.Machine

open Sys2Proof.Safety

/-- A queued instruction is the issue of its word. -/
theorem exec_queued {i : Instr} {w : BitVec 32} (h : encode i = some w) (hq : queuedWord w = true) (s : State) : exec i s = issue w s := by
  unfold queuedWord at hq
  cases i <;> first
    | (exfalso; cases h; done)
    | (exfalso; obtain rfl := Option.some.inj h; simp at hq; done)
    | (cases h; rfl)

/-- A lone word whose run ends, with nothing queued before it and no trap deferred, completes: its run touched neither the queue, nor the
thread's status, nor the pace. -/
theorem completes_lone {s : State} {w : BitVec 32} {a : Acc} {v : Nat} {trim : Option Fail} (hi : Idle s)
    (hr : runEntry (descOf w) (viewOf s (descOf w) w) (pushed s (descOf w) w) = .done a v trim) (hd : a.deferred = none) :
    Completes s (descOf w) w a v trim := by
  have k := keeps_runEntry (keeps_descOf w) (viewOf s (descOf w) w) (pushed s (descOf w) w)
  rw [hr] at k
  have h := k.outer
  simp only [Thread.outer, Prod.mk.injEq] at h
  exact ⟨hr, h.2.1, h.1.trans hi.running, k.pace.trans hi.eager, hd⟩

/-- So a lone word whose run ends does all its work where it issues. -/
theorem exec_lone {i : Instr} {w : BitVec 32} {s : State} {a : Acc} {v : Nat} {trim : Option Fail} (h : encode i = some w)
    (hq : queuedWord w = true) (hw : lone w) (hi : Idle s) (hp : Pushes s (descOf w) w)
    (hr : runEntry (descOf w) (viewOf s (descOf w) w) (pushed s (descOf w) w) = .done a v trim) (hd : a.deferred = none) :
    exec i s = .next (retired s (descOf w) w a v trim) :=
  (exec_queued h hq s).trans (issue_lone rfl hi hw hp (completes_lone hi hr hd))

end Sys2Proof.Machine
end

