-- ==== Sys2Proof/Tests/Slice0.lean ====
section
/-!
SUPPORT. Tests: ill-formed terms that WellFormed refuses; a word of every instruction written out from the manual's encodings and what it
decodes to; for each statement a state and operands that meet its hypotheses, clause by clause; for each queued instruction a state in which
it does its work; and a few single steps with results computed by hand from the rules named.
-/

set_option Elab.async false
namespace Sys2Proof.Tests
open Sys2Proof Sys2Proof.Machine Sys2Proof.Safety

/-! ## Ill-formed terms -/

/-- WellFormed refuses an ill-formed term and admits its neighbour: scalar fields of the register forms (R47). -/
theorem test_illformed_1 :
    (.clz ⟨1, 2, 0, false, false⟩ : Instr).wf = true ∧ (.clz ⟨1, 2, 1, false, false⟩ : Instr).wf = false ∧
    (.clz ⟨1, 2, 0, true, false⟩ : Instr).wf = true ∧ (.clz ⟨1, 2, 0, false, true⟩ : Instr).wf = false ∧
    (.sllImm ⟨0, 2, false, 63⟩ : Instr).wf = true ∧ (.sllImm ⟨0, 2, false, 64⟩ : Instr).wf = false ∧
    (.self ⟨1, 0, 5, false, false⟩ : Instr).wf = true ∧ (.self ⟨1, 0, 6, false, false⟩ : Instr).wf = false := by decide

/-- WellFormed refuses an ill-formed term and admits its neighbour: scalar fields of the memory and barrier groups (R252, R255, R262). -/
theorem test_illformed_2 :
    (.aswpW ⟨1, 2, 3, false, false, 0, 5⟩ : Instr).wf = true ∧ (.aswpW ⟨1, 2, 3, false, false, 0, 6⟩ : Instr).wf = false ∧
    (.ldAcqD ⟨1, 2, 0, false, false, 5⟩ : Instr).wf = true ∧ (.ldAcqD ⟨1, 2, 0, false, false, 6⟩ : Instr).wf = false ∧
    (.fenceSc ⟨0, 0, 0, false, false, 0⟩ : Instr).wf = true ∧ (.fenceSc ⟨1, 0, 0, false, false, 0⟩ : Instr).wf = false ∧
    (.fenceSc ⟨0, 0, 0, false, false, 5⟩ : Instr).wf = true ∧ (.fenceSc ⟨0, 1, 0, false, false, 0⟩ : Instr).wf = false ∧
    (.fenceSc ⟨0, 0, 0, false, false, 0⟩ : Instr).wf = true ∧ (.fenceSc ⟨0, 0, 0, true, false, 0⟩ : Instr).wf = false ∧
    (.barWait ⟨0, 3, 0, false, false, 47⟩ : Instr).wf = true ∧ (.barWait ⟨0, 3, 0, false, false, 48⟩ : Instr).wf = false := by decide

/-- WellFormed refuses an ill-formed term and admits its neighbour: the numbers of the special-register writes (R66). -/
theorem test_illformed_3 :
    (.mts ⟨0, 2, false, 4⟩ : Instr).wf = true ∧ (.mts ⟨0, 2, false, 3⟩ : Instr).wf = false ∧
    (.mtsVl ⟨0, 2, false, 0⟩ : Instr).wf = true ∧ (.mtsVl ⟨0, 2, false, 1⟩ : Instr).wf = false ∧
    (.mtsVt ⟨0, 2, false, 1⟩ : Instr).wf = true ∧ (.mtsVt ⟨0, 2, false, 0⟩ : Instr).wf = false ∧
    (.mtsEs ⟨0, 2, false, 3⟩ : Instr).wf = true ∧ (.mtsEs ⟨0, 2, false, 4⟩ : Instr).wf = false ∧
    (.mtsDirty ⟨0, 2, false, 0x409⟩ : Instr).wf = true ∧ (.mtsDirty ⟨0, 2, false, 0x408⟩ : Instr).wf = false := by decide

/-- WellFormed refuses an ill-formed term and admits its neighbour: stream, shape, engine and path-trace numbers (R31, R47). -/
theorem test_illformed_4 :
    (.qbind ⟨7, 0, 0, false, false, 0, false, false, 0⟩ : Instr).wf = true ∧ (.qbind ⟨8, 0, 0, false, false, 0, false, false, 0⟩ : Instr).wf = false ∧
    (.vpop ⟨0, 7, 0, false, false, 0, false, false, 0⟩ : Instr).wf = true ∧ (.vpop ⟨0, 8, 0, false, false, 0, false, false, 0⟩ : Instr).wf = false ∧
    (.ringCfg ⟨3, 0, 0, false, false, 0, false, false, 0⟩ : Instr).wf = true ∧ (.ringCfg ⟨4, 0, 0, false, false, 0, false, false, 0⟩ : Instr).wf = false ∧
    (.ringStat ⟨0, 3, 0, false, false, 0, false, false, 0⟩ : Instr).wf = true ∧ (.ringStat ⟨0, 4, 0, false, false, 0, false, false, 0⟩ : Instr).wf = false ∧
    (.vgroup ⟨0, 0, 7, false, false, 0, false, false, 0⟩ : Instr).wf = true ∧ (.vgroup ⟨0, 0, 8, false, false, 0, false, false, 0⟩ : Instr).wf = false ∧
    (.qfree ⟨7, 0, 0, false, false, 0, false, false, 0⟩ : Instr).wf = true ∧ (.qfree ⟨0, 1, 0, false, false, 0, false, false, 0⟩ : Instr).wf = false ∧
    (.hld ⟨7, 0, 0, false, false, 0, false, false, 0⟩ : Instr).wf = true ∧ (.hld ⟨0, 0, 1, false, false, 0, false, false, 0⟩ : Instr).wf = false ∧
    (.kseal ⟨0, 1, 0, false, false, 0, false, false, 0⟩ : Instr).wf = true ∧ (.kseal ⟨1, 0, 0, false, false, 0, false, false, 0⟩ : Instr).wf = false := by decide

/-- WellFormed refuses an ill-formed term and admits its neighbour: guards, cv and reserved bits (R31, R41, R47). -/
theorem test_illformed_5 :
    (.qbind ⟨0, 0, 0, false, false, 0, false, false, 0⟩ : Instr).wf = true ∧ (.qbind ⟨0, 0, 0, false, false, 1, false, false, 0⟩ : Instr).wf = false ∧
    (.qbind ⟨0, 0, 0, false, false, 0, false, false, 0⟩ : Instr).wf = true ∧ (.qbind ⟨0, 0, 0, false, false, 0, true, false, 0⟩ : Instr).wf = false ∧
    (.qbind ⟨0, 0, 0, false, false, 0, false, false, 0⟩ : Instr).wf = true ∧ (.qbind ⟨0, 0, 0, false, false, 0, false, true, 0⟩ : Instr).wf = false ∧
    (.vadd ⟨0, 0, 0, false, false, 0, false, false, 0⟩ : Instr).wf = true ∧ (.vadd ⟨0, 0, 0, false, false, 0, false, false, 1⟩ : Instr).wf = false ∧
    (.pand ⟨1, 0, 0, 0, 0, false, false⟩ : Instr).wf = true ∧ (.pand ⟨1, 0, 0, 1, 0, false, false⟩ : Instr).wf = false ∧
    (.pnot ⟨1, 0, 0, 0, 0, false, false⟩ : Instr).wf = true ∧ (.pnot ⟨1, 0, 1, 0, 0, false, false⟩ : Instr).wf = false ∧
    (.pset ⟨1, 0, 0, 0, 0, false, false⟩ : Instr).wf = true ∧ (.pset ⟨1, 1, 0, 0, 0, false, false⟩ : Instr).wf = false := by decide

/-- WellFormed refuses an ill-formed term and admits its neighbour: operands that an instruction limits (R118, R140, R183, R224). -/
theorem test_illformed_6 :
    (.vcvt ⟨0, 0, 0x10, false, false, 0, false, false, 0⟩ : Instr).wf = true ∧ (.vcvt ⟨0, 0, 0x11, false, false, 0, false, false, 0⟩ : Instr).wf = false ∧
    (.vcvt ⟨0, 0, 0x0F, false, false, 0, false, false, 0⟩ : Instr).wf = true ∧ (.vcvt ⟨0, 0, 0x0E, false, false, 0, false, false, 0⟩ : Instr).wf = false ∧
    (.vbnorm ⟨0, 0, 15, false, false, 0, false, false, 0⟩ : Instr).wf = true ∧ (.vbnorm ⟨0, 0, 16, false, false, 0, false, false, 0⟩ : Instr).wf = false ∧
    (.vbnorm ⟨0, 0, 1, false, false, 0, false, false, 0⟩ : Instr).wf = true ∧ (.vbnorm ⟨0, 0, 0, false, false, 0, false, false, 0⟩ : Instr).wf = false ∧
    (.vxsect ⟨0, 1, 2, false, false, 0, false, false, 0⟩ : Instr).wf = true ∧ (.vxsect ⟨0, 2, 2, false, false, 0, false, false, 0⟩ : Instr).wf = false ∧
    (.vdesc ⟨1, 2, 0, false, false, 0, false, false, 0⟩ : Instr).wf = true ∧ (.vdesc ⟨2, 2, 0, false, false, 0, false, false, 0⟩ : Instr).wf = false := by decide

/-! ## Words written out from the encodings -/

/-- Words of major 0x01 (R30, R33). -/
theorem test_decode_01 :
    decode 0b000001_00011_00101_00110_1_0_000000000 = .instr (.add ⟨3, 5, 6, true, false⟩) ∧
    decode 0b000001_00011_00101_00110_1_0_000000001 = .instr (.sub ⟨3, 5, 6, true, false⟩) ∧
    decode 0b000001_00011_00101_00110_1_0_000000010 = .instr (.and ⟨3, 5, 6, true, false⟩) ∧
    decode 0b000001_00011_00101_00110_1_0_000000011 = .instr (.or ⟨3, 5, 6, true, false⟩) ∧
    decode 0b000001_00011_00101_00110_1_0_000000100 = .instr (.xor ⟨3, 5, 6, true, false⟩) ∧
    decode 0b000001_00011_00101_00110_1_0_000000101 = .instr (.andn ⟨3, 5, 6, true, false⟩) ∧
    decode 0b000001_00011_00101_00110_1_0_000001000 = .instr (.sll ⟨3, 5, 6, true, false⟩) ∧
    decode 0b000001_00011_00101_00110_1_0_000001001 = .instr (.srl ⟨3, 5, 6, true, false⟩) ∧
    decode 0b000001_00011_00101_00110_1_0_000001010 = .instr (.sra ⟨3, 5, 6, true, false⟩) ∧
    decode 0b000001_00011_00101_00110_1_0_000001011 = .instr (.rol ⟨3, 5, 6, true, false⟩) ∧
    decode 0b000001_00011_00101_00110_1_0_000010000 = .instr (.mul ⟨3, 5, 6, true, false⟩) ∧
    decode 0b000001_00011_00101_00110_1_0_000010001 = .instr (.mulh ⟨3, 5, 6, true, false⟩) ∧
    decode 0b000001_00011_00101_00110_1_0_000010010 = .instr (.mulhz ⟨3, 5, 6, true, false⟩) ∧
    decode 0b000001_00011_00101_00110_1_0_000010100 = .instr (.div ⟨3, 5, 6, true, false⟩) ∧
    decode 0b000001_00011_00101_00110_1_0_000010101 = .instr (.divz ⟨3, 5, 6, true, false⟩) ∧
    decode 0b000001_00011_00101_00110_1_0_000010110 = .instr (.rem ⟨3, 5, 6, true, false⟩) ∧
    decode 0b000001_00011_00101_00110_1_0_000010111 = .instr (.remz ⟨3, 5, 6, true, false⟩) ∧
    decode 0b000001_00011_00101_00110_1_0_000011000 = .instr (.ceq ⟨3, 5, 6, true, false⟩) ∧
    decode 0b000001_00011_00101_00110_1_0_000011001 = .instr (.cne ⟨3, 5, 6, true, false⟩) ∧
    decode 0b000001_00011_00101_00110_1_0_000011010 = .instr (.clt ⟨3, 5, 6, true, false⟩) ∧
    decode 0b000001_00011_00101_00110_1_0_000011011 = .instr (.cge ⟨3, 5, 6, true, false⟩) ∧
    decode 0b000001_00011_00101_00110_1_0_000011100 = .instr (.clo ⟨3, 5, 6, true, false⟩) ∧
    decode 0b000001_00011_00101_00110_1_0_000011101 = .instr (.chs ⟨3, 5, 6, true, false⟩) ∧
    decode 0b000001_00011_00101_00110_1_0_000100000 = .instr (.min ⟨3, 5, 6, true, false⟩) ∧
    decode 0b000001_00011_00101_00110_1_0_000100001 = .instr (.max ⟨3, 5, 6, true, false⟩) ∧
    decode 0b000001_00011_00101_00110_1_0_000100010 = .instr (.minz ⟨3, 5, 6, true, false⟩) ∧
    decode 0b000001_00011_00101_00110_1_0_000100011 = .instr (.maxz ⟨3, 5, 6, true, false⟩) ∧
    decode 0b000001_00011_00101_00000_1_0_000101000 = .instr (.clz ⟨3, 5, 0, true, false⟩) ∧
    decode 0b000001_00011_00101_00000_1_0_000101001 = .instr (.ctz ⟨3, 5, 0, true, false⟩) ∧
    decode 0b000001_00011_00101_00000_1_0_000101010 = .instr (.popc ⟨3, 5, 0, true, false⟩) := by
  and_intros <;> rfl

/-- Words of major 0x02 (R30, R33). -/
theorem test_decode_02 :
    decode 0b000010_00011_00101_1_101101000110001 = .instr (.addi ⟨3, 5, true, 0x5a31⟩) := by
  rfl

/-- Words of major 0x03 (R30, R33). -/
theorem test_decode_03 :
    decode 0b000011_00011_00101_1_101101000110001 = .instr (.andi ⟨3, 5, true, 0x5a31⟩) := by
  rfl

/-- Words of major 0x04 (R30, R33). -/
theorem test_decode_04 :
    decode 0b000100_00011_00101_1_101101000110001 = .instr (.ori ⟨3, 5, true, 0x5a31⟩) := by
  rfl

/-- Words of major 0x05 (R30, R33). -/
theorem test_decode_05 :
    decode 0b000101_00011_00101_1_101101000110001 = .instr (.xori ⟨3, 5, true, 0x5a31⟩) := by
  rfl

/-- Words of major 0x06 (R30, R33). -/
theorem test_decode_06 :
    decode 0b000110_00011_00101_1_000000000000010 = .instr (.sllImm ⟨3, 5, true, 2⟩) ∧
    decode 0b000110_00011_00101_1_001000000000010 = .instr (.srlImm ⟨3, 5, true, 2⟩) ∧
    decode 0b000110_00011_00101_1_010000000000010 = .instr (.sraImm ⟨3, 5, true, 2⟩) ∧
    decode 0b000110_00011_00101_1_011000000000010 = .instr (.rolImm ⟨3, 5, true, 2⟩) := by
  refine ⟨?_, ?_, ?_, ?_⟩ <;> rfl

/-- Words of major 0x07 (R30, R33). -/
theorem test_decode_07 :
    decode 0b000111_00011_000000101101000110001 = .instr (.ldhi ⟨3, 0x5a31⟩) := by
  rfl

/-- Words of major 0x08 (R30, R33). -/
theorem test_decode_08 :
    decode 0b001000_00011_000000101101000110001 = .instr (.addpc ⟨3, 0x5a31⟩) := by
  rfl

/-- Words of major 0x09 (R30, R33). -/
theorem test_decode_09 :
    decode 0b001001_00011_00101_1_101101000110001 = .instr (.ldD ⟨3, 5, true, 0x5a31⟩) := by
  rfl

/-- Words of major 0x0A (R30, R33). -/
theorem test_decode_0A :
    decode 0b001010_00011_00101_1_101101000110001 = .instr (.ldW ⟨3, 5, true, 0x5a31⟩) := by
  rfl

/-- Words of major 0x0B (R30, R33). -/
theorem test_decode_0B :
    decode 0b001011_00011_00101_1_101101000110001 = .instr (.ldWz ⟨3, 5, true, 0x5a31⟩) := by
  rfl

/-- Words of major 0x0C (R30, R33). -/
theorem test_decode_0C :
    decode 0b001100_00011_00101_1_101101000110001 = .instr (.ldH ⟨3, 5, true, 0x5a31⟩) := by
  rfl

/-- Words of major 0x0D (R30, R33). -/
theorem test_decode_0D :
    decode 0b001101_00011_00101_1_101101000110001 = .instr (.ldHz ⟨3, 5, true, 0x5a31⟩) := by
  rfl

/-- Words of major 0x0E (R30, R33). -/
theorem test_decode_0E :
    decode 0b001110_00011_00101_1_101101000110001 = .instr (.ldB ⟨3, 5, true, 0x5a31⟩) := by
  rfl

/-- Words of major 0x0F (R30, R33). -/
theorem test_decode_0F :
    decode 0b001111_00011_00101_1_101101000110001 = .instr (.ldBz ⟨3, 5, true, 0x5a31⟩) := by
  rfl

/-- Words of major 0x10 (R30, R33). -/
theorem test_decode_10 :
    decode 0b010000_00011_00101_1_101101000110001 = .instr (.stD ⟨3, 5, true, 0x5a31⟩) := by
  rfl

/-- Words of major 0x11 (R30, R33). -/
theorem test_decode_11 :
    decode 0b010001_00011_00101_1_101101000110001 = .instr (.stW ⟨3, 5, true, 0x5a31⟩) := by
  rfl

/-- Words of major 0x12 (R30, R33). -/
theorem test_decode_12 :
    decode 0b010010_00011_00101_1_101101000110001 = .instr (.stH ⟨3, 5, true, 0x5a31⟩) := by
  rfl

/-- Words of major 0x13 (R30, R33). -/
theorem test_decode_13 :
    decode 0b010011_00011_00101_1_101101000110001 = .instr (.stB ⟨3, 5, true, 0x5a31⟩) := by
  rfl

/-- Words of major 0x14 (R30, R33). -/
theorem test_decode_14 :
    decode 0b010100_00101_00110_1_000_100110100101 = .instr (.beq ⟨5, 6, true, 0x9a5⟩) ∧
    decode 0b010100_00101_00110_1_001_100110100101 = .instr (.bne ⟨5, 6, true, 0x9a5⟩) ∧
    decode 0b010100_00101_00110_1_010_100110100101 = .instr (.blt ⟨5, 6, true, 0x9a5⟩) ∧
    decode 0b010100_00101_00110_1_011_100110100101 = .instr (.bge ⟨5, 6, true, 0x9a5⟩) ∧
    decode 0b010100_00101_00110_1_100_100110100101 = .instr (.blo ⟨5, 6, true, 0x9a5⟩) ∧
    decode 0b010100_00101_00110_1_101_100110100101 = .instr (.bhs ⟨5, 6, true, 0x9a5⟩) := by
  refine ⟨?_, ?_, ?_, ?_, ?_, ?_⟩ <;> rfl

/-- Words of major 0x15 (R30, R33). -/
theorem test_decode_15 :
    decode 0b010101_00011_101011010010110100101 = .instr (.jal ⟨3, 0x15a5a5⟩) := by
  rfl

/-- Words of major 0x16 (R30, R33). -/
theorem test_decode_16 :
    decode 0b010110_00011_00101_1_101101000110001 = .instr (.jalr ⟨3, 5, true, 0x5a31⟩) := by
  rfl

/-- Words of major 0x17 (R30, R33). -/
theorem test_decode_17 :
    decode 0b010111_00011_00101_00110_1_0_0000_10_100 = .instr (.aswpW ⟨3, 5, 6, true, false, 2, 4⟩) ∧
    decode 0b010111_00011_00101_00110_1_0_0001_10_100 = .instr (.aaddW ⟨3, 5, 6, true, false, 2, 4⟩) ∧
    decode 0b010111_00011_00101_00110_1_0_0010_10_100 = .instr (.aandW ⟨3, 5, 6, true, false, 2, 4⟩) ∧
    decode 0b010111_00011_00101_00110_1_0_0011_10_100 = .instr (.aorW ⟨3, 5, 6, true, false, 2, 4⟩) ∧
    decode 0b010111_00011_00101_00110_1_0_0100_10_100 = .instr (.axorW ⟨3, 5, 6, true, false, 2, 4⟩) ∧
    decode 0b010111_00011_00101_00110_1_0_0101_10_100 = .instr (.aminW ⟨3, 5, 6, true, false, 2, 4⟩) ∧
    decode 0b010111_00011_00101_00110_1_0_0110_10_100 = .instr (.amaxW ⟨3, 5, 6, true, false, 2, 4⟩) ∧
    decode 0b010111_00011_00101_00110_1_0_0111_10_100 = .instr (.aminzW ⟨3, 5, 6, true, false, 2, 4⟩) ∧
    decode 0b010111_00011_00101_00110_1_0_1000_10_100 = .instr (.amaxzW ⟨3, 5, 6, true, false, 2, 4⟩) ∧
    decode 0b010111_00011_00101_00110_1_0_1001_10_100 = .instr (.acasW ⟨3, 5, 6, true, false, 2, 4⟩) := by
  and_intros <;> rfl

/-- Words of major 0x18 (R30, R33). -/
theorem test_decode_18 :
    decode 0b011000_00011_00101_00110_1_0_0000_10_100 = .instr (.aswpD ⟨3, 5, 6, true, false, 2, 4⟩) ∧
    decode 0b011000_00011_00101_00110_1_0_0001_10_100 = .instr (.aaddD ⟨3, 5, 6, true, false, 2, 4⟩) ∧
    decode 0b011000_00011_00101_00110_1_0_0010_10_100 = .instr (.aandD ⟨3, 5, 6, true, false, 2, 4⟩) ∧
    decode 0b011000_00011_00101_00110_1_0_0011_10_100 = .instr (.aorD ⟨3, 5, 6, true, false, 2, 4⟩) ∧
    decode 0b011000_00011_00101_00110_1_0_0100_10_100 = .instr (.axorD ⟨3, 5, 6, true, false, 2, 4⟩) ∧
    decode 0b011000_00011_00101_00110_1_0_0101_10_100 = .instr (.aminD ⟨3, 5, 6, true, false, 2, 4⟩) ∧
    decode 0b011000_00011_00101_00110_1_0_0110_10_100 = .instr (.amaxD ⟨3, 5, 6, true, false, 2, 4⟩) ∧
    decode 0b011000_00011_00101_00110_1_0_0111_10_100 = .instr (.aminzD ⟨3, 5, 6, true, false, 2, 4⟩) ∧
    decode 0b011000_00011_00101_00110_1_0_1000_10_100 = .instr (.amaxzD ⟨3, 5, 6, true, false, 2, 4⟩) ∧
    decode 0b011000_00011_00101_00110_1_0_1001_10_100 = .instr (.acasD ⟨3, 5, 6, true, false, 2, 4⟩) := by
  and_intros <;> rfl

/-- Words of major 0x19 (R30, R33). -/
theorem test_decode_19 :
    decode 0b011001_00011_00101_00000_1_0_000000_100 = .instr (.ldAcqW ⟨3, 5, 0, true, false, 4⟩) ∧
    decode 0b011001_00011_00101_00000_1_0_000001_100 = .instr (.ldAcqD ⟨3, 5, 0, true, false, 4⟩) ∧
    decode 0b011001_00011_00101_00000_1_0_000010_100 = .instr (.stRelW ⟨3, 5, 0, true, false, 4⟩) ∧
    decode 0b011001_00011_00101_00000_1_0_000011_100 = .instr (.stRelD ⟨3, 5, 0, true, false, 4⟩) ∧
    decode 0b011001_00000_00000_00000_0_0_000100_100 = .instr (.fenceSc ⟨0, 0, 0, false, false, 4⟩) ∧
    decode 0b011001_00011_00101_00110_1_0_000101_100 = .instr (.await ⟨3, 5, 6, true, false, 4⟩) ∧
    decode 0b011001_00000_00101_00000_1_0_000110_100 = .instr (.wake ⟨0, 5, 0, true, false, 4⟩) ∧
    decode 0b011001_00000_00000_00000_0_0_001_101001 = .instr (.barArrive ⟨0, 0, 0, false, false, 0x29⟩) ∧
    decode 0b011001_00000_00101_00000_1_0_010_101001 = .instr (.barWait ⟨0, 5, 0, true, false, 0x29⟩) ∧
    decode 0b011001_00000_00000_00000_0_0_011_101001 = .instr (.barSync ⟨0, 0, 0, false, false, 0x29⟩) ∧
    decode 0b011001_00000_00101_00000_1_0_100_101001 = .instr (.barCfg ⟨0, 5, 0, true, false, 0x29⟩) ∧
    decode 0b011001_00011_00101_00000_1_0_101_101001 = .instr (.barStat ⟨3, 5, 0, true, false, 0x29⟩) := by
  and_intros <;> rfl

/-- Words of major 0x1A (R30, R33). -/
theorem test_decode_1A :
    decode 0b011010_00011_00000_0_101101000110001 = .instr (.mfs ⟨3, 0, false, 0x5a31⟩) := by
  rfl

/-- Words of major 0x1B (R30, R33). -/
theorem test_decode_1B :
    decode 0b011011_00000_00101_1_101101000110001 = .instr (.mts ⟨0, 5, true, 0x5a31⟩) ∧
    decode 0b011011_00000_00101_1_000000000000000 = .instr (.mtsVl ⟨0, 5, true, 0⟩) ∧
    decode 0b011011_00000_00101_1_000000000000001 = .instr (.mtsVt ⟨0, 5, true, 1⟩) ∧
    decode 0b011011_00000_00101_1_000000000000011 = .instr (.mtsEs ⟨0, 5, true, 3⟩) ∧
    decode 0b011011_00000_00101_1_000010000001001 = .instr (.mtsDirty ⟨0, 5, true, 0x409⟩) := by
  refine ⟨?_, ?_, ?_, ?_, ?_⟩ <;> rfl

/-- Words of major 0x1C (R30, R33). -/
theorem test_decode_1C :
    decode 0b011100_00000_00000_00001_0_0_000000000 = .instr (.trap ⟨0, 0, 1, false, false⟩) ∧
    decode 0b011100_00000_00000_00000_0_0_000000001 = .instr (.eret ⟨0, 0, 0, false, false⟩) ∧
    decode 0b011100_00000_00000_00000_0_0_000000010 = .instr (.ifence ⟨0, 0, 0, false, false⟩) ∧
    decode 0b011100_00000_00000_00000_0_0_000000011 = .instr (.tlbinvAll ⟨0, 0, 0, false, false⟩) ∧
    decode 0b011100_00000_00101_00000_1_0_000000100 = .instr (.tlbinvCtx ⟨0, 5, 0, true, false⟩) ∧
    decode 0b011100_00000_00101_00110_1_0_000000101 = .instr (.tlbinvVa ⟨0, 5, 6, true, false⟩) ∧
    decode 0b011100_00000_00101_00000_1_0_000000110 = .instr (.cflush ⟨0, 5, 0, true, false⟩) ∧
    decode 0b011100_00000_00101_00000_1_0_000000111 = .instr (.cclean ⟨0, 5, 0, true, false⟩) ∧
    decode 0b011100_00000_00101_00000_1_0_000001000 = .instr (.cfetch ⟨0, 5, 0, true, false⟩) ∧
    decode 0b011100_00011_00101_00000_1_0_000001001 = .instr (.tlbprobe ⟨3, 5, 0, true, false⟩) := by
  and_intros <;> rfl

/-- Words of major 0x1D (R30, R33). -/
theorem test_decode_1D :
    decode 0b011101_00011_00101_00000_1_0_000000000 = .instr (.spawn ⟨3, 5, 0, true, false⟩) ∧
    decode 0b011101_00000_00000_00000_0_0_000000001 = .instr (.exit ⟨0, 0, 0, false, false⟩) ∧
    decode 0b011101_00000_00000_00000_0_0_000000010 = .instr (.yield ⟨0, 0, 0, false, false⟩) ∧
    decode 0b011101_00011_00000_00100_0_0_000000011 = .instr (.self ⟨3, 0, 4, false, false⟩) ∧
    decode 0b011101_00011_00101_00000_1_0_000000100 = .instr (.vclaim ⟨3, 5, 0, true, false⟩) := by
  refine ⟨?_, ?_, ?_, ?_, ?_⟩ <;> rfl

/-- Words of major 0x1E (R30, R33). -/
theorem test_decode_1E :
    decode 0b011110_00011_00101_00000_1_0_000000000 = .instr (.vsetl ⟨3, 5, 0, true, false⟩) ∧
    decode 0b011110_00011_00101_00000_1_0_000000001 = .instr (.vsett ⟨3, 5, 0, true, false⟩) ∧
    decode 0b011110_00000_00101_00000_1_0_000000010 = .instr (.vsetes ⟨0, 5, 0, true, false⟩) := by
  refine ⟨?_, ?_, ?_⟩ <;> rfl

/-- Words of major 0x1F (R30, R33). -/
theorem test_decode_1F :
    decode 0b011111_01001_0_0101_0001_0010_0100_0000 = .instr (.vframe ⟨9, 5, 1, 2, 4⟩) := by
  rfl

/-- Words of major 0x20 (R30, R33). -/
theorem test_decode_20 :
    decode 0b100000_00101_00101_00110_1_0_000_0_0_0000 = .instr (.qbind ⟨5, 5, 6, true, false, 0, false, false, 0⟩) ∧
    decode 0b100000_00101_00000_00000_0_0_000_0_0_0001 = .instr (.qfree ⟨5, 0, 0, false, false, 0, false, false, 0⟩) ∧
    decode 0b100000_00011_00101_00000_0_0_000_0_0_0010 = .instr (.vpop ⟨3, 5, 0, false, false, 0, false, false, 0⟩) ∧
    decode 0b100000_00001_00101_00000_1_0_000_0_0_0011 = .instr (.hld ⟨1, 5, 0, true, false, 0, false, false, 0⟩) ∧
    decode 0b100000_00001_00101_00000_1_0_000_0_0_0100 = .instr (.hst ⟨1, 5, 0, true, false, 0, false, false, 0⟩) ∧
    decode 0b100000_00001_00100_00110_0_0_000_0_0_0101 = .instr (.tcopy ⟨1, 4, 6, false, false, 0, false, false, 0⟩) := by
  refine ⟨?_, ?_, ?_, ?_, ?_, ?_⟩ <;> rfl

/-- Words of major 0x21 (R30, R33). -/
theorem test_decode_21 :
    decode 0b100001_00011_00101_00000_1_0_000_0_0_0000 = .instr (.xpin ⟨3, 5, 0, true, false, 0, false, false, 0⟩) ∧
    decode 0b100001_00000_00101_00000_1_0_000_0_0_0001 = .instr (.xunpin ⟨0, 5, 0, true, false, 0, false, false, 0⟩) ∧
    decode 0b100001_00011_00101_00110_1_0_000_0_0_0010 = .instr (.xrun ⟨3, 5, 6, true, false, 0, false, false, 0⟩) ∧
    decode 0b100001_00011_00101_00110_1_0_000_0_0_0011 = .instr (.xsplice ⟨3, 5, 6, true, false, 0, false, false, 0⟩) ∧
    decode 0b100001_00011_00101_00110_1_0_000_0_0_0100 = .instr (.xreap ⟨3, 5, 6, true, false, 0, false, false, 0⟩) ∧
    decode 0b100001_00011_00101_00000_1_0_000_0_0_0101 = .instr (.xlen ⟨3, 5, 0, true, false, 0, false, false, 0⟩) := by
  refine ⟨?_, ?_, ?_, ?_, ?_, ?_⟩ <;> rfl

/-- Words of major 0x22 (R30, R33). -/
theorem test_decode_22 :
    decode 0b100010_00001_00101_00000_1_0_000_0_0_0000 = .instr (.ringCfg ⟨1, 5, 0, true, false, 0, false, false, 0⟩) ∧
    decode 0b100010_00001_00000_00000_0_0_000_0_0_0001 = .instr (.ringPost ⟨1, 0, 0, false, false, 0, false, false, 0⟩) ∧
    decode 0b100010_00101_00001_00000_0_0_000_0_0_0010 = .instr (.qbindRing ⟨5, 1, 0, false, false, 0, false, false, 0⟩) ∧
    decode 0b100010_00011_00101_00000_0_0_000_0_0_0011 = .instr (.ringHdr ⟨3, 5, 0, false, false, 0, false, false, 0⟩) ∧
    decode 0b100010_00000_00101_00000_0_0_000_0_0_0100 = .instr (.ringDone ⟨0, 5, 0, false, false, 0, false, false, 0⟩) ∧
    decode 0b100010_00011_00001_00000_0_0_000_0_0_0101 = .instr (.ringStat ⟨3, 1, 0, false, false, 0, false, false, 0⟩) ∧
    decode 0b100010_00001_00000_00000_0_0_000_0_0_0110 = .instr (.ringBrk ⟨1, 0, 0, false, false, 0, false, false, 0⟩) := by
  and_intros <;> rfl

/-- Words of major 0x23 (R30, R33). -/
theorem test_decode_23 :
    decode 0b100011_00000_00101_00110_1_0_000_0_0_0000 = .instr (.kseal ⟨0, 5, 6, true, false, 0, false, false, 0⟩) ∧
    decode 0b100011_00000_00101_00110_1_0_000_0_0_0001 = .instr (.kopen ⟨0, 5, 6, true, false, 0, false, false, 0⟩) := by
  refine ⟨?_, ?_⟩ <;> rfl

/-- Words of major 0x28 (R30, R33). -/
theorem test_decode_28 :
    decode 0b101000_00011_00101_00110_1_0_010_1_0_0000 = .instr (.vadd ⟨3, 5, 6, true, false, 2, true, false, 0⟩) ∧
    decode 0b101000_00011_00101_00110_1_0_010_1_0_0001 = .instr (.vsub ⟨3, 5, 6, true, false, 2, true, false, 0⟩) ∧
    decode 0b101000_00011_00101_00110_1_0_010_1_0_0010 = .instr (.vmul ⟨3, 5, 6, true, false, 2, true, false, 0⟩) ∧
    decode 0b101000_00011_00101_00110_1_0_010_1_0_0011 = .instr (.vmac ⟨3, 5, 6, true, false, 2, true, false, 0⟩) ∧
    decode 0b101000_00011_00101_00110_1_0_010_1_0_0100 = .instr (.vmin ⟨3, 5, 6, true, false, 2, true, false, 0⟩) ∧
    decode 0b101000_00011_00101_00110_1_0_010_1_0_0101 = .instr (.vmax ⟨3, 5, 6, true, false, 2, true, false, 0⟩) ∧
    decode 0b101000_00011_00101_00110_1_0_010_1_0_0110 = .instr (.vdiv ⟨3, 5, 6, true, false, 2, true, false, 0⟩) ∧
    decode 0b101000_00011_00101_00110_1_0_010_1_0_0111 = .instr (.vrem ⟨3, 5, 6, true, false, 2, true, false, 0⟩) ∧
    decode 0b101000_00011_00101_00110_1_0_010_1_0_1000 = .instr (.vand ⟨3, 5, 6, true, false, 2, true, false, 0⟩) ∧
    decode 0b101000_00011_00101_00110_1_0_010_1_0_1001 = .instr (.vor ⟨3, 5, 6, true, false, 2, true, false, 0⟩) ∧
    decode 0b101000_00011_00101_00110_1_0_010_1_0_1010 = .instr (.vxor ⟨3, 5, 6, true, false, 2, true, false, 0⟩) ∧
    decode 0b101000_00011_00101_00110_1_0_010_1_0_1011 = .instr (.vsll ⟨3, 5, 6, true, false, 2, true, false, 0⟩) ∧
    decode 0b101000_00011_00101_00110_1_0_010_1_0_1100 = .instr (.vsrl ⟨3, 5, 6, true, false, 2, true, false, 0⟩) ∧
    decode 0b101000_00011_00101_00110_1_0_010_1_0_1101 = .instr (.vsra ⟨3, 5, 6, true, false, 2, true, false, 0⟩) ∧
    decode 0b101000_00011_00101_00110_1_0_010_1_0_1110 = .instr (.vadds ⟨3, 5, 6, true, false, 2, true, false, 0⟩) ∧
    decode 0b101000_00011_00101_00110_1_0_010_1_0_1111 = .instr (.vsubs ⟨3, 5, 6, true, false, 2, true, false, 0⟩) := by
  and_intros <;> rfl

/-- Words of major 0x29 (R30, R33). -/
theorem test_decode_29 :
    decode 0b101001_00011_00101_00000_1_0_010_1_0_0000 = .instr (.vsqrt ⟨3, 5, 0, true, false, 2, true, false, 0⟩) ∧
    decode 0b101001_00011_00101_00110_1_0_010_1_0_0001 = .instr (.vnmac ⟨3, 5, 6, true, false, 2, true, false, 0⟩) ∧
    decode 0b101001_00011_00101_00000_1_0_010_1_0_0010 = .instr (.vabs ⟨3, 5, 0, true, false, 2, true, false, 0⟩) ∧
    decode 0b101001_00011_00101_00000_1_0_010_1_0_0011 = .instr (.vneg ⟨3, 5, 0, true, false, 2, true, false, 0⟩) ∧
    decode 0b101001_00011_00101_00110_1_0_010_1_0_0100 = .instr (.vsgnj ⟨3, 5, 6, true, false, 2, true, false, 0⟩) ∧
    decode 0b101001_00011_00101_00000_1_0_010_1_0_0101 = .instr (.vexp2 ⟨3, 5, 0, true, false, 2, true, false, 0⟩) ∧
    decode 0b101001_00011_00101_00000_1_0_010_1_0_0110 = .instr (.vlog2 ⟨3, 5, 0, true, false, 2, true, false, 0⟩) ∧
    decode 0b101001_00011_00101_00000_1_0_010_1_0_0111 = .instr (.vrint ⟨3, 5, 0, true, false, 2, true, false, 0⟩) ∧
    decode 0b101001_00011_00101_00110_1_0_010_1_0_1000 = .instr (.vscale ⟨3, 5, 6, true, false, 2, true, false, 0⟩) := by
  and_intros <;> rfl

/-- Words of major 0x2A (R30, R33). -/
theorem test_decode_2A :
    decode 0b101010_100_101_00101_00110_1_010_1_0_0000 = .instr (.vcmpEq ⟨4, 5, 5, 6, true, 2, true, false⟩) ∧
    decode 0b101010_100_101_00101_00110_1_010_1_0_0001 = .instr (.vcmpNe ⟨4, 5, 5, 6, true, 2, true, false⟩) ∧
    decode 0b101010_100_101_00101_00110_1_010_1_0_0010 = .instr (.vcmpLt ⟨4, 5, 5, 6, true, 2, true, false⟩) ∧
    decode 0b101010_100_101_00101_00110_1_010_1_0_0011 = .instr (.vcmpGe ⟨4, 5, 5, 6, true, 2, true, false⟩) ∧
    decode 0b101010_100_101_00101_00110_1_010_1_0_0100 = .instr (.vcmpLe ⟨4, 5, 5, 6, true, 2, true, false⟩) ∧
    decode 0b101010_100_101_00101_00110_1_010_1_0_0101 = .instr (.vcmpGt ⟨4, 5, 5, 6, true, 2, true, false⟩) ∧
    decode 0b101010_100_101_00101_00110_1_010_1_0_0110 = .instr (.vcmpUn ⟨4, 5, 5, 6, true, 2, true, false⟩) ∧
    decode 0b101010_100_101_00101_00110_1_010_1_0_0111 = .instr (.vcmpOrd ⟨4, 5, 5, 6, true, 2, true, false⟩) := by
  and_intros <;> rfl

/-- Words of major 0x2B (R30, R33). -/
theorem test_decode_2B :
    decode 0b101011_011_101_110_00000000_010_1_0_0000 = .instr (.pand ⟨3, 5, 6, 0, 2, true, false⟩) ∧
    decode 0b101011_011_101_110_00000000_010_1_0_0001 = .instr (.por ⟨3, 5, 6, 0, 2, true, false⟩) ∧
    decode 0b101011_011_101_110_00000000_010_1_0_0010 = .instr (.pxor ⟨3, 5, 6, 0, 2, true, false⟩) ∧
    decode 0b101011_011_101_110_00000000_010_1_0_0011 = .instr (.pandn ⟨3, 5, 6, 0, 2, true, false⟩) ∧
    decode 0b101011_011_101_000_00000000_010_1_0_0100 = .instr (.pnot ⟨3, 5, 0, 0, 2, true, false⟩) ∧
    decode 0b101011_011_000_000_00000000_010_1_0_0101 = .instr (.pset ⟨3, 0, 0, 0, 2, true, false⟩) ∧
    decode 0b101011_011_101_000_00000000_010_1_0_0110 = .instr (.pfirst ⟨3, 5, 0, 0, 2, true, false⟩) ∧
    decode 0b101011_011_101_000_00000000_010_1_0_0111 = .instr (.pbrkb ⟨3, 5, 0, 0, 2, true, false⟩) ∧
    decode 0b101011_011_101_000_00000000_010_1_0_1000 = .instr (.pbrka ⟨3, 5, 0, 0, 2, true, false⟩) := by
  and_intros <;> rfl

/-- Words of major 0x2C (R30, R33). -/
theorem test_decode_2C :
    decode 0b101100_00011_00101_00000_1_0_010_1_0_0000 = .instr (.vmov ⟨3, 5, 0, true, false, 2, true, false, 0⟩) ∧
    decode 0b101100_00011_00101_00110_1_0_010_1_0_0001 = .instr (.vslideup ⟨3, 5, 6, true, false, 2, true, false, 0⟩) ∧
    decode 0b101100_00011_00101_00110_1_0_010_1_0_0010 = .instr (.vslidedn ⟨3, 5, 6, true, false, 2, true, false, 0⟩) ∧
    decode 0b101100_00011_00101_00110_1_0_010_1_0_0011 = .instr (.vperm ⟨3, 5, 6, true, false, 2, true, false, 0⟩) ∧
    decode 0b101100_00011_00101_00000_1_0_010_1_0_0100 = .instr (.vcompress ⟨3, 5, 0, true, false, 2, true, false, 0⟩) ∧
    decode 0b101100_00011_00101_00000_1_0_010_1_0_0101 = .instr (.vexpand ⟨3, 5, 0, true, false, 2, true, false, 0⟩) ∧
    decode 0b101100_00011_00000_00110_0_0_010_1_0_0110 = .instr (.vbcast ⟨3, 0, 6, false, false, 2, true, false, 0⟩) ∧
    decode 0b101100_00011_00101_00000_1_0_010_1_0_0111 = .instr (.vrev ⟨3, 5, 0, true, false, 2, true, false, 0⟩) ∧
    decode 0b101100_00011_00101_00110_1_0_000_0_0_1000 = .instr (.vext ⟨3, 5, 6, true, false, 0, false, false, 0⟩) ∧
    decode 0b101100_00011_00101_00110_1_0_000_0_0_1001 = .instr (.vins ⟨3, 5, 6, true, false, 0, false, false, 0⟩) := by
  and_intros <;> rfl

/-- Words of major 0x2D (R30, R33). -/
theorem test_decode_2D :
    decode 0b101101_00011_00101_00110_1_0_010_1_0_0000 = .instr (.vredOsum ⟨3, 5, 6, true, false, 2, true, false, 0⟩) ∧
    decode 0b101101_00011_00101_00110_1_0_010_1_0_0001 = .instr (.vredSum ⟨3, 5, 6, true, false, 2, true, false, 0⟩) ∧
    decode 0b101101_00011_00101_00110_1_0_010_1_0_0010 = .instr (.vredMax ⟨3, 5, 6, true, false, 2, true, false, 0⟩) ∧
    decode 0b101101_00011_00101_00110_1_0_010_1_0_0011 = .instr (.vredMin ⟨3, 5, 6, true, false, 2, true, false, 0⟩) ∧
    decode 0b101101_00011_00101_00110_1_0_010_1_0_0100 = .instr (.vredAnd ⟨3, 5, 6, true, false, 2, true, false, 0⟩) ∧
    decode 0b101101_00011_00101_00110_1_0_010_1_0_0101 = .instr (.vredOr ⟨3, 5, 6, true, false, 2, true, false, 0⟩) ∧
    decode 0b101101_00011_00101_00110_1_0_010_1_0_0110 = .instr (.vredXor ⟨3, 5, 6, true, false, 2, true, false, 0⟩) ∧
    decode 0b101101_00011_00101_00110_1_0_010_1_0_0111 = .instr (.vscanSum ⟨3, 5, 6, true, false, 2, true, false, 0⟩) ∧
    decode 0b101101_00011_00101_00110_1_0_010_1_0_1000 = .instr (.vscanMax ⟨3, 5, 6, true, false, 2, true, false, 0⟩) ∧
    decode 0b101101_00011_00101_00110_1_0_010_1_0_1001 = .instr (.vscanMin ⟨3, 5, 6, true, false, 2, true, false, 0⟩) ∧
    decode 0b101101_00011_00101_00110_1_0_010_1_0_1010 = .instr (.vredGsum ⟨3, 5, 6, true, false, 2, true, false, 0⟩) := by
  and_intros <;> rfl

/-- Words of major 0x2E (R30, R33). -/
theorem test_decode_2E :
    decode 0b101110_00011_00101_01010_1_0_010_1_0_0000 = .instr (.vcvt ⟨3, 5, 0xa, true, false, 2, true, false, 0⟩) ∧
    decode 0b101110_00011_00101_01010_1_0_010_1_0_0001 = .instr (.vcvtRtz ⟨3, 5, 0xa, true, false, 2, true, false, 0⟩) ∧
    decode 0b101110_00011_00101_01010_1_0_010_1_0_0010 = .instr (.vcvtSat ⟨3, 5, 0xa, true, false, 2, true, false, 0⟩) ∧
    decode 0b101110_00011_00101_01010_1_0_010_1_0_0011 = .instr (.vcvtf ⟨3, 5, 0xa, true, false, 2, true, false, 0⟩) ∧
    decode 0b101110_00011_00101_00000_1_0_010_1_0_0100 = .instr (.vpopc ⟨3, 5, 0, true, false, 2, true, false, 0⟩) ∧
    decode 0b101110_00011_00101_00000_1_0_010_1_0_0101 = .instr (.vfirst ⟨3, 5, 0, true, false, 2, true, false, 0⟩) ∧
    decode 0b101110_00011_00101_00000_1_0_010_1_0_0110 = .instr (.vfromp ⟨3, 5, 0, true, false, 2, true, false, 0⟩) ∧
    decode 0b101110_00011_00101_00000_1_0_010_1_0_0111 = .instr (.vtop ⟨3, 5, 0, true, false, 2, true, false, 0⟩) := by
  and_intros <;> rfl

/-- Words of major 0x2F (R30, R33). -/
theorem test_decode_2F :
    decode 0b101111_00011_00101_00110_1_0_010_1_0_0000 = .instr (.vaddVs ⟨3, 5, 6, true, false, 2, true, false, 0⟩) ∧
    decode 0b101111_00011_00101_00110_1_0_010_1_0_0001 = .instr (.vsubVs ⟨3, 5, 6, true, false, 2, true, false, 0⟩) ∧
    decode 0b101111_00011_00101_00110_1_0_010_1_0_0010 = .instr (.vmulVs ⟨3, 5, 6, true, false, 2, true, false, 0⟩) ∧
    decode 0b101111_00011_00101_00110_1_0_010_1_0_0011 = .instr (.vmacVs ⟨3, 5, 6, true, false, 2, true, false, 0⟩) ∧
    decode 0b101111_00011_00101_00110_1_0_010_1_0_0100 = .instr (.vminVs ⟨3, 5, 6, true, false, 2, true, false, 0⟩) ∧
    decode 0b101111_00011_00101_00110_1_0_010_1_0_0101 = .instr (.vmaxVs ⟨3, 5, 6, true, false, 2, true, false, 0⟩) ∧
    decode 0b101111_00011_00101_00110_1_0_010_1_0_0110 = .instr (.vdivVs ⟨3, 5, 6, true, false, 2, true, false, 0⟩) ∧
    decode 0b101111_00011_00101_00110_1_0_010_1_0_1000 = .instr (.vandVs ⟨3, 5, 6, true, false, 2, true, false, 0⟩) ∧
    decode 0b101111_00011_00101_00110_1_0_010_1_0_1001 = .instr (.vorVs ⟨3, 5, 6, true, false, 2, true, false, 0⟩) ∧
    decode 0b101111_00011_00101_00110_1_0_010_1_0_1010 = .instr (.vxorVs ⟨3, 5, 6, true, false, 2, true, false, 0⟩) ∧
    decode 0b101111_00011_00101_00110_1_0_010_1_0_1011 = .instr (.vsllVs ⟨3, 5, 6, true, false, 2, true, false, 0⟩) ∧
    decode 0b101111_00011_00101_00110_1_0_010_1_0_1100 = .instr (.vsrlVs ⟨3, 5, 6, true, false, 2, true, false, 0⟩) ∧
    decode 0b101111_00011_00101_00110_1_0_010_1_0_1101 = .instr (.vsraVs ⟨3, 5, 6, true, false, 2, true, false, 0⟩) ∧
    decode 0b101111_00011_00101_00110_1_0_010_1_0_1110 = .instr (.vaddsVs ⟨3, 5, 6, true, false, 2, true, false, 0⟩) ∧
    decode 0b101111_00011_00101_00110_1_0_010_1_0_1111 = .instr (.vsubsVs ⟨3, 5, 6, true, false, 2, true, false, 0⟩) := by
  and_intros <;> rfl

/-- Words of major 0x30 (R30, R33). -/
theorem test_decode_30 :
    decode 0b110000_00011_00101_00000_1_0_010_1_0_0000 = .instr (.vld ⟨3, 5, 0, true, false, 2, true, false, 0⟩) ∧
    decode 0b110000_00011_00101_00110_1_0_010_1_0_0001 = .instr (.vlds ⟨3, 5, 6, true, false, 2, true, false, 0⟩) ∧
    decode 0b110000_00011_00101_00110_1_0_010_1_0_0010 = .instr (.vldt ⟨3, 5, 6, true, false, 2, true, false, 0⟩) ∧
    decode 0b110000_00011_00101_00000_1_0_010_1_0_1000 = .instr (.vldseg2 ⟨3, 5, 0, true, false, 2, true, false, 0⟩) ∧
    decode 0b110000_00011_00101_00000_1_0_010_1_0_1001 = .instr (.vldseg3 ⟨3, 5, 0, true, false, 2, true, false, 0⟩) ∧
    decode 0b110000_00011_00101_00000_1_0_010_1_0_1010 = .instr (.vldseg4 ⟨3, 5, 0, true, false, 2, true, false, 0⟩) ∧
    decode 0b110000_00011_00101_00000_1_0_010_1_0_1011 = .instr (.vldseg5 ⟨3, 5, 0, true, false, 2, true, false, 0⟩) ∧
    decode 0b110000_00011_00101_00000_1_0_010_1_0_1100 = .instr (.vldseg6 ⟨3, 5, 0, true, false, 2, true, false, 0⟩) ∧
    decode 0b110000_00011_00101_00000_1_0_010_1_0_1101 = .instr (.vldseg7 ⟨3, 5, 0, true, false, 2, true, false, 0⟩) ∧
    decode 0b110000_00011_00101_00000_1_0_010_1_0_1110 = .instr (.vldseg8 ⟨3, 5, 0, true, false, 2, true, false, 0⟩) := by
  and_intros <;> rfl

/-- Words of major 0x31 (R30, R33). -/
theorem test_decode_31 :
    decode 0b110001_00011_00101_00000_1_0_010_1_0_0000 = .instr (.vst ⟨3, 5, 0, true, false, 2, true, false, 0⟩) ∧
    decode 0b110001_00011_00101_00110_1_0_010_1_0_0001 = .instr (.vsts ⟨3, 5, 6, true, false, 2, true, false, 0⟩) ∧
    decode 0b110001_00011_00101_00110_1_0_010_1_0_0010 = .instr (.vstt ⟨3, 5, 6, true, false, 2, true, false, 0⟩) ∧
    decode 0b110001_00011_00101_00000_1_0_010_1_0_1000 = .instr (.vstseg2 ⟨3, 5, 0, true, false, 2, true, false, 0⟩) ∧
    decode 0b110001_00011_00101_00000_1_0_010_1_0_1001 = .instr (.vstseg3 ⟨3, 5, 0, true, false, 2, true, false, 0⟩) ∧
    decode 0b110001_00011_00101_00000_1_0_010_1_0_1010 = .instr (.vstseg4 ⟨3, 5, 0, true, false, 2, true, false, 0⟩) ∧
    decode 0b110001_00011_00101_00000_1_0_010_1_0_1011 = .instr (.vstseg5 ⟨3, 5, 0, true, false, 2, true, false, 0⟩) ∧
    decode 0b110001_00011_00101_00000_1_0_010_1_0_1100 = .instr (.vstseg6 ⟨3, 5, 0, true, false, 2, true, false, 0⟩) ∧
    decode 0b110001_00011_00101_00000_1_0_010_1_0_1101 = .instr (.vstseg7 ⟨3, 5, 0, true, false, 2, true, false, 0⟩) ∧
    decode 0b110001_00011_00101_00000_1_0_010_1_0_1110 = .instr (.vstseg8 ⟨3, 5, 0, true, false, 2, true, false, 0⟩) := by
  and_intros <;> rfl

/-- Words of major 0x32 (R30, R33). -/
theorem test_decode_32 :
    decode 0b110010_00011_00101_00110_1_0_010_1_0_0000 = .instr (.vgather32 ⟨3, 5, 6, true, false, 2, true, false, 0⟩) ∧
    decode 0b110010_00011_00101_00110_1_0_010_1_0_0001 = .instr (.vgather64 ⟨3, 5, 6, true, false, 2, true, false, 0⟩) ∧
    decode 0b110010_00011_00101_00110_1_0_010_1_0_0010 = .instr (.vgatherX32 ⟨3, 5, 6, true, false, 2, true, false, 0⟩) ∧
    decode 0b110010_00011_00101_00110_1_0_010_1_0_0011 = .instr (.vgatherX64 ⟨3, 5, 6, true, false, 2, true, false, 0⟩) ∧
    decode 0b110010_00011_00101_00110_1_0_010_1_0_1000 = .instr (.vscatter32 ⟨3, 5, 6, true, false, 2, true, false, 0⟩) ∧
    decode 0b110010_00011_00101_00110_1_0_010_1_0_1001 = .instr (.vscatter64 ⟨3, 5, 6, true, false, 2, true, false, 0⟩) ∧
    decode 0b110010_00011_00101_00110_1_0_010_1_0_1010 = .instr (.vscatterX32 ⟨3, 5, 6, true, false, 2, true, false, 0⟩) ∧
    decode 0b110010_00011_00101_00110_1_0_010_1_0_1011 = .instr (.vscatterX64 ⟨3, 5, 6, true, false, 2, true, false, 0⟩) := by
  and_intros <;> rfl

/-- Words of major 0x33 (R30, R33). -/
theorem test_decode_33 :
    decode 0b110011_00011_00101_00110_1_0_010_1_0_0000 = .instr (.vamoAdd ⟨3, 5, 6, true, false, 2, true, false, 0⟩) ∧
    decode 0b110011_00011_00101_00110_1_0_010_1_0_0001 = .instr (.vamoMin ⟨3, 5, 6, true, false, 2, true, false, 0⟩) ∧
    decode 0b110011_00011_00101_00110_1_0_010_1_0_0010 = .instr (.vamoMax ⟨3, 5, 6, true, false, 2, true, false, 0⟩) ∧
    decode 0b110011_00011_00101_00110_1_0_010_1_0_0011 = .instr (.vamoAnd ⟨3, 5, 6, true, false, 2, true, false, 0⟩) ∧
    decode 0b110011_00011_00101_00110_1_0_010_1_0_0100 = .instr (.vamoOr ⟨3, 5, 6, true, false, 2, true, false, 0⟩) ∧
    decode 0b110011_00011_00101_00110_1_0_010_1_0_0101 = .instr (.vamoXor ⟨3, 5, 6, true, false, 2, true, false, 0⟩) ∧
    decode 0b110011_00011_00101_00110_1_0_010_1_0_0110 = .instr (.vamoSwp ⟨3, 5, 6, true, false, 2, true, false, 0⟩) ∧
    decode 0b110011_00011_00101_00110_1_0_010_1_0_1000 = .instr (.vamofAdd ⟨3, 5, 6, true, false, 2, true, false, 0⟩) ∧
    decode 0b110011_00011_00101_00110_1_0_010_1_0_1001 = .instr (.vamofMin ⟨3, 5, 6, true, false, 2, true, false, 0⟩) ∧
    decode 0b110011_00011_00101_00110_1_0_010_1_0_1010 = .instr (.vamofMax ⟨3, 5, 6, true, false, 2, true, false, 0⟩) ∧
    decode 0b110011_00011_00101_00110_1_0_010_1_0_1011 = .instr (.vamofAnd ⟨3, 5, 6, true, false, 2, true, false, 0⟩) ∧
    decode 0b110011_00011_00101_00110_1_0_010_1_0_1100 = .instr (.vamofOr ⟨3, 5, 6, true, false, 2, true, false, 0⟩) ∧
    decode 0b110011_00011_00101_00110_1_0_010_1_0_1101 = .instr (.vamofXor ⟨3, 5, 6, true, false, 2, true, false, 0⟩) ∧
    decode 0b110011_00011_00101_00110_1_0_010_1_0_1110 = .instr (.vamofSwp ⟨3, 5, 6, true, false, 2, true, false, 0⟩) := by
  and_intros <;> rfl

/-- Words of major 0x34 (R30, R33). -/
theorem test_decode_34 :
    decode 0b110100_00011_00101_00110_1_0_010_1_0_0000 = .instr (.mmab ⟨3, 5, 6, true, false, 2, true, false, 0⟩) ∧
    decode 0b110100_00011_00101_00110_1_0_010_1_0_0001 = .instr (.mmah ⟨3, 5, 6, true, false, 2, true, false, 0⟩) ∧
    decode 0b110100_00011_00000_00000_0_0_010_1_0_0010 = .instr (.mzero ⟨3, 0, 0, false, false, 2, true, false, 0⟩) ∧
    decode 0b110100_00011_00101_00110_1_0_010_1_0_0011 = .instr (.vwmac ⟨3, 5, 6, true, false, 2, true, false, 0⟩) ∧
    decode 0b110100_00011_00101_00110_1_0_010_1_0_0100 = .instr (.vbnorm ⟨3, 5, 6, true, false, 2, true, false, 0⟩) ∧
    decode 0b110100_00011_00101_00000_1_0_010_1_0_0101 = .instr (.vbexpF32 ⟨3, 5, 0, true, false, 2, true, false, 0⟩) ∧
    decode 0b110100_00011_00101_00000_1_0_010_1_0_0110 = .instr (.vbexpGet ⟨3, 5, 0, true, false, 2, true, false, 0⟩) ∧
    decode 0b110100_00011_00101_00000_1_0_010_1_0_0111 = .instr (.vbexpSet ⟨3, 5, 0, true, false, 2, true, false, 0⟩) := by
  and_intros <;> rfl

/-- Words of major 0x35 (R30, R33). -/
theorem test_decode_35 :
    decode 0b110101_00011_00101_00100_1_0_010_1_0_0000 = .instr (.vgroup ⟨3, 5, 4, true, false, 2, true, false, 0⟩) ∧
    decode 0b110101_00011_00101_00001_0_0_100_0_0_0001 = .instr (.vxsect ⟨3, 5, 1, false, false, 4, false, false, 0⟩) ∧
    decode 0b110101_00011_00101_00110_1_0_100_0_0_0010 = .instr (.vmerge ⟨3, 5, 6, true, false, 4, false, false, 0⟩) ∧
    decode 0b110101_00011_00101_00110_1_0_010_1_0_0011 = .instr (.vsegsum ⟨3, 5, 6, true, false, 2, true, false, 0⟩) ∧
    decode 0b110101_00011_00101_00110_1_0_010_1_0_0100 = .instr (.vsegmax ⟨3, 5, 6, true, false, 2, true, false, 0⟩) ∧
    decode 0b110101_00011_00101_00110_1_0_010_1_0_0101 = .instr (.vsegmin ⟨3, 5, 6, true, false, 2, true, false, 0⟩) := by
  refine ⟨?_, ?_, ?_, ?_, ?_, ?_⟩ <;> rfl

/-- Words of major 0x36 (R30, R33). -/
theorem test_decode_36 :
    decode 0b110110_00000_00101_00000_1_0_000_0_0_0000 = .instr (.tcon ⟨0, 5, 0, true, false, 0, false, false, 0⟩) := by
  rfl

/-- Words of major 0x37 (R30, R33). -/
theorem test_decode_37 :
    decode 0b110111_00011_00101_00110_0_0_010_1_0_0010 = .instr (.vdesc ⟨3, 5, 6, false, false, 2, true, false, 2⟩) ∧
    decode 0b110111_00011_00010_00110_0_0_010_1_0_0100 = .instr (.vpnode ⟨3, 2, 6, false, false, 2, true, false, 0⟩) ∧
    decode 0b110111_00011_00010_00000_0_0_010_1_0_0101 = .instr (.vpget ⟨3, 2, 0, false, false, 2, true, false, 0⟩) ∧
    decode 0b110111_00000_00010_00000_0_0_010_1_0_0110 = .instr (.vpclr ⟨0, 2, 0, false, false, 2, true, false, 0⟩) := by
  refine ⟨?_, ?_, ?_, ?_⟩ <;> rfl

/-! ## Witnesses -/

/-- A package on which one thread of partition 0 runs with nothing queued, at the setting of log entry 14. -/
def lab : State := { State.reset.withFetchWord 32 0 with agenda := [] }

/-- The same with the word `add g3, g3, g4` where it fetches next. -/
def labAdd : State := State.reset.withFetchWord 32 0x04632000

/-- The leaf that maps the first 32 GiB there. -/
def theLeaf : Leaf := { word := 0x3F, at_ := 0x8000, bits := 35 }

/-- The thread of `lab` changed. -/
def labWith (f : Thread → Thread) : State := lab.mod f

theorem witness_EncodeDecode : ∃ i w, i.wf = true ∧ encode i = some w := ⟨.add ⟨3, 5, 6, true, false⟩, _, rfl, rfl⟩

theorem witness_DecodeEncode : ∃ w i, decode w = .instr i := ⟨0x04632000, _, rfl⟩

theorem witness_EmptyMajorsRejected :
    ((0x03FFFFFF : BitVec 32).extractLsb' 26 6 = 0x00#6) ∧
    (0x24#6 ≤ (0x90000000 : BitVec 32).extractLsb' 26 6 ∧ (0x9FFFFFFF : BitVec 32).extractLsb' 26 6 ≤ 0x27#6) ∧
    0x38#6 ≤ (0xE0000000 : BitVec 32).extractLsb' 26 6 := by decide

theorem witness_StepRunsDecoded_event : ∃ (s : State) (i : Instr) (rest : List Choice), s.agenda = .event i :: rest ∧ s.layout.mixed = false ∧
    carriesOn i = false := ⟨{ lab with agenda := [.event .firmwareReady] }, _, _, rfl, rfl, rfl⟩

/-- With 3 of the 512 islands flipped. -/
theorem witness_StepRunsDecoded_mixed : ∃ s : State, s.layout.mixed = true ∧ s.agenda = [] ∧ s.background = none :=
  ⟨{ lab with layout := { lab.layout with shadow := some [], flipped := 3 } }, rfl, rfl, by decide +kernel⟩

theorem witness_StepRunsDecoded_scalar : ∃ (s s' : State) (rest : List Choice) (w : BitVec 32) (i : Instr), s.agenda = .scalar :: rest ∧
    s.cur.status = .running ∧ s.layout.mixed = false ∧ ({ s with agenda := rest } : State).fetchWord = (.ok w, s') ∧ decode w = .instr i :=
  ⟨labAdd, ({ labAdd with agenda := [] } : State).fetchWord.2, [], 0x04632000, .add ⟨3, 3, 4, false, false⟩, rfl, rfl, rfl, rfl, rfl⟩

theorem witness_StepRunsDecoded_turn : ∃ (s s' : State) (w : BitVec 32) (i : Instr), s.agenda = [] ∧ s.background = none ∧
    s.cur.status = .running ∧ s.layout.mixed = false ∧ s.fetchWord = (.ok w, s') ∧ decode w = .instr i :=
  ⟨{ labAdd with agenda := [] }, ({ labAdd with agenda := [] } : State).fetchWord.2, 0x04632000, .add ⟨3, 3, 4, false, false⟩,
    rfl, rfl, rfl, rfl, rfl, rfl⟩

/-- A state whose line at `pa` has been accessed through the leaf. -/
def seen (s : State) (pa : Nat) : State := s.useLines theLeaf.word pa 1

/-- Its g1 at 0x20000. -/
def labAt : State := labWith (fun t => t.gwrite 1 0x20000)

/-- The same with another leaf word in the table. -/
def labLeaf (w : Nat) : State := { labAt with mem := labAt.mem.write 0x8000 (leBytes 8 w) }

/-- A load or store of g4 at g1. -/
def atG1 : FmtSI := ⟨4, 1, false, 0⟩

/-- A queued `vadd`, held at a level where that is not 0. -/
def queuedAdd (level : BitVec 4) : Entry :=
  { word := 0xA0000000, pc := 0x10000, seq := 0, slot := 0, vt := 2, vl := 4, trl := 0, opa := 0, opb := 0, lateA := none, lateB := none
    dirty := 0, deferred := none, running := none, level := level, frame := false, epoch := 0, phase := .unstarted }

/-- `lab` in privileged mode, its g1 at 0x20000. -/
def labPriv : State := labAt.mod (fun t => { t with priv := true })

/-- `labPriv` with one entry queued. -/
def labHeld (level : BitVec 4) : State := labPriv.mod (fun t => { t with queue := [queuedAdd level] })

theorem witness_FetchReadsMemory : ∃ (s s1 : State) (pa : Nat) (l : Leaf),
    s.scalarCheck s.cur.ctx s.cur.pc.toNat 4 Need.exec = (.ok (pa, l), s1) ∧ s.cur.buffered pa = none ∧
    (s1.touch s.cur.ctx s.cur.pc.toNat l false).wild = [] :=
  ⟨labAdd, seen labAdd 0x10000, 0x10000, theLeaf, rfl, rfl, rfl⟩

theorem witness_FetchReadsMemory_trap : ∃ (s s1 : State) (cause : BitVec 8) (level : Nat),
    s.scalarCheck s.cur.ctx s.cur.pc.toNat 4 Need.exec = (.error (cause, level), s1) ∧ s.cur.queue = [] :=
  ⟨labWith (fun t => { t with pc := 0x10000000000 }), labWith (fun t => { t with pc := 0x10000000000 }), 0x4D, _, rfl, rfl⟩

theorem witness_IllegalWordTraps : ∃ (s s' : State) (rest : List Choice) (w : BitVec 32) (r : Reject), s.agenda = .scalar :: rest ∧
    s.cur.status = .running ∧ s.layout.mixed = false ∧ ({ s with agenda := rest } : State).fetchWord = (.ok w, s') ∧ decode w = .reject r ∧
    s'.cur.queue = [] ∧ s'.cur.busy = false :=
  ⟨{ lab with agenda := [.scalar] }, lab.fetchWord.2, [], 0, .majorIllegal, rfl, rfl, rfl, rfl, rfl, rfl, rfl⟩

theorem witness_AluRegisterResults (f : FmtSR) : Ready lab [(f.ga, f.sa, 0), (f.gb, f.sb, 1)] [f.gd] := ready_of_empty rfl rfl _ _

theorem witness_AluUnaryResults (f : FmtSR) : Ready lab [(f.ga, f.sa, 0)] [f.gd] := ready_of_empty rfl rfl _ _

theorem witness_AluImmediateResults (f : FmtSI) (g : FmtSU) : Ready lab [(f.ga, f.sa, 0)] [f.gd] ∧ Ready lab [] [g.gd] :=
  ⟨ready_of_empty rfl rfl _ _, ready_of_empty rfl rfl _ _⟩

theorem witness_BranchResults (f : FmtSB) : Ready lab [(f.ga, f.strict, 0), (f.gb, f.strict, 1)] [] := ready_of_empty rfl rfl _ _

theorem witness_JumpResults : Ready labAt [] [4] ∧ Ready labAt [(1, false, 0)] [4] ∧
    (labAt.cur.gread 1 + (4 : BitVec 15).signExtend 64).toNat % 4 = 0 ∧ (labAt.cur.gread 1 + (3 : BitVec 15).signExtend 64).toNat % 4 ≠ 0 ∧
    labAt.cur.queue = [] :=
  ⟨ready_of_empty rfl rfl _ _, ready_of_empty rfl rfl _ _, by decide +kernel, by decide +kernel, rfl⟩

/-- Accesses of up to 8 bytes reach 0x20000. -/
theorem lab_reaches (need : Need) (n : Nat) (hn : n ∈ [1, 2, 4, 8]) (h : need ∈ [Need.load, Need.store, Need.both]) :
    Reaches labAt (labAt.cur.gread 1 + (0 : BitVec 15).signExtend 64) n need 0x20000 theLeaf (seen labAt 0x20000) := by
  simp only [List.mem_cons, List.not_mem_nil, or_false] at h hn
  rcases h with rfl | rfl | rfl <;> rcases hn with rfl | rfl | rfl | rfl <;>
    exact ⟨rfl, by decide +kernel, rfl, fun _ => rfl, by decide +kernel⟩

theorem witness_ScalarLoadResults : ∀ x ∈ loadTable, ∃ (f : FmtSI) (s s1 : State) (pa : Nat) (l : Leaf), Ready s [(f.ga, f.sa, 0)] [f.gd] ∧
    Reaches s (s.cur.gread f.ga + f.imm.signExtend 64) x.2.1 Need.load pa l s1 ∧
    (accessed s s1 (s.cur.gread f.ga + f.imm.signExtend 64) l false pa).wild = [] := fun x hx =>
  ⟨atG1, labAt, seen labAt 0x20000, 0x20000, theLeaf, ready_of_empty rfl rfl _ _, lab_reaches _ _ (by revert x; decide) (by decide), by decide +kernel⟩

theorem witness_ScalarStoreResults : ∀ x ∈ storeTable, ∃ (f : FmtSI) (s s1 : State) (pa : Nat) (l : Leaf), wellFormed s ∧
    Ready s [(f.ga, f.sa, 0)] [f.gd] ∧ Reaches s (s.cur.gread f.ga + f.imm.signExtend 64) x.2 Need.store pa l s1 := fun x hx =>
  ⟨atG1, labAt, seen labAt 0x20000, 0x20000, theLeaf, rfl, ready_of_empty rfl rfl _ _, lab_reaches _ _ (by revert x; decide) (by decide)⟩

theorem witness_AccessFrame : ∃ (s s1 : State) (ea : Word) (size : Nat) (need : Need) (pa : Nat) (l : Leaf), wellFormed s ∧
    s.scalarCheck s.cur.ctx ea.toNat size need = (.ok (pa, l), s1) ∧ (leafBit l.word 7 = true ∧ leafBit l.word 8 = true ∧
      tractOf pa = s.cur.slot / 512) :=
  ⟨labLeaf 0x1BF, seen (labLeaf 0x1BF) 0x20000, 0x20000, 8, Need.store, 0x20000, { word := 0x1BF, at_ := 0x8000, bits := 35 }, rfl, rfl, rfl, rfl, rfl⟩

theorem witness_ScalarAccessTraps_misaligned : (labAt.cur.gread 1 + (1 : BitVec 15).signExtend 64).toNat % 8 ≠ 0 := by decide +kernel

theorem witness_ScalarAccessTraps_unmapped : (labWith (fun t => t.gwrite 1 0x10000000000)).walk lab.cur.ctx 0x10000000000 = .invalid 2 ∧
    (labWith (fun t => t.gwrite 1 0x10000000000)).tlbHit lab.cur.ctx 0x10000000000 = none := by decide +kernel

theorem witness_ScalarAccessTraps_refused : (labLeaf 0x33).walk lab.cur.ctx 0x20000 = .leaf { word := 0x33, at_ := 0x8000, bits := 35 } ∧
    leafBit 0x33 2 = false ∧ leafBit 0x33 3 = false := by decide +kernel

theorem witness_ScalarAccessTraps_formatted : (labLeaf 0x203F).walk lab.cur.ctx 0x20000 = .leaf { word := 0x203F, at_ := 0x8000, bits := 35 } ∧
    leafBit 0x203F 13 = true ∧ leafBit 0x203F 2 = true ∧ leafBit 0x203F 3 = true ∧ leafBit 0x203F 5 = true ∧
    (labLeaf 0x203F).keyValid 0 (leafKey 0x203F) = true ∧ inAperture 0x20000 = false := by decide +kernel

theorem witness_ScalarAccessTraps_key : let s := labAt.mod (fun t => { t with keydef := 5 })
    (s.cur.gread 1).toNat < 2 ^ 56 ∧ s.tlbHit s.cur.ctx 0x20000 = none ∧ s.keyValid s.cur.part.toNat s.cur.keydef.toNat = false := by decide +kernel

theorem witness_ScalarAccessTraps_poisoned : ({ labAt with poison := [0x20000 / 32] } : State).walk lab.cur.ctx 0x20000 = .leaf theLeaf ∧
    leafBit theLeaf.word 13 = false ∧ (lab.regionAt 0x20000).isSome = false ∧
    ({ labAt with poison := [0x20000 / 32] } : State).poisoned (0x20000 / 128 * 128) 128 = true ∧
    ({ labAt with poison := [0x20000 / 32] } : State).copyMeets 0x20000 8 false = false := by decide +kernel

theorem witness_SpecialReads (f : FmtSI) : Ready labPriv [] [f.gd] ∧ labPriv.cur.priv = true ∧ ∀ x ∈ specialTable, x.2.2 labPriv.cur :=
  ⟨ready_of_empty rfl rfl _ _, rfl, by simp [specialTable, labPriv, labAt, labWith, lab, Thread.waited]; decide⟩

theorem witness_SpecialReads_vcp : ∃ (s : State) (e : Entry) (rest : List Entry), Ready s [] [3] ∧ s.cur.queue = e :: rest ∧
    (∀ x ∈ s.cur.queue, x.held = false) ∧ s.cur.es = 0 ∧ isFrame e.word = false ∧ e.running = none :=
  ⟨labHeld 0, queuedAdd 0, [], ⟨rfl, rfl, by simp, by decide⟩, rfl, by decide, rfl, rfl, rfl⟩

/-- An entry that has dispatched and reached group 2. -/
def reachedAdd : Entry :=
  { queuedAdd 0 with phase := .done { groups := 0, segs := 0, flags := 0, fx := none, rowp := none, dirty := 0, deferred := none, hand := .nothing
                                      span := 0, reached := 2, limit := 3, needs := [], micro := 0 } }

/-- `lab` with it queued. -/
def labReached : State := labWith (fun t => { t with queue := [reachedAdd] })

theorem witness_SpecialReads_reached : Ready labReached [] [3] ∧ labReached.cur.queue = [reachedAdd] ∧
    (∀ x ∈ labReached.cur.queue, x.held = false) ∧ labReached.cur.es = 0 ∧ isFrame reachedAdd.word = false ∧ reachedAdd.running = none :=
  ⟨⟨by decide +kernel, by decide +kernel, by decide, by decide +kernel⟩, rfl, by decide +kernel, rfl, by decide, rfl⟩

theorem witness_SpecialWrites (f : FmtSI) : Ready labPriv [(f.ga, f.sa, 0)] [] ∧ labPriv.cur.priv = true ∧ labPriv.cur.waited = [] :=
  ⟨ready_of_empty rfl rfl _ _, rfl, rfl⟩

theorem witness_SpecialTraps : lab.cur.queue = [] ∧ lab.cur.priv = false ∧ 0x400 ≤ (0x400 : BitVec 15).toNat ∧
    (0x3FF : BitVec 15).toNat ∉ specialNumbers ∧ (0x3FF : BitVec 15).toNat < 0x400 ∧ (0x032 : BitVec 15).toNat ∈ readOnlyNumbers ∧
    labPriv.cur.queue = [] ∧ labPriv.cur.priv = true ∧ (0x40C : BitVec 15).toNat ∉ specialNumbers ∧ (0x407 : BitVec 15).toNat ∈ readOnlyNumbers := by
  decide +kernel

theorem witness_LengthWrites (f : FmtSR) (g : FmtSI) : Ready lab [(f.ga, f.sa, 0)] [f.gd] ∧ Ready lab [(g.ga, g.sa, 0)] [] :=
  ⟨ready_of_empty rfl rfl _ _, ready_of_empty rfl rfl _ _⟩

theorem witness_TypeWrites (f : FmtSR) : Ready labAt [(f.ga, f.sa, 0)] [f.gd] ∧ 1 ≤ lab.cur.lg ∧ lab.cur.lg ≤ 8 ∧
    acceptedType lab.cur.lg 0xC02 ∧ ¬acceptedType lab.cur.lg 0xC01 ∧ ¬acceptedType lab.cur.lg 0x1002 ∧ ¬acceptedType lab.cur.lg 0x00E := by
  refine ⟨ready_of_empty rfl rfl _ _, by decide, by decide, ?_, ?_, ?_, ?_⟩ <;> (unfold acceptedType; decide +kernel)

theorem witness_StartWrites : ∃ (s : State) (e : Entry), s.cur.priv = true ∧ s.cur.released = 0 ∧ topLevel s.cur.queue ≠ 0 ∧
    s.cur.queue.find? (fun x => x.level.toNat == topLevel s.cur.queue) = some e ∧ isFrame e.word = false ∧ Ready s [(1, true, 0)] [] :=
  ⟨labHeld 1, queuedAdd 1, rfl, rfl, by decide, rfl, rfl, ⟨rfl, rfl, by decide, by simp⟩⟩

theorem witness_StartWrites_none : labPriv.cur.priv = true ∧ topLevel labPriv.cur.queue = 0 ∧ labPriv.cur.waited = [] ∧
    Ready labPriv [(1, true, 0)] [] := ⟨rfl, rfl, rfl, ready_of_empty rfl rfl _ _⟩

/-- No strong access has touched `lab`, but that of the leaf. -/
theorem lab_coherent (write : Bool) (n : Nat) (hn : n ∈ [4, 8]) :
    Coherent (seen labAt 0x20000) (accessed labAt (seen labAt 0x20000) (labAt.cur.gread 1) theLeaf write 0x20000) 0x20000 n := by
  have h : (seen labAt 0x20000).sizes = [] := rfl
  have h' : (seen labAt 0x20000).strong = [] := rfl
  refine ⟨by simp [State.mixedBytes, h'], by simp [h], rfl, ?_, ?_⟩
  · revert write n; decide +kernel
  · revert write; decide +kernel

theorem witness_AtomicResults_scalar : ∀ x ∈ atomicTable, ∃ (f : FmtAtomic) (s s1 : State) (pa : Nat) (l : Leaf),
    Ready s [(f.ga, f.sa, 0), (f.gb, f.sb, 1)] [f.gd] ∧ f.order.getLsbD 1 = true ∧ s.cur.waited = [] ∧
    Reaches s (s.cur.gread f.ga) x.2.1 Need.both pa l s1 ∧ ∀ write : Bool, Coherent s1 (accessed s s1 (s.cur.gread f.ga) l write pa) pa x.2.1 :=
  fun x hx =>
  ⟨⟨4, 1, 2, true, true, 2, 0⟩, labAt, seen labAt 0x20000, 0x20000, theLeaf, ready_of_empty rfl rfl _ _, rfl, rfl,
    lab_reaches Need.both _ (by revert x; decide) (by decide), fun write => lab_coherent write _ (by revert x; decide)⟩

theorem witness_OrderedAccessResults : ∃ (f : FmtMem) (s s1 : State) (pa : Nat) (l : Leaf), Ready s [(f.ga, f.sa, 0)] [f.gd] ∧ s.cur.waited = [] ∧
    Reaches s (s.cur.gread f.ga) 4 Need.load pa l s1 ∧ Reaches s (s.cur.gread f.ga) 8 Need.load pa l s1 ∧
    Reaches s (s.cur.gread f.ga) 4 Need.store pa l s1 ∧ Reaches s (s.cur.gread f.ga) 8 Need.store pa l s1 ∧
    ∀ write : Bool, ∀ n ∈ [4, 8], Coherent s1 (accessed s s1 (s.cur.gread f.ga) l write pa) pa n :=
  ⟨⟨4, 1, 0, true, false, 0⟩, labAt, seen labAt 0x20000, 0x20000, theLeaf, ready_of_empty rfl rfl _ _, rfl, lab_reaches Need.load 4 (by decide) (by decide),
    lab_reaches Need.load 8 (by decide) (by decide), lab_reaches Need.store 4 (by decide) (by decide),
    lab_reaches Need.store 8 (by decide) (by decide), lab_coherent⟩

/-- await at g1: memory there holds 0, which g2 holds too and g1 does not. -/
theorem witness_AwaitAndWake : ∃ (s s1 : State) (pa : Nat) (l : Leaf), Ready s [(1, true, 0), (2, true, 1)] [4] ∧
    Ready s [(1, true, 0), (1, true, 1)] [4] ∧ Reaches s (s.cur.gread 1) 8 Need.load pa l s1 ∧
    Coherent s1 (accessed s s1 (s.cur.gread 1) l false pa) pa 8 ∧
    BitVec.ofNat 64 ((accessed s s1 (s.cur.gread 1) l false pa).mem.num pa 8) = s.cur.gread 2 ∧ s.cur.woken = false ∧
    BitVec.ofNat 64 ((accessed s s1 (s.cur.gread 1) l false pa).mem.num pa 8) ≠ s.cur.gread 1 ∧
    s.scalarCheck s.cur.ctx (s.cur.gread 1).toNat 1 Need.store = (.ok (pa, l), s1) :=
  ⟨labAt, seen labAt 0x20000, 0x20000, theLeaf, ready_of_empty rfl rfl _ _, ready_of_empty rfl rfl _ _, ⟨rfl, by decide +kernel, rfl, fun _ => rfl, by decide +kernel⟩,
    lab_coherent false 8 (by decide), by decide +kernel, rfl, by decide +kernel, rfl⟩

/-- `lab` with barrier 5 of its crew set up, g1 a value, a token and a bar.sync under way. -/
def labBar (b : Barrier) (x : Word) (k : Token) (syncing : Option (BitVec 6 × Word)) : State :=
  { (labWith (fun t => ({ t.gwrite 1 x with syncing := syncing } : Thread).setToken 5 k)) with barriers := [b] }

/-- A thread barrier of one arrival and a landing barrier. -/
def threadBarrier : Barrier := { Barrier.off 0 0 5 with kind := 1, count := 1 }
def landingBarrier : Barrier := { Barrier.off 0 0 5 with kind := 2, expected := 1 }

/-- `wait`-like barrier words on g1, writing g4. -/
def onBarrier5 : FmtBar := ⟨4, 1, 0, true, false, 5⟩

theorem witness_BarrierArrivals : (let s := labBar threadBarrier 0 ⟨0, false⟩ none;
      Ready s [] [] ∧ s.cur.waited = [] ∧ s.foreignBarrier 5 = false ∧ (s.myBarrier 5).kind = 1 ∧ (s.cur.token 5).valid = false ∧
      s.reportDiffers (s.myBarrier 5) = false ∧ s.cur.syncing ≠ some (5, s.cur.pc)) ∧
    (let s := labBar threadBarrier 0 ⟨0, true⟩ (some (5, 0x10000));
      s.cur.syncing = some (5, s.cur.pc) ∧ (s.cur.token 5).valid = true ∧ (s.cur.token 5).phase = (s.myBarrier 5).phase) ∧
    (let s := labBar { threadBarrier with phase := 1 } 0 ⟨0, true⟩ (some (5, 0x10000));
      s.cur.syncing = some (5, s.cur.pc) ∧ (s.cur.token 5).valid = true ∧ (s.cur.token 5).phase ≠ (s.myBarrier 5).phase) :=
  ⟨⟨ready_of_empty rfl rfl _ _, by decide +kernel⟩, by decide +kernel⟩

theorem witness_BarrierWaits : (let s := labBar threadBarrier 0 ⟨0, true⟩ none;
      Ready s [(1, true, 0)] [] ∧ s.foreignBarrier 5 = false ∧ (s.myBarrier 5).kind = 1 ∧ (s.cur.token 5).valid = true ∧
      (s.cur.token 5).phase = (s.myBarrier 5).phase) ∧
    (let s := labBar { threadBarrier with phase := 1 } 0 ⟨0, true⟩ none;
      (s.myBarrier 5).kind = 1 ∧ (s.cur.token 5).valid = true ∧ (s.cur.token 5).phase ≠ (s.myBarrier 5).phase) ∧
    (let s := labBar landingBarrier 1 ⟨0, false⟩ none;
      (s.myBarrier 5).kind = 2 ∧ (s.myBarrier 5).landed < (s.cur.gread 1).toNat) ∧
    (let s := labBar { landingBarrier with landed := 1 } 1 ⟨0, false⟩ none;
      (s.myBarrier 5).kind = 2 ∧ (s.cur.gread 1).toNat ≤ (s.myBarrier 5).landed) :=
  ⟨⟨ready_of_empty rfl rfl _ _, by decide +kernel⟩, by decide +kernel⟩

theorem witness_BarrierStatus : (let s := labBar threadBarrier 0 ⟨0, false⟩ none;
      Ready s [(1, true, 0)] [4] ∧ s.foreignBarrier 5 = false ∧ (∀ e ∈ s.cur.waited, e.addsTo 5 = false) ∧
      (s.cur.gread 1).getLsbD 0 = false ∧ (s.myBarrier 5).kind = 1 ∧ (s.myBarrier 6).kind = 0) ∧
    (let s := labBar landingBarrier 1 ⟨0, false⟩ none;
      (s.cur.gread 1).getLsbD 0 = true ∧ (s.myBarrier 5).kind = 2) :=
  ⟨⟨ready_of_empty rfl rfl _ _, by decide +kernel⟩, by decide +kernel⟩

/-- A started team of number `num` on slot 0, whose record names barriers, with its save area at 0x100000. -/
def teamOn (num : Nat) (bars : BitVec 48) : Team :=
  { num := num, hub := some num, part := 0, launch := 1, node := 0, record := { LaunchRecord.single with bars := bars }, started := true, placement := [0]
    pages := (List.range 17).map (fun k => 0x100 + k), cores := [0], exited := [false], saved := [false], lanes := [], lastSlot := [], kinds := [], marks := [], blockKey := 0, ended := false }

/-- `labBar` with such a team. -/
def labTeam (b : Barrier) (x : Word) (k : Token) (num : Nat) : State := { labBar b x k none with teams := [teamOn num 0x20] }

theorem witness_BarrierConfiguration : let s := labTeam { landingBarrier with landed := 1 } 0x105 ⟨0, true⟩ 0;
    Ready s [(1, true, 0)] [] ∧ s.cur.waited = [] ∧ (s.cur.gread 1).toNat / 32 % 8 = 0 ∧ (s.cur.gread 1).toNat % 4 = 1 ∧
    (s.cur.gread 1).toNat / 4 % 8 = 1 ∧ (s.cur.gread 1).toNat / 256 = 1 ∧ s.record.bars.getLsbD 5 = true ∧ s.foreignBarrier 5 = false ∧
    (s.myBarrier 5).kind = 2 ∧ (s.myBarrier 5).expected ≤ (s.myBarrier 5).landed :=
  ⟨ready_of_empty rfl rfl _ _, by decide +kernel⟩

/-- Two crews of one team, the other of which has reported under another scope. -/
def labTwo : State :=
  { labBar { threadBarrier with scope := 1 } 0 ⟨0, false⟩ none with
    barriers := [{ threadBarrier with scope := 1 }, { threadBarrier with crew := 1, scope := 2, arrivals := 1 }]
    teams := [{ teamOn 0 0x20 with record := { LaunchRecord.single with cps := 2, bars := 0x20 } }] }

theorem witness_BarrierTraps : (labTeam threadBarrier 0 ⟨0, false⟩ 7).foreignBarrier 5 = true ∧
    (let s := labBar threadBarrier 0 ⟨0, true⟩ none;
      s.cur.queue = [] ∧ s.cur.stuck = none ∧ (s.myBarrier 6).kind = 0 ∧ s.foreignBarrier 5 = false ∧ (s.myBarrier 5).kind = 1 ∧ s.cur.syncing ≠ some (5, s.cur.pc) ∧
      (s.cur.token 5).valid = true ∧ (s.cur.token 5).phase = (s.myBarrier 5).phase) ∧
    ((labBar landingBarrier 0 ⟨0, false⟩ none).myBarrier 5).kind = 2 ∧ ((labBar landingBarrier 0 ⟨0, false⟩ none).cur.token 5).valid = false ∧
    (labTwo.reportDiffers (labTwo.myBarrier 5) = true ∧ labTwo.foreignBarrier 5 = false ∧ (labTwo.cur.token 5).valid = false) ∧
    (badConfig 3 = true ∧ badConfig 0 = false ∧ lab.record.bars.getLsbD 5 = false) ∧
    (let s := labTeam landingBarrier 0 ⟨0, false⟩ 0;
      s.record.bars.getLsbD 5 = true ∧ s.foreignBarrier 5 = false ∧ (s.myBarrier 5).kind = 2 ∧ (s.myBarrier 5).landed < (s.myBarrier 5).expected) ∧
    (let s := labTeam { threadBarrier with arrivals := 1 } 0 ⟨0, false⟩ 0;
      (s.myBarrier 5).kind = 1 ∧ (s.myBarrier 5).arrivals ≠ 0) ∧
    (let s := { labTeam threadBarrier 0 ⟨0, false⟩ 0 with teams := [teamOn 0 0x20, teamOn 7 0x20] };
      s.record.bars.getLsbD 5 = true ∧ s.foreignBarrier 5 = true) := by decide +kernel

theorem witness_TrapInstruction : Ready lab [] [] ∧ lab.cur.waited = [] := ⟨ready_of_empty rfl rfl _ _, rfl⟩

theorem witness_TrapEntry : lab.cur.busy = false ∧ ({ lab.cur with busy := true } : Thread).busy = true := by decide

theorem witness_ReturnFromTrap : Ready labPriv [] [] ∧ labPriv.cur.priv = true ∧ labPriv.cur.waited = [] ∧ lab.cur.queue = [] ∧ lab.cur.priv = false :=
  ⟨ready_of_empty rfl rfl _ _, rfl, rfl, rfl, rfl⟩

theorem witness_QueuedTrapHolds : ∀ level : BitVec 4, level ≠ 0 → ∃ t : Thread, t.openEntries = [] ∧ 1 < t.queue.length ∧
    (∀ i e, t.queue[i]? = some e → (e.held = true ↔ i < 1)) ∧ t.busy = false ∧ topLevel t.queue = level.toNat := by
  intro level h
  refine ⟨{ lab.cur with queue := [queuedAdd level, queuedAdd 0] }, ?_, by simp, ?_, rfl, ?_⟩
  · revert level; decide +kernel
  · intro i e he
    match i with
    | 0 => simp only [List.getElem?_cons_zero, Option.some.injEq] at he; subst he; simpa [Entry.held, queuedAdd] using h
    | 1 => simp only [List.getElem?_cons_succ, List.getElem?_cons_zero, Option.some.injEq] at he; subst he; simp [Entry.held, queuedAdd]
    | n + 2 => simp at he
  · simp [topLevel, queuedAdd]

theorem witness_PrivilegedFormsTrap : lab.cur.queue = [] ∧ lab.cur.priv = false := ⟨rfl, rfl⟩

theorem witness_FenceAndCacheForms : Ready labAt [] [] ∧ Ready labAt [(1, true, 0)] [] ∧
    labAt.memoryClear = true ∧ labAt.translate labAt.cur.ctx (labAt.cur.gread 1).toNat = .leaf theLeaf ∧
    (labAt.scalarCheck labAt.cur.ctx (labAt.cur.gread 1).toNat 1 Need.load).1 = .ok (0x20000, theLeaf) ∧
    (let s : State := { labAt with poison := [0x20000 / 32] };
      (s.scalarCheck s.cur.ctx (s.cur.gread 1).toNat 1 Need.load).1 = .error (0x07, 0)) ∧
    (let s := labLeaf 0x33;
      s.cur.queue = [] ∧ (s.scalarCheck s.cur.ctx (s.cur.gread 1).toNat 1 Need.load).1 = .error (0x4E, 0)) :=
  ⟨ready_of_empty rfl rfl _ _, ready_of_empty rfl rfl _ _, by decide +kernel, by decide +kernel, rfl, rfl, rfl, rfl⟩

theorem witness_TranslationForms : labPriv.cur.priv = true ∧ labPriv.memoryClear = true ∧ labPriv.pinning = [] ∧
    (∀ r ∈ labPriv.rings.toList, r.pinned = false) ∧ Ready labPriv [(1, true, 0), (2, true, 1)] [4] ∧
    labPriv.walk labPriv.cur.ctx (labPriv.cur.gread 1).toNat = .leaf theLeaf ∧ labPriv.walk labPriv.cur.ctx 0x10000000000 = .invalid 2 :=
  ⟨rfl, rfl, rfl, by decide +kernel, ready_of_empty rfl rfl _ _, by decide +kernel, by decide +kernel⟩

theorem witness_ThreadForms : Ready lab [] [3] ∧ (labTeam threadBarrier 0 ⟨0, false⟩ 0).team 0 = some (teamOn 0 0x20) ∧ lab.cur.queue = [] ∧
    6 ≤ (6 : BitVec 5).toNat ∧ lab.cur.waited = [] ∧ lab.copies = [] ∧ lab.seals = [] :=
  ⟨ready_of_empty rfl rfl _ _, rfl, rfl, by decide, rfl, rfl, rfl⟩

/-! ## Plain memory -/

/-- The leaf with A and D set. -/
def sureLeaf : Leaf := { word := 0x1BF, at_ := 0x8000, bits := 35 }

/-- A state whose first 32 GiB are mapped by that leaf, which the TLB holds, and whose lines there have been used. -/
def sure (s : State) (lines : List Nat) : State :=
  let s1 : State := { s with mem := s.mem.write 0x8000 (leBytes 8 0x1BF) }
  lines.foldl (fun s a => s.useLines sureLeaf.word a 1) (s1.touch s1.cur.ctx 0 sureLeaf true)

/-- A computation of `Span`, for an address that is its own physical address. -/
def spans (s : State) (va n : Nat) (need : Need) : Bool :=
  match s.translate s.cur.ctx va with
  | .leaf l => decide (va < 2 ^ 56 ∧ l.pa va = va ∧
      (s.refusal s.cur.ctx l va need = none ∧ formatSub (leafBit l.word 13) (s.regionAt va) none = none ∧ (need.read && s.poisoned va n) = false) ∧
      leafBit l.word 6 = false ∧ ((s.useLines l.word va n).wild = s.wild ∧ (s.useLines l.word va n).lines = s.lines) ∧
      l.word &&& 0x180 = 0x180 ∧ s.tlbHit s.cur.ctx va = some (l.entry s.cur.ctx va) ∧
      (isDram va && tractOf va != s.cur.slot / 512) = false ∧ s.copyMeets va n need.write = false)
  | _ => false

/-- An access through a translation that is cached, and has A and D, leaves it as it is. -/
theorem touch_settled {s : State} {c : Ctx} {va : Nat} {l : Leaf} (set : l.word &&& 0x180 = 0x180) (held : s.tlbHit c va = some (l.entry c va))
    (write : Bool) : s.touch c va l write = s := by
  have bit : ∀ k, (0x180 : Word).getLsbD k = true → l.word.getLsbD k = true := fun k hk => by
    have := congrArg (fun x => x.getLsbD k) set
    simp only [BitVec.getLsbD_and, hk, Bool.and_true] at this
    exact this
  have within : bitsAD write = 0x180 &&& bitsAD write := by cases write <;> decide
  have sub : ∀ k, (bitsAD write).getLsbD k = true → (0x180 : Word).getLsbD k = true := fun k hk => by
    rw [within, BitVec.getLsbD_and, Bool.and_eq_true] at hk
    exact hk.1
  clear within
  have none_missing : bitsAD write &&& ~~~l.word = 0 := by
    ext k hk
    cases e : (bitsAD write).getLsbD k
    · simp_all
    · have := bit k (sub k e)
      simp_all
  have same : l.word ||| bitsAD write = l.word := by
    ext k hk
    cases e : (bitsAD write).getLsbD k
    · simp_all
    · have := bit k (sub k e)
      simp_all
  simp only [State.touch, none_missing, same, State.cacheLeaf, held, if_true]

theorem span_of {s : State} {va n : Nat} {need : Need} (h : spans s va n need = true) : Span s (va : Nat) n need va := by
  unfold spans at h
  split at h
  · next l found =>
    have ⟨inside, same, ⟨allowed, plain, sound⟩, normal, ⟨wild, lines⟩, set, held, counted, copies⟩ := of_decide_eq_true h
    have used : s.useLines l.word va n = s := by rw [State.useLines_eq, wild, lines]
    refine ⟨⟨{ cands := [], va := va, pa := va, leaf := l, ns := false, size := n, write := need.write }, ?_, rfl, rfl, rfl, touch_settled set held _⟩,
      ?_, copies⟩
    · have hv : ¬((va : Int) < 0 ∨ ((2 ^ 56 : Nat) : Int) ≤ (va : Int)) := by omega
      rw [State.reachPart, if_neg hv]
      simp [found, same, allowed, plain, sound, normal, used]
    · simp [State.noteAccess, counted]
  · cases h

/-- A computation of `PageKept`, through an entry with A and D. -/
def keepsPage (s : State) (r : Ring) (va : Nat) : Bool :=
  match r.pinAt va with
  | none => false
  | some p =>
    let c : Ctx := { part := p.part, ptb := BitVec.ofNat 64 p.ctx, key := 0, user := true }
    match s.tlbHit c va with
    | none => false
    | some e => decide (e.leaf &&& 0x180 = 0x180 ∧ e.asLeaf.entry c va = e)

theorem pageKept_of {s : State} {r : Ring} {va : Nat} {write : Bool} (h : keepsPage s r va = true) : PageKept s r va write := by
  unfold keepsPage at h
  split at h
  · cases h
  · next p pin =>
    dsimp only at h
    split at h
    · cases h
    · next e hit =>
      have ⟨set, same⟩ := of_decide_eq_true h
      refine ⟨p, e, pin, hit, ?_⟩
      simp only [State.ringTouch, pin, State.touchHeld, hit]
      exact touch_settled set (same ▸ hit) write

theorem plain_of {s : State} {va n : Nat} {need : Need} (h : (va % n == 0 && spans s va n need) = true) : Plain s (va : Nat) n need va := by
  simp only [Bool.and_eq_true, beq_iff_eq] at h
  exact ⟨by exact_mod_cast h.1, span_of h.2⟩

theorem holds_of {s : State} {va n align : Nat} {need : Need}
    (h : (va % align == 0 && (List.range (n / 8)).all (fun k => (va + 8 * k) % 8 == 0 && spans s (va + 8 * k) 8 need)) = true) :
    Holds s va n align need ((List.range (n / 8)).flatMap (fun k => s.read (va + 8 * k) 8)) := by
  simp only [Bool.and_eq_true, beq_iff_eq, List.all_eq_true, List.mem_range] at h
  exact ⟨h.1, fun k => va + 8 * k, fun k hk => plain_of (by simpa using h.2 k hk), rfl⟩

/-! ## The queue -/

/-- A word is pushed with nothing queued before it: it is queued and lone, and its push checks pass. -/
def pushesOk (s : State) (w : BitVec 32) : Bool :=
  let d := descOf w
  decide (queuedWord w = true ∧ (joins w = false ∧ isFrame w = false) ∧ (s.cur.status = .running ∧ s.cur.queue = [] ∧ s.pace = .eager) ∧ s.cur.stuck = none ∧
    d.typeOk s.cur.vt = true ∧ (∀ g ∈ d.align w s.cur.vt12, g.1 % g.2.1 = 0) ∧ (d.tile = true → s.cur.trl ≠ 0 ∧ s.cur.trl.toNat ≤ 2048) ∧
    pipeExcess s.cur.pipes [d.pipes] [] 0 = none)

/-- It then does its work: its elements meet no cause, no failing check, no wait and no deferral. -/
def doesWork (s : State) (w : BitVec 32) : Bool :=
  let a := workOf s (descOf w) w
  pushesOk s w && decide (a.fail = none ∧ a.check = none ∧ a.wait = false ∧ a.deferred = none)

/-- A word is the word of an instruction, and does its work. -/
noncomputable def runs (s : State) (w : BitVec 32) : Bool :=
  (match decode w with | .instr i => encode i == some w | .reject _ => false) && doesWork s w

/-- An instruction has a word that is pushed. -/
def enters (s : State) (i : Instr) : Bool := match encode i with | some w => pushesOk s w | none => false

theorem pushesOk_spec {s : State} {w : BitVec 32} (h : pushesOk s w = true) :
    queuedWord w = true ∧ lone w ∧ Idle s ∧ Pushes s (descOf w) w :=
  have ⟨queued, alone, ⟨running, empty, eager⟩, fresh, type, placed, tile, pipes⟩ := of_decide_eq_true h
  ⟨queued, alone, ⟨running, empty, eager⟩, ⟨type, placed, tile, fun x _ _ => by simp [fresh], pipes⟩⟩

theorem enters_spec {s : State} {i : Instr} (h : enters s i = true) :
    ∃ w, encode i = some w ∧ lone w ∧ Idle s ∧ Pushes s (descOf w) w := by
  unfold enters at h
  split at h
  · next w hw => exact ⟨w, hw, (pushesOk_spec h).2⟩
  · cases h

theorem doesWork_spec {s : State} {w : BitVec 32} (h : doesWork s w = true) :
    queuedWord w = true ∧ lone w ∧ Idle s ∧ Pushes s (descOf w) w ∧ (workOf s (descOf w) w).fail = none ∧ (workOf s (descOf w) w).check = none ∧
      (workOf s (descOf w) w).wait = false ∧ (workOf s (descOf w) w).deferred = none := by
  have ⟨pushes, works⟩ := Bool.and_eq_true_iff.mp h
  have ⟨queued, alone, idle, checked⟩ := pushesOk_spec pushes
  exact ⟨queued, alone, idle, checked, of_decide_eq_true works⟩

/-- `lab` with a type and two elements, every scalar register but g0 at 0x20000. -/
def labVec (vt : Nat) : State :=
  labWith (fun t => { t with vt := BitVec.ofNat 13 vt, vl := 2, trl := 16, g := Vector.ofFn (fun i : Fin 32 => if i.val = 0 then 0 else 0x20000) })

/-- A bound memory stream of four elements. -/
def aStream : Stream :=
  { kind := .memory, live := true, base := 0x20000, count := 4, pos := 0, vt := 2, landed := 0, ahead := [], stop := none, engine := 0 }

/-- A revolution of two members, of which this one has posted nothing. -/
def aRing : Ring :=
  { Ring.off with state := .running, n := 2, m := 0, up := 0, down := 1, b := 1, s := 4, ssize := 4096, slots := 0x40000, own := 0x50000
                  done := 0x51000 }

/-- A state with one element to do: at g2 a stitched tensor of no elements whose version 1 is pinned by handle g3, at g5 a contraction of one
point, at g6 the record of a tree, at g7 a request to seal; g9 names landing barrier 5; q1 and q2 are bound, h1 is a shape;
ring 0 is granted and in the state given, q3 its stream. Memory elsewhere is 0. -/
def labFull (r : Ring) : State :=
  let g : List Word := [0, 0x20000, 0x30000, 0x0100000000030000, 0x33000, 0x34000, 0x35000, 0x36000, 0, 5]
  let bytes : List (Nat × List Byte) := [(0x30001, [0x10, 3]), (0x30009, [0x20, 3]), (0x30010, [1]), (0x30014, leBytes 8 0xFFFFFFFFFFFFFFFF),
    (0x30020, [1]), (0x30025, [1]), (0x32000, [1, 0, 0, 0, 1]), (0x34000, [1]), (0x34010, [1]), (0x34048, [1, 9]), (0x340A8, [1, 9]),
    (0x34108, [1, 0x0A]), (0x35028, [32, 0, 1, 9]), (0x36010, [4])]
  { lab with
    mem := bytes.foldl (fun m x => m.write x.1 x.2) lab.mem
    cur := { lab.cur with
      vt := 2, vl := 1, trl := 16, g := Vector.ofFn (fun i : Fin 32 => g.getD i.val 0)
      q := ((lab.cur.q.set 1 aStream).set 2 aStream).set 3 { aStream with kind := .ring }
      h := Vector.replicate 8 (BitVec.ofNat 1024 (0x38000 + 2 ^ 64 + 9 * 2 ^ 72 + 4 * 2 ^ 128 + 2 * 2 ^ 320)) }
    barriers := [{ Barrier.off 0 0 5 with kind := 2 }]
    rings := lab.rings.set 0 r
    layout := { lab.layout with grants := lab.layout.grants ++ [{ type := 1, part := 0, value := 127, first := 0, count := 1, extra := 0 },
      { type := 8, part := 0, value := 255, first := 0, count := 1, extra := 0 }] } }

/-- An arrived block of `aRing`. -/
def aHead : RingHead := { arrival := 0, origin := 0, index := 0, bytes := 0, toff := 0, tcnt := 0 }

/-! ## Every queued instruction does its work somewhere -/

/-- Words of major 0x1D do their work (R33), each with its VT. -/
theorem runs_1D : [(6, 0x75100004)].all (fun x => runs (labVec x.1) x.2) = true := by
  decide +kernel

/-- Words of major 0x20 do their work (R33), each with its VT. -/
theorem runs_20 : [(6, 0x8030C000), (6, 0x80300003), (6, 0x80300004)].all (fun x => runs (labVec x.1) x.2) = true := by
  decide +kernel

/-- Words of major 0x28 do their work (R33), each with its VT. -/
theorem runs_28 : [(6, 0xA110C000), (6, 0xA110C001), (6, 0xA110C002), (6, 0xA110C003), (6, 0xA110C004), (6, 0xA110C005), (6, 0xA110C006), (6, 0xA110C007), (6, 0xA110C008), (6, 0xA110C009), (6, 0xA110C00A), (6, 0xA110C00B), (6, 0xA110C00C), (6, 0xA110C00D), (6, 0xA110C00E), (6, 0xA110C00F)].all (fun x => runs (labVec x.1) x.2) = true := by
  decide +kernel

/-- Words of major 0x29 do their work (R33), each with its VT. -/
theorem runs_29 : [(0x0A, 0xA5100000), (0x0A, 0xA510C001), (0x0A, 0xA5100002), (0x0A, 0xA5100003), (0x0A, 0xA510C004), (0x0A, 0xA5100005), (0x0A, 0xA5100006), (0x0A, 0xA5100007), (0x0A, 0xA510C008)].all (fun x => runs (labVec x.1) x.2) = true := by
  decide +kernel

/-- Words of major 0x2A do their work (R33), each with its VT. -/
theorem runs_2A : [(6, 0xA8A86000), (6, 0xA8A86001), (6, 0xA8A86002), (6, 0xA8A86003), (6, 0xA8A86004), (6, 0xA8A86005), (0x0A, 0xA8A86006), (0x0A, 0xA8A86007)].all (fun x => runs (labVec x.1) x.2) = true := by
  decide +kernel

/-- Words of major 0x2B do their work (R33), each with its VT. -/
theorem runs_2B : [(6, 0xADDC0000), (6, 0xADDC0001), (6, 0xADDC0002), (6, 0xADDC0003), (6, 0xADD00004), (6, 0xAD800005), (6, 0xADD00006), (6, 0xADD00007), (6, 0xADD00008)].all (fun x => runs (labVec x.1) x.2) = true := by
  decide +kernel

/-- Words of major 0x2C do their work (R33), each with its VT. -/
theorem runs_2C : [(6, 0xB1100000), (6, 0xB110C001), (6, 0xB110C002), (6, 0xB110C003), (6, 0xB1100004), (6, 0xB1100005), (6, 0xB100C006), (6, 0xB1100007), (6, 0xB110C008), (6, 0xB110C009)].all (fun x => runs (labVec x.1) x.2) = true := by
  decide +kernel

/-- Words of major 0x2D do their work (R33), each with its VT. -/
theorem runs_2D : [(0x0A, 0xB510C000), (6, 0xB510C001), (6, 0xB510C002), (6, 0xB510C003), (6, 0xB510C004), (6, 0xB510C005), (6, 0xB510C006), (6, 0xB510C007), (6, 0xB510C008), (6, 0xB510C009), (6, 0xB510C00A)].all (fun x => runs (labVec x.1) x.2) = true := by
  decide +kernel

/-- Words of major 0x2E do their work (R33), each with its VT. -/
theorem runs_2E : [(6, 0xB9105000), (6, 0xB9105001), (6, 0xB9105002), (6, 0xB9105003), (6, 0xB9010004), (6, 0xB9010005), (6, 0xB9010006), (6, 0xB8300007)].all (fun x => runs (labVec x.1) x.2) = true := by
  decide +kernel

/-- Words of major 0x2F do their work (R33), each with its VT. -/
theorem runs_2F : [(6, 0xBD10C000), (6, 0xBD10C001), (6, 0xBD10C002), (6, 0xBD10C003), (6, 0xBD10C004), (6, 0xBD10C005), (6, 0xBD10C006), (6, 0xBD10C008), (6, 0xBD10C009), (6, 0xBD10C00A), (6, 0xBD10C00B), (6, 0xBD10C00C), (6, 0xBD10C00D), (6, 0xBD10C00E), (6, 0xBD10C00F)].all (fun x => runs (labVec x.1) x.2) = true := by
  decide +kernel

/-- Words of major 0x30 do their work (R33), each with its VT. -/
theorem runs_30 : [(6, 0xC1100000), (6, 0xC110C001), (6, 0xC110C002), (6, 0xC1100008), (6, 0xC1100009), (6, 0xC110000A), (6, 0xC110000B), (6, 0xC110000C), (6, 0xC110000D), (6, 0xC110000E)].all (fun x => runs (labVec x.1) x.2) = true := by
  decide +kernel

/-- Words of major 0x31 do their work (R33), each with its VT. -/
theorem runs_31 : [(6, 0xC5100000), (6, 0xC510C001), (6, 0xC510C002), (6, 0xC5100008), (6, 0xC5100009), (6, 0xC510000A), (6, 0xC510000B), (6, 0xC510000C), (6, 0xC510000D), (6, 0xC510000E)].all (fun x => runs (labVec x.1) x.2) = true := by
  decide +kernel

/-- Words of major 0x32 do their work (R33), each with its VT. -/
theorem runs_32 : [(6, 0xC910C000), (6, 0xC910C001), (6, 0xC910C002), (6, 0xC910C003), (6, 0xC910C008), (6, 0xC910C009), (6, 0xC910C00A), (6, 0xC910C00B)].all (fun x => runs (labVec x.1) x.2) = true := by
  decide +kernel

/-- Words of major 0x33 do their work (R33), each with its VT. -/
theorem runs_33 : [(6, 0xCD10C000), (6, 0xCD10C001), (6, 0xCD10C002), (6, 0xCD10C003), (6, 0xCD10C004), (6, 0xCD10C005), (6, 0xCD10C006), (6, 0xCD10C008), (6, 0xCD10C009), (6, 0xCD10C00A), (6, 0xCD10C00B), (6, 0xCD10C00C), (6, 0xCD10C00D), (6, 0xCD10C00E)].all (fun x => runs (labVec x.1) x.2) = true := by
  decide +kernel

/-- Words of major 0x34 do their work (R33), each with its VT. -/
theorem runs_34 : [(0x0C, 0xD110C000), (9, 0xD110C001), (9, 0xD1000002), (0x0C, 0xD110C003), (0x0C, 0xD1103004), (0x0C, 0xD1100005), (0x0C, 0xD1100006), (0x0C, 0xD1100007)].all (fun x => runs (labVec x.1) x.2) = true := by
  decide +kernel

/-- Words of major 0x35 do their work (R33), each with its VT. -/
theorem runs_35 : [(6, 0xD5100800), (2, 0xD510C002), (6, 0xD5100803), (6, 0xD5100804), (6, 0xD5100805)].all (fun x => runs (labVec x.1) x.2) = true := by
  decide +kernel

/-- Words of major 0x37 do their work (R33), each with its VT. -/
theorem runs_37 : [(2, 0xDD010005), (2, 0xDC010006)].all (fun x => runs (labVec x.1) x.2) = true := by
  decide +kernel

/-- qfree, vpop, vxsect, tcopy, tcon, vpnode; vdesc under the all-false guard. -/
theorem runs_others : [0x80200001, 0x81010002, 0xD5011001, 0x80214805, 0xD8050000, 0xDD103020, 0xDD010004].all
    (fun w => runs (labFull Ring.off) w) = true := by
  decide +kernel

/-- xpin, xunpin, xrun, xsplice, xreap, xlen. -/
theorem runs_stitched : [0x85020000, 0x84030001, 0x85030802, 0x85022003, 0x85020804, 0x85030005].all
    (fun w => runs (labFull Ring.off) w) = true := by decide +kernel

/-- kseal, kopen, ring.stat, ring.brk; ring.cfg and spawn, resumed at ES 1. -/
theorem runs_engines : [0x8C074800, 0x8C074801, 0x89000005, 0x88000006].all (fun w => runs (labFull Ring.off) w) = true ∧
    [0x88010000, 0x75010000].all (fun w => runs (labWith (fun t => { t with es := 1 })) w) = true := by decide +kernel

/-- ring.post; ring.hdr, qbind.ring and ring.done with a block there. -/
theorem runs_ring : runs (labFull aRing) 0x88000001 = true ∧
    [0x88600002, 0x89030003].all (fun w => runs (labFull { aRing with heads := [aHead], landed := 1 }) w) = true ∧
    runs (labFull { aRing with heads := [aHead], landed := 1, current := true }) 0x88030004 = true := by decide +kernel

theorem witness_PlacedWordRuns : ∃ (w : BitVec 32) (i : Instr), decode w = .instr i := ⟨0x04632000, _, rfl⟩

/-- `lab` with element i of a 32-bit register group at v24 as listed. -/
def labIndex (x : Nat) : State := (labVec 6).mod (fun t => { t with v := t.v.set 24 (BitVec.ofNat 8192 x) })

theorem witness_QueuedPush : ∃ (i : Instr) (w : BitVec 32) (s : State), encode i = some w ∧ queuedWord w = true ∧ s.pace = .decoupled ∧
    Enters s (descOf w) w :=
  ⟨.vadd ⟨8, 16, 24, false, false, 0, false, false, 0⟩, 0xA110C000, { labVec 6 with pace := .decoupled }, rfl, rfl, rfl,
    { frame := rfl, type := rfl, groups := by decide +kernel, tile := by decide +kernel, convoy := rfl, strict := by decide +kernel,
      sources := by decide +kernel, room := by decide +kernel, alone := by decide +kernel,
      pipes := fun _ => by decide +kernel }⟩

/-- vadd under ILL, on a misplaced group, and without its pipe; vldt with TRL 0. -/
theorem witness_QueuedPush_traps : (queuedWord 0xA110C000 = true ∧ lone 0xA110C000 ∧ (labVec 6).cur.queue = [] ∧ (descOf 0xA110C000).tile = false) ∧
    (descOf 0xA110C000).typeOk (labVec 0x1000).cur.vt = false ∧
    ((descOf 0xA1308000).typeOk (labVec 0x406).cur.vt = true ∧
      ((descOf 0xA1308000).align 0xA1308000 (labVec 0x406).cur.vt12).find? (fun g => g.1 % g.2.1 ≠ 0) = some (9, 2, 2)) ∧
    ((descOf 0xC1100002).tile = true ∧ (descOf 0xC1100002).typeOk (labVec 6).cur.vt = true ∧
      (∀ g ∈ (descOf 0xC1100002).align 0xC1100002 (labVec 6).cur.vt12, g.1 % g.2.1 = 0) ∧
      ((labVec 6).mod (fun t => { t with trl := 0 })).cur.trl = 0) ∧
    pipeExcess ((labVec 6).mod (fun t => { t with pipes := 0 })).cur.pipes [(descOf 0xA110C000).pipes] [] 0 = some 0 := by
  unfold lone; decide +kernel

/-- vframe with nothing queued. -/
theorem witness_QueuedPush_frame : ∃ (i : Instr) (w : BitVec 32) (s : State), encode i = some w ∧ queuedWord w = true ∧
    (isFrame w = true ∧ s.cur.queue = []) ∧ Enters s (descOf w) w :=
  ⟨.vframe ⟨8, 1, 0, 0, 0⟩, 0x7D010000, labVec 6, by decide +kernel, by decide, by decide +kernel,
    { frame := by decide +kernel, type := by decide +kernel, groups := by decide +kernel, tile := by decide +kernel, convoy := by decide +kernel
      strict := by decide +kernel, sources := by decide +kernel, room := by decide +kernel, alone := by decide +kernel
      pipes := fun _ => by decide +kernel }⟩

theorem witness_QueuedCompletes : ∃ (i : Instr) (w : BitVec 32) (s : State), encode i = some w ∧ queuedWord w = true ∧ lone w ∧ Idle s ∧
    Pushes s (descOf w) w ∧ (workOf s (descOf w) w).fail = none ∧ (workOf s (descOf w) w).check = none ∧ (workOf s (descOf w) w).wait = false ∧
    (workOf s (descOf w) w).deferred = none :=
  ⟨.vmac ⟨8, 16, 24, false, false, 0, false, false, 0⟩, 0xA110C003, labVec 6, rfl, doesWork_spec (by decide +kernel)⟩

theorem doneAll : pushesOk ((labVec 6).mod (fun t => { t with es := 2 })) 0xA110C000 = true := by decide +kernel

theorem witness_NothingToDo : ∃ (i : Instr) (w : BitVec 32) (s : State), encode i = some w ∧ 0x28 ≤ majorOf w ∧ majorOf w ≤ 0x34 ∧ lone w ∧ Idle s ∧
    Pushes s (descOf w) w ∧ s.cur.vl.toNat ≤ s.cur.es.toNat :=
  ⟨.vadd ⟨8, 16, 24, false, false, 0, false, false, 0⟩, 0xA110C000, (labVec 6).mod (fun t => { t with es := 2 }), rfl, by decide, by decide,
    (pushesOk_spec doneAll).2.1, (pushesOk_spec doneAll).2.2.1, (pushesOk_spec doneAll).2.2.2, by decide⟩

/-- The same under the all-false guard. -/
theorem witness_NothingToDo_guard : (descOf 0xA110C020).allFalse = true ∧ pushesOk (labVec 6) 0xA110C020 = true := by decide +kernel

/-- vperm whose second index lies outside its group. -/
theorem witness_TrimAndTrap_trim : ∃ (i : Instr) (w : BitVec 32) (s : State) (f : Fail), encode i = some w ∧ pushesOk s w = true ∧
    (descOf w).ownLength = false ∧ (descOf w).allFalse = false ∧ s.cur.es.toNat < s.cur.vl.toNat ∧
    (workOf s (descOf w) w).fail = some f ∧ (workOf s (descOf w) w).check = none ∧ (workOf s (descOf w) w).wait = false ∧
    s.cur.es.toNat < achieved ((descOf w).kind (viewOf s (descOf w) w).vt) s.cur.trl.toNat f.elem ∧
    achieved ((descOf w).kind (viewOf s (descOf w) w).vt) s.cur.trl.toNat f.elem ≤ s.cur.vl.toNat ∧ (descOf w).trims = true ∧
    (let a := (descOf w).run (achieved ((descOf w).kind (viewOf s (descOf w) w).vt) s.cur.trl.toNat f.elem) (viewOf s (descOf w) w)
        (Acc.start (pushed s (descOf w) w))
     a.fail = none ∧ a.check = none ∧ a.wait = false ∧ a.deferred = none ∧ a.vlOut = none) :=
  ⟨.vperm ⟨8, 16, 24, false, false, 0, false, false, 0⟩, 0xB110C003, labIndex (0xFFFF * 2 ^ 32), ⟨1, 0x0A, 1, 0, 0⟩, by decide +kernel⟩

/-- The same with its first. -/
theorem witness_TrimAndTrap_trap : ∃ (i : Instr) (w : BitVec 32) (s : State) (f : Fail), encode i = some w ∧ pushesOk s w = true ∧
    (descOf w).ownLength = false ∧ (descOf w).allFalse = false ∧ s.cur.es.toNat < s.cur.vl.toNat ∧
    (workOf s (descOf w) w).fail = some f ∧ (workOf s (descOf w) w).check = none ∧ (workOf s (descOf w) w).wait = false ∧
    achieved ((descOf w).kind (viewOf s (descOf w) w).vt) s.cur.trl.toNat f.elem ≤ s.cur.es.toNat :=
  ⟨.vperm ⟨8, 16, 24, false, false, 0, false, false, 0⟩, 0xB110C003, labIndex 0xFFFF, ⟨0, 0x0A, 1, 0, 0⟩, by decide +kernel⟩

/-- No register of `lab` holds an error. -/
theorem lab_clean (vt r n i : Nat) : (labVec vt).cur.elemBad r n i = false := by
  have h : (labVec vt).cur.bad = Vector.replicate 32 0 := rfl
  simp [Thread.elemBad, h]

theorem lab_sized : Sized (labVec 6).cur := ⟨by decide +kernel, by decide +kernel, by decide +kernel⟩

/-- Operands of three register groups. -/
def threeGroups : FmtV := ⟨8, 16, 24, false, false, 0, false, false, 0⟩

/-- Operands of two. -/
def twoGroups : FmtV := ⟨8, 16, 0, false, false, 0, false, false, 0⟩

theorem witness_VectorArithmeticResults_integer : ∀ x ∈ integerTable, ∃ w, encode (x.1 threeGroups) = some w ∧ lone w ∧ Idle (labVec 6) ∧
    Pushes (labVec 6) (descOf w) w := fun x hx =>
  enters_spec (List.all_eq_true.mp (by decide +kernel : integerTable.all (fun x => enters (labVec 6) (x.1 threeGroups)) = true) x hx)

theorem witness_VectorArithmeticResults_state : Sized (labVec 6).cur ∧ vtType (labVec 6).cur.vt12 ≤ 7 ∧
    active (labVec 6).cur 0 false 1 = true ∧ ∀ r n i, (labVec 6).cur.elemBad r n i = false :=
  ⟨lab_sized, by decide +kernel, by decide +kernel, lab_clean 6⟩

theorem witness_PredicateResults_compare : ∀ x ∈ compareTable, ∃ w, encode (x.1 ⟨1, 2, 16, 24, false, 0, false, false⟩) = some w ∧ lone w ∧
    Idle (labVec 6) ∧ Pushes (labVec 6) (descOf w) w := fun x hx =>
  enters_spec (List.all_eq_true.mp (by decide +kernel :
    compareTable.all (fun x => enters (labVec 6) (x.1 ⟨1, 2, 16, 24, false, 0, false, false⟩)) = true) x hx)

/-- Predicate operands: pnot reads pa alone, pset none. -/
theorem witness_PredicateResults_logic : (predicateTable.zip [(2, 3), (2, 3), (2, 3), (2, 3), (2, 0), (0, 0)]).all
    (fun x => enters (labVec 6) (x.1.1 ⟨1, x.2.1, x.2.2, 0, 0, false, false⟩)) = true := by decide +kernel

theorem witness_PredicateResults_breaks : [Instr.pfirst ⟨1, 2, 0, 0, 0, false, false⟩, .pbrkb ⟨1, 2, 0, 0, 0, false, false⟩,
    .pbrka ⟨1, 2, 0, 0, 0, false, false⟩, .vpopc ⟨8, 1, 0, false, false, 0, false, false, 0⟩, .vfirst ⟨8, 1, 0, false, false, 0, false, false, 0⟩,
    .vfromp ⟨8, 1, 0, false, false, 0, false, false, 0⟩, .vtop ⟨1, 16, 0, false, false, 0, false, false, 0⟩].all (enters (labVec 6)) = true ∧
    (labVec 6).cur.es.toNat < (labVec 6).cur.vl.toNat ∧
    [Instr.vpopc ⟨8, 1, 0, false, false, 0, false, false, 0⟩, .vfirst ⟨8, 1, 0, false, false, 0, false, false, 0⟩].all (enters (labVec 0x0A)) = true := by
  decide +kernel

theorem witness_MoveResults : [Instr.vmov ⟨8, 16, 0, false, false, 0, false, false, 0⟩, .vslideup ⟨8, 16, 1, false, false, 0, false, false, 0⟩,
    .vslidedn ⟨8, 16, 1, false, false, 0, false, false, 0⟩, .vrev ⟨8, 16, 0, false, false, 0, false, false, 0⟩,
    .vbcast ⟨8, 0, 1, false, false, 0, false, false, 0⟩, .vperm threeGroups, .vext ⟨8, 16, 1, false, false, 0, false, false, 0⟩,
    .vins ⟨8, 16, 1, false, false, 0, false, false, 0⟩, .vcompress twoGroups, .vexpand twoGroups].all (enters (labVec 6)) = true ∧ vtType (labVec 6).cur.vt12 ≤ 0x0B ∧
    ∀ j, (labVec 6).cur.elem 24 32 j < (labVec 6).cur.vlmax :=
  ⟨by decide +kernel, by decide +kernel, fun j => by
    have h : (labVec 6).cur.v = Vector.replicate 32 0 := rfl
    have h2 : (labVec 6).cur.vlmax = 256 := by decide +kernel
    simp [Thread.elem, Thread.vread, h, h2]⟩

theorem witness_QueueEvents_retire : ∃ (s : State) (e : Entry) (rest : List Entry) (r : Retire), s.cur.queue = e :: rest ∧ e.held = false ∧
    e.phase = .done r ∧ r.deferred = none ∧ r.hand = .nothing :=
  let r : Retire := { groups := 0, segs := 0, flags := 1, fx := none, rowp := none, dirty := 0, deferred := none, hand := .nothing, span := 0, reached := 0, limit := 1, needs := [], micro := 0 }
  ⟨labWith (fun t => { t with queue := [{ queuedAdd 0 with phase := .done r }] }), { queuedAdd 0 with phase := .done r }, [], r, rfl, rfl, rfl,
    rfl, rfl⟩

theorem witness_QueueEvents_dispatch : ∃ (s : State) (w : BitVec 32) (a : Acc) (v : Nat) (trim : Option Fail), s.cur.queue = [] ∧ lone w ∧
    Completes s (descOf w) w a v trim :=
  ⟨labVec 6, 0xA110C020, Acc.start (pushed (labVec 6) (descOf 0xA110C020) 0xA110C020), 2, none, rfl, ⟨rfl, rfl⟩, ⟨rfl, rfl, rfl, rfl, rfl⟩⟩

/-- The bind record of slot 0 for logical thread 0 of team 0, its image at 0x100000. -/
def aBind (valid : Bool) : BindRecord :=
  { slot := 0, valid := valid, part := 0, team := 0, lthread := 0, pipes := 0x7F, prio := 0, save := 0x100, budget := 0, left := 0, saved := false
    exited := false }

/-- `lab` with its thread bound as the one of team 0, after some work. -/
def labBound : State := { labWith (fun t => { t with progress := true }) with binds := [aBind true], teams := [teamOn 0 0] }

theorem witness_Preemption : let s := labBound; let m := teamOn 0 0
    s.boundTeam 0 = some m ∧ s.cur.slot = 0 ∧ s.cur.status = .running ∧ s.cur.progress = true ∧ s.cur.team = m.num ∧ m ∈ s.together m ∧
    (∀ y ∈ s.others, y.status ≠ .unbound ∧ ∀ x ∈ s.together m, y.team ≠ x.num) ∧ (∀ e ∈ s.cur.queue, e.isDone = false) := by decide +kernel

theorem witness_ContextSave : let s := labBound.mod (fun t => { t with status := .leaving }); let m := teamOn 0 0
    wellFormed s ∧ s.bindOf 0 = some (aBind true) ∧ s.team s.cur.team = some m ∧ s.cur.slot = 0 ∧ s.cur.status = .leaving ∧
    m.pages.length = 16 * m.record.threads + 1 ∧ m.pages.Nodup ∧ s.cur.lthread < m.record.threads ∧ (∀ e ∈ s.cur.queue, e.isDone = false) ∧
    s.engineBusy s.cur.team s.cur.lthread = false ∧ s.cur.queue.length ≤ 64 ∧ (∀ n ∈ s.cur.dlen.toList, n ≤ 8) ∧
    (∀ y ∈ s.others, y.status ≠ .unbound → y.slot ≠ 0) ∧ s.framesUsable m.part (m.imageFrames 0) = true := ⟨rfl, by decide +kernel⟩

/-- A launch. -/
def aLaunch : Launch :=
  { part := 0, number := 1, done := 0, deps := [], graph := none, concurrent := false, coresident := false, complete := false, torn := false }

/-- A package with a team to bind on slot 0, whose thread has an image or none; `version` is the image's format. -/
def labBindable (saved : Bool) (version : Byte) : State :=
  { labWith (fun t => { t with status := .unbound }) with
    binds := [aBind false], teams := [{ teamOn 0 0 with saved := [saved] }], mem := lab.mem.write 0x100000 [version, 0, 8], launches := [aLaunch] }

theorem witness_SlotBind_idle : (lab.bindOf 0).bind lab.readyGroup = none := by decide +kernel

theorem witness_SlotBind : ∀ saved : Bool, ∃ (slot : Nat) (s : State) (b : BindRecord) (m : Team), s.bindOf slot = some b ∧
    s.readyGroup b = some [m] ∧ s.teamRestorable m = true ∧ s.recordsOf m = [b] ∧ s.cur.status = .unbound ∧ s.moveWindows m = s ∧
    m.saved.getD b.lthread.toNat false = saved ∧ s.wild = [] ∧ (∀ t ∈ s.lines, t.key = (m.marks.getD b.lthread.toNat Marks.none).key) := fun saved =>
  ⟨0, labBindable saved 1, aBind false, { teamOn 0 0 with saved := [saved] }, rfl, by revert saved; decide +kernel,
    by revert saved; decide +kernel, by revert saved; decide +kernel, rfl, by revert saved; decide +kernel, rfl, rfl, by revert saved; decide +kernel⟩

theorem witness_SlotBind_torn : let s := labBindable true 2; let m : Team := { teamOn 0 0 with saved := [true] }
    s.bindOf 0 = some (aBind false) ∧ s.readyGroup (aBind false) = some [m] ∧ s.teamRestorable m = false ∧ s.launch m.part m.launch = some aLaunch := by
  decide +kernel

/-- `lab` with q1 bound. -/
def labStream (q : Stream) : State := labWith (fun t => { t with q := t.q.set 1 q })

theorem witness_EngineEvents_lands : let s := labStream aStream; let st := s.cur.qread 1
    st.kind = .memory ∧ st.live = true ∧ st.ahead = [] ∧ st.stop = none ∧ st.pos < st.count ∧ s.cur.priv = false ∧ s.cur.status = .running ∧
    (let x := s.reachElem s.cur.ctx oobPlain (st.base.toNat + st.size * st.pos : Nat) st.size Need.load
     x.1.cands = [] ∧ x.1.ns = false ∧ x.2.copyMeets x.1.pa st.size false = false ∧
     ((x.2.cacheLeaf s.cur.ctx x.1.va x.1.leaf).noteAccess x.1.pa).wild = []) := by decide +kernel

theorem witness_EngineEvents_stops : let s := labStream { aStream with base := 0x10000000000 }; let st := s.cur.qread 1
    st.kind = .memory ∧ st.live = true ∧ st.ahead = [] ∧ st.stop = none ∧ st.pos < st.count ∧ s.cur.priv = false ∧ s.cur.status = .running ∧
    (let x := s.reachElem s.cur.ctx oobPlain (st.base.toNat + st.size * st.pos : Nat) st.size Need.load
     (∃ c ∈ x.1.cands, firstCand x.1.cands = some c ∧ x.2.copyHeals c [x.1] = false) ∧ x.1.ns = false) := by decide +kernel

theorem witness_EngineEvents_idle : (lab.cur.qread 1).kind ≠ .memory ∧ ((labStream { aStream with live := false }).cur.qread 1).live = false ∧
    labPriv.cur.priv = true := by decide +kernel

/-- A copy of one byte from 0x20000 to 0x20010. -/
def aCopy : Copy :=
  { num := 0, team := 0, lthread := 0, crew := 0, stand := 0, bar := 5
    moves := [{ index := 0, src := [0x20000], dst := [0x20010], lo := 0, width := 0 }], whole := [], pins := [] }

/-- Without an error; with one in the source; with one in the destination's sector, which it writes in part. -/
theorem witness_EngineEvents_copy : ∀ poison ∈ [[], [0x20000 / 32], [0x20020 / 32]], let c : Copy := { aCopy with
      moves := [{ index := 0, src := [0x20000], dst := [0x20020], lo := 0, width := 0 }] }
    let s : State := { lab with copies := [c], poison := poison }
    wellFormed s ∧ s.copies.find? (fun x => x.num == c.num) = some c ∧ s.mayLand c = true ∧ s.wild = [] ∧
    (∀ m ∈ c.moves, m.width = 0 ∧ m.dst.Nodup ∧ m.src.length = m.dst.length ∧ (∀ a ∈ m.dst, s.regionAt a = none) ∧
      ((∃ a ∈ m.src, s.poisoned a 1 = true) ↔ poison = [0x20000 / 32]) ∧
      ((∃ x ∈ m.units, s.poisoned (32 * x) 32 = true ∧ x ∉ c.whole) ↔ poison = [0x20020 / 32])) := by
  intro poison hp
  simp only [List.mem_cons, List.not_mem_nil, or_false] at hp
  rcases hp with rfl | rfl | rfl <;> exact ⟨rfl, rfl, by decide +kernel, rfl, by decide +kernel⟩

/-- A request to seal, in flight. -/
def aSeal (opens : Bool) : SealOp :=
  { num := 0, opens := opens, team := 0, lthread := 0, crew := 0, bar := 5, part := 0, ptb := 0x1000, key := 0, user := true, block := 0x20000
    req := List.replicate 64 0 }

/-- Its thread has a copy in flight that was handed over before it, or one that came after. -/
theorem witness_EngineEvents_seal : ∀ opens earlier : Bool, ∃ (s : State) (o : SealOp),
    s.seals.find? (fun x => x.num == o.num && x.opens == o.opens) = some o ∧ o.opens = opens ∧ s.session o.part = none ∧
    ((∃ c ∈ s.copies, c.team = o.team ∧ c.lthread = o.lthread ∧ c.num < o.num) ↔ earlier = true) := fun opens earlier =>
  ⟨{ lab with seals := [{ aSeal opens with num := 1 }], copies := [{ aCopy with num := if earlier then 0 else 2 }] }, { aSeal opens with num := 1 },
    by revert opens earlier; decide, rfl, rfl, by revert opens earlier; decide⟩

theorem witness_PhaseAndWakeup : (labBar { threadBarrier with arrivals := 1 } 0 ⟨0, true⟩ (some (5, 0x10000))).readyPhase 0 5 = some [0] ∧
    lab.readyPhase 0 5 = none := by decide +kernel

/-- `lab` with ring 0 in a state. -/
def labRing (r : Ring) : State := { sure lab [] with rings := lab.rings.set 0 r }

/-- The ring engine with its slots pinned, and a block of its neighbour's. -/
def pinnedRing : Ring :=
  { aRing with landed := 1, credits := 1, peerSlots := 4, pinned := true
               pins := [{ part := 0, ctx := 0, global := false, va := 0, pa := 0, bits := 21, at_ := 0x8000 }] }

def aBlock : RingBlock := { tag := 0, rev := 0, origin := 1, index := 0, toff := 0, tcnt := 0, payload := [7] }

theorem witness_RingEvents_handshake : let e := ({ aRing with state := .waiting } : Ring)
    let up : RingPeer := { tag := 0, n := 2, rev := 0, pos := 1, slots := 4 }
    (labRing e).ring 0 = e ∧ e.state = .waiting ∧ lab.portUp e.up = true ∧ lab.portUp e.down = true ∧ 0 < e.n ∧ e.next < e.total ∧ up.tag = e.tag ∧ up.n = e.n ∧ up.rev = e.rev ∧ up.pos = (e.m + e.n - 1) % e.n ∧
    up.pos = (e.m + 1) % e.n := by decide +kernel

theorem witness_RingEvents_down : ({ lab with linkUp := 0 } : State).portUp 0 = false := by decide +kernel

theorem witness_RingEvents_arrival : wellFormed (labRing pinnedRing) ∧ lab.portUp 0 = true ∧ ((labRing pinnedRing).ring 0).accepts aBlock = true ∧
    ((labRing pinnedRing).ring 0).next < ((labRing pinnedRing).ring 0).total ∧
    (let e := (labRing pinnedRing).ring 0
     let va := e.slots.toNat + e.landed % max 1 e.s * e.ssize
     (∀ a < 65, e.paOf (va + a) = e.paOf ((va + a) / 4096 * 4096) + (va + a) % 4096) ∧
     (List.range 65).Nodup ∧ (∀ a < 65, e.paOf (va + a) = 0x41000 + a) ∧ ∀ a < 65, PageKept (labRing pinnedRing) e (va + a) true) :=
  have kept : (List.range 65).all (fun a => let e := (labRing pinnedRing).ring 0
      keepsPage (labRing pinnedRing) e (e.slots.toNat + e.landed % max 1 e.s * e.ssize + a)) = true := by decide +kernel
  ⟨by unfold wellFormed; decide +kernel, by decide +kernel, by decide +kernel, by decide +kernel, by decide +kernel, by decide +kernel,
    by decide +kernel, fun a ha => pageKept_of (List.all_eq_true.mp kept a (List.mem_range.mpr ha))⟩

theorem witness_RingEvents_forward : ((labRing pinnedRing).ring 0).mayForward = true ∧
    ((labRing pinnedRing).ring 0).next < ((labRing pinnedRing).ring 0).total ∧ (lab.ring 0).mayForward = false ∧
    ((labRing pinnedRing).ring 0).state = .running := by decide +kernel

/-- The bytes of a launch record: entry 0x10000, save area at 0x100000, one thread; `bad` puts a reserved bit. -/
def aRecord (save : Nat) (bad : Bool) : List Byte :=
  leBytes 8 0x10000 ++ leBytes 8 0 ++ leBytes 8 save ++ [1, 1, 1, 1, 1, 0, if bad then 1 else 0, 0] ++ leBytes 32 0

/-- What the hub is asked to launch by such a record. -/
def anAsk (s : State) (save : Nat) : LaunchAsk :=
  { part := 0, ctx := s.layoutCtx 0, record := launchOf (sized 64 (aRecord save false)), graph := none
    nodes := [launchOf (sized 64 (aRecord save false))] }

theorem witness_LaunchEvents_pending :
    (({ lab with ports := [{ part := 0, number := 0, reason := 0, index := 0, pend := true, valid := false }] } : State).port 0).pend = true := by
  decide +kernel

theorem witness_LaunchEvents_broken : (lab.port 0).pend = false ∧ isGraph (sized 64 (aRecord 0x100000 true)) = false ∧
    recordBroken (sized 64 (aRecord 0x100000 true)) = true := by decide +kernel

theorem witness_LaunchEvents_asked : (lab.port 0).pend = false ∧ isGraph (sized 64 (aRecord 0x100000 false)) = false ∧
    recordBroken (sized 64 (aRecord 0x100000 false)) = false ∧
    (match lab.refuseLaunch (anAsk lab 0x100000) with | .ok _ => true | .error _ => false) = true ∧
    (match lab.refuseLaunch (anAsk lab 0x10000000000) with | .ok _ => false | .error x => x == (5, 0)) = true := by decide +kernel

/-- A team which has not started. -/
def freshTeam : Team := { teamOn 0 0 with started := false, placement := [] }

def labLaunch : State := { labWith (fun t => { t with team := 9 }) with launches := [aLaunch], teams := [freshTeam] }

theorem witness_LaunchEvents_start : labLaunch.team 0 = some freshTeam ∧ labLaunch.launch freshTeam.part freshTeam.launch = some aLaunch ∧
    aLaunch.coresident = false ∧ labLaunch.launchReady aLaunch = true ∧ labLaunch.nodeReady aLaunch freshTeam = true ∧ freshTeam.ended = false ∧
    freshTeam.num ∉ labLaunch.layout.heldTeams ∧ (∀ x ∈ labLaunch.threads, x.team ≠ freshTeam.num) ∧ [4].length = freshTeam.record.threads ∧
    seatsAgree (labLaunch.takenSeats.filter (fun x => x.team != freshTeam.num)) (freshTeam.seats [0]) = true ∧
    labLaunch.coresFit freshTeam [0] = true ∧ labLaunch.teams.length < 2 ^ 16 ∧ [0].length ≤ 4096 := by decide +kernel

/-- `lab` with its firmware up, memory as given. -/
def labUp : State := { lab with boot := { lab.boot with powered := true, running := true, ready := true } }

/-- A request with these body bytes. -/
def asks (body : List Byte) : Doorbell := { door := 0, len := BitVec.ofNat 16 body.length, rsv := 0, body := body, staging := [] }

theorem labUp_accepts (body : List Byte) (h : body.length < 65536) : Accepted labUp (asks body) body.length :=
  ⟨rfl, rfl, by simp [asks], rfl, by simp [asks]; omega⟩

theorem witness_MailboxAnswers_busy : ({ labUp with mailbox := { labUp.mailbox with busy := true } } : State).mailbox.busy = true := rfl

theorem witness_MailboxAnswers_layout : Accepted labUp (asks []) 0 ∧
    ({ labUp.ring_ 1 (asks []) with units := labUp.units.retire } : State).checkLayout (labUp.ring_ 1 (asks [])).mailbox.staging = none ∧
    ({ labUp with cur := { labUp.cur with status := .unbound } } : State).threads = [] :=
  ⟨labUp_accepts [] (by decide), by decide +kernel, by decide +kernel⟩

/-- A layout record of one entry: partition 0 with AMODE 0 and a footprint of 1 (R368, R369). -/
def aLayout : List Byte := leBytes 2 1 ++ leBytes 2 0 ++ leBytes 4 1 ++ leBytes 56 0 ++ [9, 0, 0, 0] ++ leBytes 4 0x10000 ++ leBytes 24 0

/-- It is accepted where its power fits, which the part decides. -/
theorem witness_MailboxAnswers_commit (h : ∀ raw, Config.layoutPowerFits raw = true) :
    ∃ gs, ({ labUp with units := labUp.units.retire } : State).checkLayout aLayout = some gs := by
  unfold State.checkLayout
  simp only [h, Bool.and_true]
  exact ⟨_, if_pos (by decide +kernel)⟩

theorem witness_MailboxAnswers_session : Accepted labUp (asks (List.replicate 3952 0)) 3952 ∧ labUp.partition 0 = true :=
  ⟨by
    have h := labUp_accepts (List.replicate 3952 0) (by rw [List.length_replicate]; decide)
    rwa [List.length_replicate] at h, by decide +kernel⟩

/-- `labUp` with counts and an account for partition 0. -/
def labCounts : State :=
  { labUp with
    counts := [{ part := 0, corrected := 1, demotions := 0, abandoned := 0, late := 0, overflows := 0, lost := 0 }]
    accounts := [{ id := 0, cats := List.replicate 8 0, readings := 0, cls := 0, gap := 0, gen := 0 }] }

theorem witness_MailboxAnswers_counts : Accepted labCounts (asks [0]) 1 ∧ labCounts.partition 0 = true ∧
    (labCounts.accounts.find? (fun x => x.id == 0)).isSome = true :=
  ⟨⟨rfl, rfl, by decide, rfl, rfl⟩, by decide +kernel, rfl⟩

theorem witness_MailboxAnswers_image : Accepted labUp (asks (List.replicate 32 0)) 32 := by
  simpa using labUp_accepts (List.replicate 32 0) (by simp)

/-- Page counters of partition 0 with threshold 1, ring at 0x40000 and tail at 0x50000; promoting frame 0x20 to tract 0. -/
theorem witness_MailboxAnswers_pages : Accepted labUp (asks ([0, 0] ++ leBytes 2 1 ++ leBytes 4 0 ++ leBytes 8 0x40000 ++ leBytes 8 0x50000)) 24 ∧
    labUp.inDram 0 0x40000 65536 = true ∧ labUp.inDram 0 0x50000 8 = true ∧ Accepted labUp (asks ([0, 0] ++ leBytes 6 0 ++ leBytes 8 0x20)) 16 ∧
    labUp.inDram 0 (4096 * 0x20) 4096 = true :=
  ⟨labUp_accepts _ (by decide), by decide +kernel, by decide +kernel, labUp_accepts _ (by decide), by decide +kernel⟩

/-- A promotion of frame 0x20 into tract 0. -/
def aPromotion (x : PromotionState) : Promotion := { number := 1, part := 0, frame := 0x20, target := 0, state := x }

theorem witness_MailboxAnswers_eight : Accepted labUp (asks (leBytes 8 1)) 8 ∧
    (∀ x, ({ labUp with promotions := [aPromotion x] } : State).promotions.find? (fun p => p.number == fieldAt (leBytes 8 1) 0 8) =
      some (aPromotion x)) ∧
    labUp.launch (fieldAt (leBytes 4 0 ++ leBytes 4 1) 0 1) (fieldAt (leBytes 4 0 ++ leBytes 4 1) 4 4) = none ∧
    ({ labUp with launches := [aLaunch], teams := [teamOn 0 0] } : State).launch 0 1 = some aLaunch ∧ aLaunch.complete = false ∧
    ∃ x ∈ ({ labUp with launches := [aLaunch], teams := [teamOn 0 0] } : State).teamsOf aLaunch, x.started = true :=
  ⟨labUp_accepts _ (by decide), fun _ => rfl, by decide +kernel, by decide +kernel, rfl, by decide +kernel⟩

theorem witness_BootEvents : lab.boot.powered = false ∧ (labUp.boot.running = true ∧ labUp.boot.minimal = none) ∧ lab.boot.running = false ∧
    labUp.boot.powered = true ∧ labUp.boot.startCount + 1 < 3 ∧
    3 ≤ ({ labUp with boot := { labUp.boot with startCount := 2 } } : State).boot.startCount + 1 ∧ labUp.layout.flipped < 512 ∧
    (let s : State := { labUp with layout := { labUp.layout with journal := .prepared 1, shadow := some [], flipped := 512 } }
     s.boot.powered = true ∧ 512 ≤ s.layout.flipped ∧ s.layout.journal = .prepared 1 ∧ s.layout.shadow = some []) := by decide +kernel

theorem witness_HubEvents_host : wellFormed lab ∧ lab.inDram (0 : BitVec 6).toNat 0x20000 8 = true ∧ HostClass.plain ≠ .orderedWrite ∧
    HostClass.plain ≠ .orderedRead ∧ ¬ inQueues lab 0x20000 ∧ (8 : Nat) ≤ 4096 ∧ (List.replicate 64 (0 : Byte)).length = 64 ∧
    fieldAt (sized 4096 ({ lab with mailbox := { lab.mailbox with request := [7] } } : State).mailbox.request) 0 2 = 7 :=
  ⟨rfl, by decide +kernel, by decide, by decide, by have h : lab.pageQueues = [] := rfl; simp [inQueues, h], by decide, by decide, by decide +kernel⟩

/-- An interval in which core island 0 used 5 + 2 microjoules. -/
def anIsland : IslandMeasure := { id := 0, cycles := 9, dynamic := 5, idle := 2, activity := [], moved := [] }

theorem witness_HubEvents_energy : (({ islands := [anIsland] } : EnergyMeasure).islands.map (·.id)).Nodup ∧ islandOf anIsland.id = (.core, 0) ∧
    islandOwner [{ type := 1, part := 3, value := 127, first := 0, count := 4, extra := 0 }] 0 = some 3 := by decide +kernel

theorem witness_HubEvents_promotion : let s : State := { labUp with promotions := [aPromotion .started], mem := { cells := [] } }
    s.served = true ∧ s.promotions.find? (fun x => x.number == 1) = some (aPromotion .started) ∧ s.frameStays 0 0x20 = false ∧
    s.frameFree 0 0x30 0 = true ∧ s.tablesMeet 0 0x20000 4096 = false := by decide +kernel

/-- A page table stays where it is. -/
theorem witness_HubEvents_held : wellFormed lab ∧ lab.frameStays 0 1 = true := ⟨rfl, by decide +kernel⟩

/-- A lane group, and a vault of tract 0, with 16 corrected errors in the interval that runs. -/
def labErrors : State :=
  { labUp with units := { lab.units with errors := List.replicate 16 (.laneGroup 0 0, 0) ++ List.replicate 16 (.vault 3, 0) } }

theorem witness_HubEvents_units : labErrors.served = true ∧ lab.served = false ∧ 16 ≤ labErrors.units.recent (.laneGroup 0 0) ∧ labErrors.units.recent (.laneGroup 0 1) < 16 ∧
    (∃ c ∈ countedIn (.tract 0), 16 ≤ labErrors.units.recent c) ∧ (∀ c ∈ countedIn (.tract 1), labErrors.units.recent c < 16) ∧
    labBound.team labBound.cur.team = some (teamOn 0 0) ∧ coreOf labBound.cur.slot / 128 = 0 ∧
    ({ labBound with launches := [aLaunch] } : State).launch 0 1 = some aLaunch := by decide +kernel

theorem witness_MemoryStaysCanonical : wellFormed labAdd ∧ ∃ t, step labAdd = .next t := ⟨rfl, _, rfl⟩

theorem witness_UserKeepsPrivileged : ∃ (i : Instr) (w : BitVec 32) (s t : State), encode i = some w ∧ s.cur.priv = false ∧ exec i s = .next t :=
  ⟨.add ⟨3, 3, 4, false, false⟩, _, lab, _, rfl, rfl, rfl⟩

/-! ## Single steps -/

/-- What an instruction leaves of a thread that goes on. -/
noncomputable def after (i : Instr) (s : State) (f : Thread → Bool) : Bool := match exec i s with | .next t => f t.cur | _ => false

/-- R53: an addition wraps modulo 2^64. -/
theorem test_add_wraps : after (.add ⟨3, 1, 2, false, false⟩) (labWith (fun t => (t.gwrite 1 (BitVec.allOnes 64)).gwrite 2 2))
    (fun t => t.gread 3 == 1 && t.pc == 0x10004) = true := by decide +kernel

/-- R52: a write of g0 is discarded. -/
theorem test_add_to_zero : after (.add ⟨0, 1, 1, false, false⟩) labAt (fun t => t.gread 0 == 0) = true := by decide +kernel

/-- R54: a division by 0 gives all ones, a remainder its dividend. -/
theorem test_div_zero : (after (.div ⟨3, 1, 0, false, false⟩) labAt (fun t => t.gread 3 == BitVec.allOnes 64) &&
    after (.rem ⟨3, 1, 0, false, false⟩) labAt (fun t => t.gread 3 == 0x20000)) = true := by decide +kernel

/-- R65: jalr reads its target before it links. -/
theorem test_jalr_links_last : after (.jalr ⟨1, 1, false, 4⟩) labAt (fun t => t.pc == 0x20004 && t.gread 1 == 0x10004) = true := by decide +kernel

/-- R58: a halfword's low byte lies first; ld.h extends its sign, ld.hz does not. -/
theorem test_halfword_load : (let s : State := { labAt with mem := labAt.mem.write 0x20000 [0x34, 0xF2] }
    after (.ldH ⟨4, 1, false, 0⟩) s (fun t => t.gread 4 == 0xFFFFFFFFFFFFF234) && after (.ldHz ⟨4, 1, false, 0⟩) s (fun t => t.gread 4 == 0xF234)) =
    true := by decide +kernel

/-- R323: trap saves the next word's address and goes to TVEC. -/
theorem test_trap : after (.trap ⟨0, 0, 5, false, false⟩) lab (fun t => t.epc == 0x10004 && t.ecause == 0x46 && t.einfo == 5 && t.pc == 0x2000 &&
    t.priv && t.busy && !t.ppriv) = true := by decide +kernel

/-- R80, R81: a 32-bit type with one register a group has 256 elements on eight lane groups, and VL is cut to that. -/
theorem test_vector_length : (after (.vsett ⟨3, 1, 0, false, false⟩) (labWith (fun t => t.gwrite 1 2)) (fun t => t.vl == 256 && t.vt == 2) &&
    after (.vsetl ⟨3, 1, 0, false, false⟩) (labWith (fun t => { t.gwrite 1 300 with vt := 2 })) (fun t => t.vl == 256 && t.gread 3 == 256)) = true := by
  decide +kernel

/-- R105: element 1 of a 32-bit addition wraps, and element 2 keeps its value under VL 2. -/
theorem test_vadd_wraps : after (.vadd ⟨8, 24, 24, false, false, 0, false, false, 0⟩) (labIndex (0x80000001 * 2 ^ 32))
    (fun t => t.elem 8 32 1 == 2 && t.elem 8 32 0 == 0 && t.pc == 0x10004 && t.queue.isEmpty) = true := by decide +kernel

/-- R2: SHA3-256 of no bytes (FIPS 202, its published example). -/
theorem test_sha3 : (sha3 []).take 4 = [0xA7, 0xFF, 0xC6, 0xF8] := by decide +kernel

/-- R112: vrev reverses the elements below VL. -/
theorem test_vrev : after (.vrev ⟨8, 24, 0, false, false, 0, false, false, 0⟩) (labIndex (7 + 9 * 2 ^ 32))
    (fun t => t.elem 8 32 0 == 9 && t.elem 8 32 1 == 7) = true := by decide +kernel

/-- R83, R84: an index outside the group at element 1 trims VL to 1 (R78 gives TRC its layout). -/
theorem test_vperm_trims : after (.vperm ⟨8, 16, 24, false, false, 0, false, false, 0⟩) (labIndex (0xFFFF * 2 ^ 32))
    (fun t => t.vl == 1 && t.trc == 0x1010A && t.queue.isEmpty) = true := by decide +kernel

/-! ## Vector work -/

/-- What most vector statements ask of a state, beside the push of the word. -/
structure Fresh (s : State) : Prop where
  sized : Sized s.cur
  todo : todo s.cur 0 false
  clean : Clean s.cur
  quiet : s.cur.fen = 0

theorem clean_of {t : Thread} (h : t.bad = Vector.replicate 32 0) (h' : t.sideBad = Vector.replicate 32 0) (hr : t.residue = []) : Clean t :=
  ⟨fun r n i => by simp [Thread.elemBad, h], fun r k => by simp [Thread.sideIsBad, Thread.sideErrors, h'], hr⟩

theorem fresh_vec : ∀ vt ∈ [2, 6, 8, 9, 0x0A, 0x0C], Fresh (labVec vt) := fun vt h =>
  have k : ∀ vt ∈ [2, 6, 8, 9, 0x0A, 0x0C], (1 ≤ (labVec vt).cur.lg ∧ (labVec vt).cur.lg ≤ 8) ∧ (labVec vt).cur.vl.toNat ≤ (labVec vt).cur.vlmax ∧
      (labVec vt).cur.vlmax ≤ 2048 ∧ (labVec vt).cur.es.toNat < (labVec vt).cur.vl.toNat := by decide +kernel
  ⟨⟨(k vt h).1, (k vt h).2.1, (k vt h).2.2.1⟩, ⟨(k vt h).2.2.2, by simp⟩, clean_of rfl rfl rfl, rfl⟩

theorem witness_VectorArithmeticResults_float : floatTable.all (fun x =>
    enters (labVec 0x0A) (x.1 (if x.2.1 || x.2.2.1 then threeGroups else twoGroups))) = true ∧ Fresh (labVec 0x0A) ∧
    isFloat (vtType (labVec 0x0A).cur.vt12) = true := ⟨by decide +kernel, fresh_vec _ (by decide), by decide +kernel⟩

/-- Reductions and scans on s32, the ordered sum on f32; then the sum on f32 as well. -/
theorem witness_VectorArithmeticResults_fold :
    (reductionTable.zip [0x0A, 6, 6, 6, 6, 6, 6]).all (fun x => enters (labVec x.2) (x.1.1 threeGroups)) = true ∧
    scanTable.all (fun x => enters (labVec 6) (x.1 threeGroups)) = true ∧ enters (labVec 6) (.vredGsum threeGroups) = true ∧
    enters (labVec 0x0A) (.vredSum threeGroups) = true ∧ Fresh (labVec 6) ∧ Fresh (labVec 0x0A) :=
  ⟨by decide +kernel, by decide +kernel, by decide +kernel, by decide +kernel, fresh_vec _ (by decide), fresh_vec _ (by decide)⟩

/-- Between s32 and f32, and from s32 to z8. -/
theorem witness_VectorArithmeticResults_conversion :
    conversionTable.all (fun x => [(0x0A : BitVec 5), 0].all (fun other => enters (labVec 6) (x.1 ⟨8, 16, other, false, false, 0, false, false, 0⟩)))
      = true ∧ Fresh (labVec 6) := ⟨by decide +kernel, fresh_vec _ (by decide)⟩

theorem witness_VectorArithmeticResults_matrix :
    [Instr.mmab threeGroups, .vwmac threeGroups, .vbexpF32 twoGroups, .vbexpGet twoGroups, .vbexpSet twoGroups,
      .vbnorm ⟨8, 16, 6, false, false, 0, false, false, 0⟩].all (enters (labVec 0x0C)) = true ∧
    [Instr.mmah threeGroups, .mzero ⟨8, 0, 0, false, false, 0, false, false, 0⟩].all (enters (labVec 9)) = true ∧
    (∀ i < 2, ((labVec 0x0C).cur.codeAt 16 0x0C i).isSome = true ∧
      ∀ m < 32, ((labVec 0x0C).cur.codeAt 24 0x0C (32 * m + i % 32)).isSome = true ∧ ((labVec 0x0C).cur.codeAt 24 0x0C i).isSome = true) ∧
    (labVec 0x0C).cur.vl = 2 ∧ Fresh (labVec 0x0C) ∧ Fresh (labVec 9) :=
  ⟨by decide +kernel, by decide +kernel, by decide +kernel, rfl, fresh_vec _ (by decide), fresh_vec _ (by decide)⟩

theorem witness_PredicateResults_floatCompare :
    floatCompareTable.all (fun x => enters (labVec 0x0A) (x.1 ⟨1, 2, 16, 24, false, 0, false, false⟩)) = true ∧ Fresh (labVec 0x0A) :=
  ⟨by decide +kernel, fresh_vec _ (by decide)⟩

/-- vgroup and the segmented scans; vgroup's order of two equal keys is 0, 1. -/
theorem witness_PredicateResults_groups :
    [Instr.vgroup ⟨8, 16, 1, false, false, 0, false, false, 0⟩, .vsegsum ⟨8, 16, 1, false, false, 0, false, false, 0⟩,
      .vsegmax ⟨8, 16, 1, false, false, 0, false, false, 0⟩, .vsegmin ⟨8, 16, 1, false, false, 0, false, false, 0⟩].all (enters (labVec 6)) = true ∧
    (List.range 2).filter (active (labVec 6).cur 0 false) = [0, 1] ∧ (labVec 6).cur.elem 16 32 0 = (labVec 6).cur.elem 16 32 1 ∧ Fresh (labVec 6) :=
  ⟨by decide +kernel, by decide +kernel, by decide +kernel, fresh_vec _ (by decide)⟩

/-- Streams q1 and q2 whose keys have landed: 1, 3 and 3. -/
def labKeys : State := (labVec 6).mod (fun t =>
  { t with q := (t.q.set 1 { aStream with vt := 6, count := 2, ahead := [⟨0, 0, 0, 1⟩, ⟨1, 0, 0, 3⟩] }).set 2
                  { aStream with vt := 6, count := 1, ahead := [⟨0, 0, 0, 3⟩] } })

theorem witness_PredicateResults_intersect : enters labKeys (.vxsect ⟨8, 1, 2, false, false, 1, false, false, 0⟩) = true ∧
    LandedKeys labKeys (labKeys.cur.qread 1) [1, 3] ∧ LandedKeys labKeys (labKeys.cur.qread 2) [3] ∧ (labKeys.cur.qread 1).vt = labKeys.cur.vt12 ∧
    (labKeys.cur.qread 2).vt = labKeys.cur.vt12 ∧ vtHasMem labKeys.cur.vt12 = false ∧ labKeys.cur.es = 0 ∧
    [1, 3].Pairwise (fun x y : Int => x < y) := by
  unfold LandedKeys; decide +kernel

/-- A descriptor at 0x20000: row ends at 0x20020, one row that ends at 1, one non-zero. -/
def labMerge : State :=
  let s := (labVec 2).mod (fun t => t.gwrite 9 1)
  sure { s with mem := (s.mem.write 0x20000 (leBytes 8 0x20020 ++ leBytes 8 1 ++ leBytes 8 1)).write 0x20020 [1] } [0x20000]

theorem witness_PredicateResults_merge : enters labMerge (.vmerge ⟨8, 1, 9, false, false, 1, false, false, 0⟩) = true ∧
    (∃ bs, Holds labMerge 0x20000 32 32 Need.load bs ∧ fieldAt bs 0 8 = 0x20020 ∧ fieldAt bs 8 8 = 1 ∧ fieldAt bs 16 8 = 1 ∧ fieldAt bs 24 8 = 0) ∧
    Plain labMerge (0x20020 : Nat) 4 Need.load 0x20020 ∧ leNat (labMerge.read 0x20020 4) = 1 ∧ labMerge.cur.es = 0 :=
  ⟨by decide +kernel, ⟨_, holds_of (by decide +kernel), by decide +kernel⟩, plain_of (by decide +kernel), by decide +kernel, by decide +kernel⟩

/-- Loads and stores, gathers and scatters of two words at 0x20000, and 0x40000 where a stride is added. -/
def labMem : State := sure (labVec 6) [0x20000, 0x40000]

theorem witness_MoveResults_memory_words :
    (memoryTable.zip [twoGroups, threeGroups, threeGroups, twoGroups, twoGroups, twoGroups, twoGroups, twoGroups, twoGroups, twoGroups,
      threeGroups, threeGroups, threeGroups, threeGroups]).all (fun x => enters labMem (x.1.1 x.2) && enters labMem (x.1.2.1 x.2)) = true := by
  decide +kernel

theorem witness_MoveResults_memory_plain :
    (memoryTable.zip [twoGroups, threeGroups, threeGroups, twoGroups, twoGroups, twoGroups, twoGroups, twoGroups, twoGroups, twoGroups,
      threeGroups, threeGroups, threeGroups, threeGroups]).all (fun x => (List.range 2).all (fun i => (x.1.2.2.2.2 x.2 labMem.cur 4 i).all (fun p =>
        decide (0 ≤ p.1) && p.1.toNat % 4 == 0 && spans labMem p.1.toNat 4 Need.load && spans labMem p.1.toNat 4 Need.store))) = true ∧
    wellFormed labMem ∧ vtType labMem.cur.vt12 ≤ 0x0B ∧ vtMem labMem.cur.vt12 = vtType labMem.cur.vt12 :=
  ⟨by decide +kernel, by unfold wellFormed; decide +kernel, by decide +kernel, by decide +kernel⟩

/-- f32 registers over bf16 memory, where a 0 converts without a flag. -/
theorem witness_MoveResults_memory_convert : let s := sure (labVec 0x12A) [0x20000]
    enters s (.vld twoGroups) = true ∧ enters s (.vst twoGroups) = true ∧ vtType s.cur.vt12 = 0x0A ∧ vtMem s.cur.vt12 = 9 ∧
    (∀ i < 2, (passing 9 0x0A s.cur.frm.toNat (leNat (s.read (0x20000 + 2 * i) 2))).2 = 0 ∧ (passing 0x0A 9 s.cur.frm.toNat (s.cur.elem 8 32 i)).2 = 0 ∧
      Plain s (0x20000 + 2 * i : Nat) 2 Need.load (0x20000 + 2 * i) ∧ Plain s (0x20000 + 2 * i : Nat) 2 Need.store (0x20000 + 2 * i)) ∧ wellFormed s :=
  have both : ∀ need ∈ [Need.load, Need.store], ∀ i < 2, ((0x20000 + 2 * i) % 2 == 0 && spans (sure (labVec 0x12A) [0x20000]) (0x20000 + 2 * i) 2 need) = true := by
    decide +kernel
  have exact_ : ∀ i < 2, (passing 9 0x0A 0 (leNat ((sure (labVec 0x12A) [0x20000]).read (0x20000 + 2 * i) 2))).2 = 0 ∧
      (passing 0x0A 9 0 ((sure (labVec 0x12A) [0x20000]).cur.elem 8 32 i)).2 = 0 := by decide +kernel
  ⟨by decide +kernel, by decide +kernel, by decide +kernel, by decide +kernel,
    fun i h => ⟨(exact_ i h).1, (exact_ i h).2, plain_of (both _ (by decide) i h), plain_of (both _ (by decide) i h)⟩, by unfold wellFormed; decide +kernel⟩

/-- The leaf of a formatted page with A and D. -/
def blockLeaf : Leaf := { word := 0x21BF, at_ := 0x8000, bits := 35 }

/-- A b8 register over a format region at 0x20000. -/
def labBlock : State :=
  let s := labVec 0x0C
  let s1 : State := { s with
    mem := s.mem.write 0x8000 (leBytes 8 0x21BF)
    layout := { s.layout with grants := s.layout.grants ++ [{ type := 7, part := 0, value := 2 ^ 31 + 12 * 2 ^ 24 + 1, first := 0, count := 0, extra := 0x20000 }] } }
  (s1.touch s1.cur.ctx 0 blockLeaf true).useLines 0x21BF 0x20000 34

theorem block_plain : ∀ need ∈ [Need.load, Need.store], BlockPlain labBlock 0x20000 0x0C need 0x20000 := fun need h =>
  ⟨[{ cands := [], va := 0x20000, pa := 0x20000, leaf := blockLeaf, ns := false, size := 34, write := need.write }],
    by revert need; decide +kernel, rfl, fun r hr => by
      simp only [List.mem_singleton] at hr
      subst hr
      exact ⟨rfl, rfl, touch_settled (l := blockLeaf) (by decide) (show labBlock.tlbHit labBlock.cur.ctx 0x20000 = _ by decide +kernel) _,
        show labBlock.noteAccess 0x20000 = labBlock by decide +kernel, by revert need; decide +kernel⟩⟩

/-- Only the first block holds an active element. -/
theorem witness_MoveResults_blocks : [Instr.vld twoGroups, .vst twoGroups, .vmov twoGroups].all (enters labBlock) = true ∧
    (∀ need ∈ [Need.load, Need.store], BlockPlain labBlock ((labBlock.cur.gread 16).toNat + 34 * 0) (vtMem labBlock.cur.vt12) need 0x20000) ∧
    (∀ b < labBlock.cur.vlmax / 32, (List.range 32).any (fun k => active labBlock.cur 0 false (32 * b + k)) = decide (b = 0)) ∧
    isBlock (vtType labBlock.cur.vt12) = true ∧ Fresh labBlock ∧ labBlock.wild = [] ∧ wellFormed labBlock :=
  ⟨by decide +kernel, block_plain, by decide +kernel, by decide +kernel,
    ⟨⟨by decide +kernel, by decide +kernel, by decide +kernel⟩, ⟨by decide +kernel, by simp⟩, clean_of rfl rfl rfl, rfl⟩, by decide +kernel,
    by unfold wellFormed; decide +kernel⟩

theorem witness_MoveResults_traces : [Instr.vpget ⟨8, 1, 0, false, false, 0, false, false, 0⟩, .vpclr ⟨0, 1, 0, false, false, 0, false, false, 0⟩,
      .vpnode ⟨8, 1, 0, false, false, 0, false, false, 0⟩].all (enters (labVec 2)) = true ∧ Fresh (labVec 2) :=
  ⟨by decide +kernel, fresh_vec _ (by decide)⟩

/-- `labFull` on memory mapped surely: a tree record at g6, whose weights, bias and row lie at 0, and more below. -/
def labSure (lines : List Nat) (mem : List (Nat × List Byte)) (f : Thread → Thread) : State :=
  let s := (labFull aRing).mod f
  sure { s with mem := mem.foldl (fun m x => m.write x.1 x.2) s.mem } lines

theorem witness_MoveResults_tree : let s := labSure [0, 0x35000] [] id
    enters s (.vdesc ⟨8, 16, 6, false, false, 0, false, false, 0⟩) = true ∧
    (∃ bs, Holds s 0x35000 64 64 Need.load bs ∧ (treeOf bs).check bs = none ∧ (treeOf bs).fmt = 9 ∧ (treeOf bs).d = 32 ∧ (treeOf bs).depth = 1 ∧
      (treeOf bs).wbase = 0 ∧ (treeOf bs).nstride = 0 ∧ (treeOf bs).xbase = 0 ∧ (treeOf bs).bbase = 0) ∧
    s.cur.elem 8 32 0 = 0 ∧ s.cur.trace 0 0 = 0 ∧ s.cur.vl = 1 ∧ s.cur.fen = 0 ∧
    (∀ c < 32, Plain s (2 * c : Nat) 2 Need.load (2 * c)) ∧ Plain s (0 : Nat) 4 Need.load 0 :=
  have k : (List.range 32).all (fun c => 2 * c % 2 == 0 && spans (labSure [0, 0x35000] [] id) (2 * c) 2 Need.load) = true := by decide +kernel
  ⟨by decide +kernel, ⟨_, holds_of (by decide +kernel), by decide +kernel⟩, by decide +kernel, by decide +kernel, by decide +kernel,
    by decide +kernel, fun c hc => plain_of (List.all_eq_true.mp k c (List.mem_range.mpr hc)), plain_of (by decide +kernel)⟩

/-- A contraction over one index: A and B dense in bf16, C in f32. -/
def labTcon : State :=
  labSure [0x34000, 0x34080, 0x34100, 0x34800] [(0x34000, [2]), (0x34010, [1, 0, 0, 0, 1]), (0x34040, leBytes 8 0x34800 ++ [2, 9, 0, 0, 0, 1]),
    (0x340A0, leBytes 8 0x34810 ++ [1, 9, 0, 0, 1]), (0x34100, leBytes 8 0x34820 ++ [1, 0x0A])] id

theorem witness_MoveResults_contract : enters labTcon (.tcon ⟨0, 5, 0, false, false, 0, false, false, 0⟩) = true ∧
    (∃ bs, Holds labTcon 0x34000 384 128 Need.both bs ∧ (let k := tconBlockOf bs
      k.check bs = none ∧ k.nidx = 2 ∧ k.cursor = 0 ∧ k.acc = false ∧ k.c.order = 1 ∧ k.a.fmt = 0 ∧ k.b.fmt = 0 ∧ k.a.ids.take k.a.order = [0, 1] ∧
      k.b.ids.take k.b.order = [1] ∧ k.extent.take 2 = [1, 1] ∧ k.a.vals = 0x34800 ∧ k.b.vals = 0x34810 ∧ k.c.vals = 0x34820)) ∧
    wellFormed labTcon ∧ labTcon.cur.es = 0 ∧ labTcon.cur.vl = 1 ∧ labTcon.cur.fen = 0 ∧ Plain labTcon (0x34820 : Nat) 4 Need.store 0x34820 ∧
    Plain labTcon (0x34800 : Nat) 2 Need.load 0x34800 ∧ Plain labTcon (0x34810 : Nat) 2 Need.load 0x34810 ∧
    Plain labTcon (0x34008 : Nat) 8 Need.store 0x34008 :=
  ⟨by decide +kernel, ⟨_, holds_of (by decide +kernel), by decide +kernel⟩, by unfold wellFormed; decide +kernel, by decide +kernel, by decide +kernel,
    by decide +kernel, plain_of (by decide +kernel), plain_of (by decide +kernel), plain_of (by decide +kernel), plain_of (by decide +kernel)⟩

/-- Two elements that name one location, on s32 and, where the form has it, on f32. -/
theorem witness_AtomicResults_vector : vectorAtomicTable.all (fun x => enters (sure (labVec 6) [0x20000]) (x.1 threeGroups)) = true ∧
    [Instr.vamoAdd threeGroups, .vamoMin threeGroups, .vamoMax threeGroups, .vamofAdd threeGroups, .vamofMin threeGroups,
      .vamofMax threeGroups].all (enters (sure (labVec 0x0A) [0x20000])) = true ∧
    ∀ vt ∈ [6, 0x0A], let s := sure (labVec vt) [0x20000]
      (List.range 2).filter (active s.cur 0 false) = [0, 1] ∧ (∀ i < 2, s.cur.elem 24 32 i = 0) ∧ typeWidth (vtType s.cur.vt12) = 32 ∧
      Plain s (0x20000 : Nat) 4 Need.both 0x20000 ∧ Settled s 0x20000 4 ∧ wellFormed s ∧ Clean s.cur := by
  refine ⟨by decide +kernel, by decide +kernel, fun vt h => ⟨?_, ?_, ?_, plain_of ?_, ⟨?_, ?_, ?_, ?_⟩, ?_, clean_of rfl rfl rfl⟩⟩ <;>
    (revert vt; try unfold wellFormed) <;> decide +kernel

theorem witness_AtomicResults_nothing : let s := (labVec 6).mod (fun t => { t with vl := 0 })
    enters s (.vclaim ⟨4, 1, 0, false, false⟩) = true ∧ s.cur.es = 0 ∧ s.cur.vl = 0 ∧ wellFormed s :=
  ⟨by decide +kernel, by decide +kernel, by decide +kernel, by unfold wellFormed; decide +kernel⟩

theorem witness_AtomicResults_claim : let s := sure ((labVec 6).mod (fun t => t.gwrite 1 0x20010)) [0x20010]
    enters s (.vclaim ⟨4, 1, 0, false, false⟩) = true ∧ s.cur.es = 0 ∧ s.cur.vl ≠ 0 ∧ Plain s (0x20010 : Nat) 16 Need.both 0x20010 ∧
    Settled s 0x20010 16 ∧ wellFormed s :=
  ⟨by decide +kernel, by decide +kernel, by decide +kernel, plain_of (by decide +kernel), ⟨by decide +kernel, by decide +kernel, by decide +kernel⟩,
    by unfold wellFormed; decide +kernel⟩

/-! ## Issued work -/

/-- qbind of no elements, qfree, a vpop of one landed element. -/
theorem witness_EngineEvents_streams :
    [Instr.qbind ⟨4, 1, 0, false, false, 0, false, false, 0⟩, .qfree ⟨1, 0, 0, false, false, 0, false, false, 0⟩,
      .vpop ⟨8, 1, 0, false, false, 0, false, false, 0⟩].all (enters (labFull aRing)) = true ∧ Sized (labFull aRing).cur ∧
    ((labFull aRing).cur.gread 0).toNat < 2 ^ 48 ∧ ((labFull aRing).cur.qread 1).kind ≠ .unbound ∧
    (let s := (labFull aRing).mod (fun t => { t with q := t.q.set 1 { aStream with count := 1, ahead := [⟨0, 0, 0, 7⟩] } })
     enters s (.vpop ⟨8, 1, 0, false, false, 0, false, false, 0⟩) = true ∧ s.cur.es.toNat < s.cur.vl.toNat ∧ LandedKeys s (s.cur.qread 1) [7] ∧
     (s.cur.qread 1).vt = s.cur.vt12 ∧ vtMem s.cur.vt12 = vtType s.cur.vt12) :=
  ⟨by decide +kernel, ⟨by decide +kernel, by decide +kernel, by decide +kernel⟩, by decide +kernel, by decide +kernel,
    by unfold LandedKeys; decide +kernel⟩

theorem witness_EngineEvents_shapes : let s := labSure [0x20000] [] id
    enters s (.hld ⟨1, 1, 0, false, false, 0, false, false, 0⟩) = true ∧ enters s (.hst ⟨1, 1, 0, false, false, 0, false, false, 0⟩) = true ∧
    (∃ bs, Holds s 0x20000 128 128 Need.load bs) ∧ wellFormed s ∧ (s.cur.gread 1).toNat = 0x20000 ∧
    ∀ k < 16, Plain s (0x20000 + 8 * k : Nat) 8 Need.store (0x20000 + 8 * k) :=
  have k : (List.range 16).all (fun k => (0x20000 + 8 * k) % 8 == 0 && spans (labSure [0x20000] [] id) (0x20000 + 8 * k) 8 Need.store) = true := by
    decide +kernel
  ⟨by decide +kernel, by decide +kernel, ⟨_, holds_of (by decide +kernel)⟩, by unfold wellFormed; decide +kernel, by decide +kernel,
    fun j hj => plain_of (List.all_eq_true.mp k j (List.mem_range.mpr hj))⟩

theorem witness_EngineEvents_tcopy : let s := labSure [0x38000] [] id
    let f : FmtV := ⟨2, 1, 9, false, false, 0, false, false, 0⟩
    let h := shapeOf (s.cur.hread 1)
    (enters s (.tcopy f) = true ∧ s.cur.es.toNat < s.cur.vl.toNat ∧ s.cur.vl = 1 ∧ s.cur.gread 9 = 5 ∧ s.cur.hread 2 = s.cur.hread 1) ∧
    ((match encode (.tcopy f) with | some w => (s.copyCheck 1 2 (viewOf s (descOf w) w)).isNone | none => false) = true ∧ h.block = false ∧
      h.base % h.unit = 0 ∧ s.expectedOver 5 1 = false ∧ 2 ≤ s.pinRoom ∧ 0 < h.count ∧ h.addr 0 = 0x38000 ∧ h.unit = 2) ∧
    Plain s (0x38000 : Nat) 2 Need.load 0x38000 ∧
    Plain s (0x38000 : Nat) 2 Need.store 0x38000 :=
  ⟨by decide +kernel, by decide +kernel, plain_of (by decide +kernel), plain_of (by decide +kernel)⟩

theorem witness_EngineEvents_sealed : let s := labSure [0x36000] [] id
    (∀ opens : Bool, enters s (if opens then .kopen ⟨0, 7, 9, false, false, 0, false, false, 0⟩ else .kseal ⟨0, 7, 9, false, false, 0, false, false, 0⟩)
      = true) ∧
    (∃ bs, Holds s 0x36000 64 64 Need.both bs ∧ fieldAt bs 0x24 0x14 = 0 ∧ fieldAt bs 0x20 0x18 = 0 ∧ fieldAt bs 16 8 = 4) ∧ s.cur.es = 0 ∧
    s.cur.gread 9 = 5 ∧ s.landingReason 5 = none ∧ s.expectedOver 5 1 = false :=
  ⟨by decide +kernel, ⟨_, holds_of (by decide +kernel), by decide +kernel⟩, by decide +kernel, by decide +kernel, by decide +kernel, by decide +kernel⟩

/-- The tensor at 0x30000, its slot 0 pinned once, with one piece of 4 elements at 0x35000 and its anchor; `moved` makes slot 1 the current one. -/
def labTensor (moved : Bool) : State :=
  labSure [0x30000, 0x31000, 0x32000] ([(0x30014, leBytes 4 0 ++ leBytes 4 0xFFFFFFFF ++ leBytes 4 1), (0x32006, [1, 0, 4]),
    (0x31000, leBytes 8 0x35000 ++ leBytes 4 4 ++ leBytes 4 0xFFFFFFFF ++ leBytes 4 1)] ++ if moved then [(0x30024, [1, 3])] else []) id

theorem tensor_stitched (moved : Bool) (head : spans (labTensor moved) 0x30000 64 Need.load = true)
    (record : spans (labTensor moved) 0x32000 16 Need.load = true)
    (formed : (headOf 0x30000 ((labTensor moved).read 0x30000 64)).wellFormed ((labTensor moved).read 0x30000 64) = true)
    (anchors : (headOf 0x30000 ((labTensor moved).read 0x30000 64)).anchors = 0x32000) (tame : (labTensor moved).wild = []) :
    Stitched (labTensor moved) 0x30000 0 0x30000 0x32000 (headOf 0x30000 ((labTensor moved).read 0x30000 64))
      { version := leNat ((labTensor moved).read 0x32000 4), pins := leNat ((labTensor moved).read 0x32004 2)
        nanch := leNat ((labTensor moved).read 0x32006 2), length := leNat ((labTensor moved).read 0x32008 8) } := by
  refine ⟨⟨plain_of (by simpa using head), rfl, formed⟩, ?_, rfl, tame⟩
  rw [Head.slotAt, anchors]
  exact plain_of (by simpa using record)

/-- xpin, xunpin of the current slot and of one that is not, xlen. -/
theorem witness_EngineEvents_pins : (∀ moved : Bool,
      [Instr.xpin ⟨4, 2, 0, false, false, 0, false, false, 0⟩, .xunpin ⟨0, 3, 0, false, false, 0, false, false, 0⟩,
        .xlen ⟨4, 3, 0, false, false, 0, false, false, 0⟩].all (enters (labTensor moved)) = true ∧ wellFormed (labTensor moved) ∧
      (labTensor moved).cur.gread 2 = 0x30000 ∧ (labTensor moved).cur.gread 3 = 0x0100000000030000 ∧ (labTensor moved).cur.es = 0 ∧
      Stitched (labTensor moved) 0x30000 0 0x30000 0x32000 (headOf 0x30000 ((labTensor moved).read 0x30000 64)) ⟨1, 1, 1, 4⟩ ∧
      (headOf 0x30000 ((labTensor moved).read 0x30000 64)).curslot = moved.toNat ∧
      (headOf 0x30000 ((labTensor moved).read 0x30000 64)).live.testBit 0 = true ∧
      Plain (labTensor moved) (0x32004 : Nat) 2 Need.store 0x32004 ∧ Plain (labTensor moved) (0x30025 : Nat) 1 Need.store 0x30025) := by
  have e : ∀ moved, (⟨leNat ((labTensor moved).read 0x32000 4), leNat ((labTensor moved).read 0x32004 2),
      leNat ((labTensor moved).read 0x32006 2), leNat ((labTensor moved).read 0x32008 8)⟩ : SlotRecord) = ⟨1, 1, 1, 4⟩ := by
    decide +kernel
  intro moved
  have h := by
    refine tensor_stitched moved ?_ ?_ ?_ ?_ ?_ <;> revert moved <;> decide +kernel
  rw [e moved] at h
  refine ⟨?_, ?_, ?_, ?_, ?_, h, ?_, ?_, plain_of ?_, plain_of ?_⟩ <;> (clear h; revert moved; try unfold wellFormed) <;> decide +kernel

/-- xrun at index 5, past the end, and at index 0, in the piece that the anchor names. -/
theorem witness_EngineEvents_xrun : let s := labTensor false
    [Instr.xrun ⟨4, 3, 9, false, false, 0, false, false, 0⟩, .xrun ⟨4, 3, 8, false, false, 0, false, false, 0⟩].all (enters s) = true ∧
    s.cur.gread 9 = 5 ∧ s.cur.gread 8 = 0 ∧ Plain s (0x32010 : Nat) 16 Need.load 0x32010 ∧ Plain s (0x32018 : Nat) 8 Need.load 0x32018 ∧
    Plain s (0x31000 : Nat) 32 Need.load 0x31000 ∧ s.read 0x31000 32 = (⟨0x35000, 4, 0xFFFFFFFF, 1, 0, 0⟩ : PoolEntry).bytes ∧
    (⟨0x35000, 4, 0xFFFFFFFF, 1, 0, 0⟩ : PoolEntry).alive 1 = true ∧ leNat (s.read 0x32010 4) = 0 ∧ leNat (s.read 0x32014 4) = 0 ∧
    leNat (s.read 0x32018 8) = 0 :=
  ⟨by decide +kernel, by decide +kernel, by decide +kernel, plain_of (by decide +kernel), plain_of (by decide +kernel), plain_of (by decide +kernel),
    by decide +kernel⟩

/-- A splice that inserts nothing and removes nothing, and a reaping that finds nothing; the unit stops at neither. -/
theorem witness_EngineEvents_splice : let s := labFull aRing
    enters s (.xsplice ⟨4, 2, 4, false, false, 0, false, false, 0⟩) = true ∧ enters s (.xreap ⟨4, 2, 1, false, false, 0, false, false, 0⟩) = true ∧
    wellFormed s ∧ s.cur.vl ≠ 0 ∧
    (match encode (.xsplice ⟨4, 2, 4, false, false, 0, false, false, 0⟩) with
      | some w =>
        let head := (UnitRun.start (pushed s (descOf w) w)).header 0x30000
        let d := head.2.descriptor head.1 (s.cur.gread 4).toNat
        head.2.stop.isNone && d.2.2.2.stop.isNone && (d.2.2.2.splice head.1 d.1 d.2.1 d.2.2.1).stop.isNone
      | none => false) = true ∧
    (match encode (.xreap ⟨4, 2, 1, false, false, 0, false, false, 0⟩) with
      | some w =>
        let head := (UnitRun.start (pushed s (descOf w) w)).header 0x30000
        let out := head.2.outputs (s.cur.gread 1).toNat s.cur.vl.toNat 0
        let live := out.2.2.versions head.1 (List.range 8)
        let list := live.2.list head.1 head.1.cap head.1.head
        let reaped := reapFrom live.1 out.1 list.1
        head.2.stop.isNone && out.2.1.isNone && (list.2.commit (reapWrites head.1 (s.cur.gread 1).toNat reaped.1 reaped.2)).stop.isNone
      | none => false) = true :=
  ⟨by decide +kernel, by decide +kernel, by unfold wellFormed; decide +kernel, by decide +kernel, by decide +kernel, by decide +kernel⟩

/-! ## Ring instructions -/

/-- The pin of the first 2 MiB. -/
def lowPin : Pin := { part := 0, ctx := 0, global := false, va := 0, pa := 0, bits := 21, at_ := 0x8000 }

/-- A ring that runs, its own block 0 not yet posted: no bytes at 0x50000. -/
theorem witness_RingEvents_post : let r : Ring := { aRing with pinned := true, pins := [lowPin] }
    let s : State := { labSure [0x50000] [] id with rings := (labFull aRing).rings.set 0 r }
    enters s (.ringPost ⟨0, 0, 0, false, false, 0, false, false, 0⟩) = true ∧ wellFormed s ∧ (s.wild = [] ∧ s.cur.es = 0 ∧
    (s.ringPorts 0 0).isSome = true ∧ (s.ring 0) = r ∧ r.landed < r.b ∧ r.next < r.total) ∧
    (∃ bs, Holds s 0x50000 32 32 Need.load bs ∧ fieldAt bs 0 8 = 0 ∧ fieldAt bs 8 4 = 0 ∧ fieldAt bs 12 4 = 0 ∧ fieldAt bs 16 2 = 0 ∧
      fieldAt bs 18 14 = 0) ∧ (∀ a < 64, r.paOf (0x40000 + a) = 0x40000 + a) ∧ ∀ a < 64, PageKept s r (0x40000 + a) true :=
  have kept : (List.range 64).all (fun a => keepsPage { labSure [0x50000] [] id with
      rings := (labFull aRing).rings.set 0 { aRing with pinned := true, pins := [lowPin] } } { aRing with pinned := true, pins := [lowPin] }
      (0x40000 + a)) = true := by decide +kernel
  ⟨by decide +kernel, by unfold wellFormed; decide +kernel, by decide +kernel, ⟨_, holds_of (by decide +kernel), by decide +kernel⟩, by decide +kernel,
    fun a ha => pageKept_of (List.all_eq_true.mp kept a (List.mem_range.mpr ha))⟩

/-- qbind.ring; ring.hdr with a current block, with the next one, at the end, and after a break; ring.done; ring.stat and ring.brk. -/
theorem witness_RingEvents_consume :
    (enters (labFull aRing) (.qbindRing ⟨4, 0, 0, false, false, 0, false, false, 0⟩) = true ∧ ((labFull aRing).ringPorts 0 0).isSome = true ∧
      ((labFull aRing).ring 0).state = .running ∧ ((labFull aRing).ring 0).user = none) ∧
    ([{ aRing with heads := [aHead], landed := 1, current := true }, { aRing with heads := [aHead], landed := 1 }, { aRing with next := 2 },
      { aRing with state := .broken }].all (fun r =>
        enters (labFull r) (.ringHdr ⟨4, 3, 0, false, false, 0, false, false, 0⟩) && ((labFull r).cur.qread 3).kind == .ring)) = true ∧
    (({ aRing with heads := [aHead], landed := 1, current := true } : Ring).block = some aHead ∧
      ({ aRing with heads := [aHead], landed := 1 } : Ring).block = none ∧ ({ aRing with next := 2 } : Ring).block = none ∧ aRing.total = 2 ∧
      aRing.bit 0 ∉ aRing.marked) ∧
    (let r : Ring := { aRing with heads := [aHead], landed := 1, current := true, pinned := true, pins := [lowPin] }
     let s : State := { labSure [] [] id with rings := (labFull r).rings }
     enters s (.ringDone ⟨0, 3, 0, false, false, 0, false, false, 0⟩) = true ∧ r.next + 1 < r.total ∧ keepsPage s r (r.done.toNat + r.bit 0 / 8) = true ∧
     s.copyMeets (r.paOf (r.done.toNat + r.bit 0 / 8)) 1 true = false) ∧
    enters (labFull aRing) (.ringStat ⟨4, 0, 0, false, false, 0, false, false, 0⟩) = true ∧
    enters (labFull aRing) (.ringBrk ⟨0, 0, 0, false, false, 0, false, false, 0⟩) = true := by decide +kernel

/-- The page of the vault aperture at 32 GiB that `labRings` maps. -/
def vaultLeaf : Leaf := { word := BitVec.ofNat 64 (0x1BF + 2 ^ 16 * (apertureBase / 4096)), at_ := 0x60000, bits := 21 }

/-- A ring record at 0x36000: two members, one block each, slots in a vault at 32 GiB, own list at 0x50000, bitmap at 0x51000. -/
def labRings : State :=
  let s := labFull Ring.off
  let s1 : State := { s with
    mem := ([(0x8008, leBytes 8 (1 + 2 ^ 16 * 0x60)), (0x60000, leBytes 8 vaultLeaf.word.toNat),
      (0x36000, leBytes 8 9 ++ [2, 0, 0, 1, 1, 4, 0, 0] ++ leBytes 4 4096 ++ leBytes 4 0 ++ leBytes 8 (2 ^ 35) ++ leBytes 8 0x50000 ++
        leBytes 8 0x51000), (0x51000, [2])] : List (Nat × List Byte)).foldl (fun m x => m.write x.1 x.2) s.mem
    layout := { s.layout with grants := s.layout.grants ++ [{ type := 2, part := 0, value := 0, first := 0, count := 16, extra := 0 }] } }
  let s2 := sure s1 [0x36000, 0x50000, 0x51000]
  s2.touch s2.cur.ctx (2 ^ 35) vaultLeaf true

theorem witness_RingEvents_cfg : enters labRings (.ringCfg ⟨0, 7, 0, false, false, 0, false, false, 0⟩) = true ∧ wellFormed labRings ∧
    labRings.wild = [] ∧ labRings.cur.es = 0 ∧ labRings.cur.gread 7 = 0x36000 ∧ (labRings.ring 0).active = false ∧
    (∃ bs, Holds labRings 0x36000 128 128 Need.load bs ∧ (ringOf 0 bs).bad bs 255 = false ∧ (ringOf 0 bs).slots = 0x800000000 ∧
      (ringOf 0 bs).own = 0x50000 ∧ (ringOf 0 bs).done = 0x51000 ∧ (ringOf 0 bs).total = 2 ∧ (ringOf 0 bs).s = 4 ∧ (ringOf 0 bs).ssize = 4096 ∧
      (ringOf 0 bs).b = 1) ∧ labRings.ringPorts 0 0 = some 255 ∧
    (let c := labRings.cur.ctx
     (match reachArea c Need.both labRings 6 0x800000000 0x800004000, reachArea c Need.load labRings 2 0x50000 0x50020,
       reachArea c Need.both labRings 2 0x51000 0x51001 with
     | .ok ps, .ok qs, .ok us => (ps ++ us).all (fun x => labRings.touch c x.va x.leaf true == labRings) &&
       qs.all (fun x => labRings.touch c x.va x.leaf false == labRings) && ps.all (fun x => inAperture x.pa) &&
       !labRings.copyMeets 0x51000 1 false && !labRings.poisoned 0x51000 1
     | _, _, _ => false) = true) :=
  ⟨by decide +kernel, by unfold wellFormed; decide +kernel, by decide +kernel, by decide +kernel, by decide +kernel, by decide +kernel,
    ⟨_, holds_of (by decide +kernel), by decide +kernel⟩, by decide +kernel, by decide +kernel⟩

/-- spawn of a record that the hub accepts, and of one whose save area is not mapped. -/
theorem witness_LaunchEvents_spawn : ∀ save ∈ [0x100000, 0x10000000000],
    let s := labSure [0x36000] [(0x36000, sized 64 (aRecord save false))] id
    enters s (.spawn ⟨4, 7, 0, false, false⟩) = true ∧ s.cur.es = 0 ∧ s.cur.busy = false ∧
    (∃ bs, Holds s 0x36000 64 64 Need.load bs ∧ isGraph bs = false ∧
      (match askOf 0 s.cur.ctx bs [] [] with
        | .ok k => (match s.refuseLaunch k with | .ok _ => save == 0x100000 | .error x => save != 0x100000 && x == (5, 0))
        | .error _ => false) = true) := by
  intro save h
  refine ⟨?_, ?_, ?_, _, holds_of ?_, ?_, ?_⟩ <;> (revert save) <;> decide +kernel

/-- A record that names the graph at 0x36080, its head, and its two nodes; `bad` puts a reserved bit. -/
def graphRecord (bad : Bool) : List Byte := sized 64 (leBytes 29 0 ++ [4, if bad then 1 else 0, 0] ++ leBytes 8 0x36080)
def graphHead : List Byte := sized 64 (leBytes 4 0 ++ [2, 0, 1, 0] ++ leBytes 8 0x36100)
def graphNodes (save : Nat) : List (List Byte) := [sized 64 (aRecord 0x100000 false), sized 64 (aRecord save false)]

/-- They lie in memory. -/
def labGraph (save : Nat) : State :=
  labSure [0x36000, 0x36080, 0x36100] [(0x36000, graphRecord false), (0x36080, graphHead), (0x36100, (graphNodes save).flatten)] id

/-- The ask that they make. -/
def graphAsk (save : Nat) (c : Ctx) : LaunchAsk :=
  { part := 0, ctx := c, record := launchOf (graphRecord false), graph := some (0x36080, graphOf graphHead), nodes := (graphNodes save).map launchOf }

/-- The hub accepts it, or refuses it for node 1, whose save area is not mapped. -/
theorem graph_refused : ∀ save ∈ [0x200000, 0x10000000000], ∀ c ∈ [(labGraph save).layoutCtx 0, (labGraph save).cur.ctx],
    (match (labGraph save).refuseLaunch (graphAsk save c) with
      | .ok _ => save == 0x200000
      | .error x => save != 0x200000 && x == (5, 1)) = true := by decide +kernel

theorem witness_LaunchEvents_graph : ∀ save ∈ [0x200000, 0x10000000000],
    (((labGraph save).port 0).pend = false ∧ ∀ bad, isGraph (graphRecord bad) = true ∧ recordBroken (graphRecord bad) = bad ∧
      fieldAt (graphRecord bad) 0x20 8 = 0x36080) ∧
    (graphBroken graphHead = false ∧ (graphOf graphHead).count = 2 ∧ (graphOf graphHead).nodes = 0x36100 ∧
      ∀ n < 2, nodeBroken n ((graphNodes save).getD n []) = false) ∧
    HubReads (labGraph save) 0 0x36080 graphHead ∧ ∀ n < 2, HubReads (labGraph save) 0 (0x36100 + 64 * n) ((graphNodes save).getD n []) := by
  unfold HubReads
  intro save h
  refine ⟨?_, ?_, ?_, ?_⟩ <;> (revert save) <;> decide +kernel

theorem witness_LaunchEvents_spawnGraph : ∀ save ∈ [0x200000, 0x10000000000], let s := labGraph save
    enters s (.spawn ⟨4, 7, 0, false, false⟩) = true ∧ (s.cur.es = 0 ∧ s.cur.busy = false ∧ (s.cur.gread 7).toNat = 0x36000) ∧
    Holds s 0x36000 64 64 Need.load (graphRecord false) ∧ Holds s 0x36080 64 64 Need.load graphHead ∧
    (∀ n < 2, Holds s (0x36100 + 64 * n) 64 64 Need.load ((graphNodes save).getD n [])) ∧
    (match askOf 0 s.cur.ctx (graphRecord false) graphHead (graphNodes save) with
      | .ok k => k == graphAsk save s.cur.ctx
      | .error _ => false) = true := by
  intro save h
  have read : ∀ save ∈ [0x200000, 0x10000000000], ∀ x ∈ [(0x36000, graphRecord false), (0x36080, graphHead),
      (0x36100, (graphNodes save).getD 0 []), (0x36140, (graphNodes save).getD 1 [])],
      (x.1 % 64 == 0 && (List.range 8).all (fun k => (x.1 + 8 * k) % 8 == 0 && spans (labGraph save) (x.1 + 8 * k) 8 Need.load)) = true ∧
      x.2 = (List.range 8).flatMap (fun k => (labGraph save).read (x.1 + 8 * k) 8) := by decide +kernel
  have holds : ∀ x ∈ [(0x36000, graphRecord false), (0x36080, graphHead), (0x36100, (graphNodes save).getD 0 []),
      (0x36140, (graphNodes save).getD 1 [])], Holds (labGraph save) x.1 64 64 Need.load x.2 := fun x hx => by
    rw [(read save h x hx).2]
    exact holds_of (n := 64) (read save h x hx).1
  refine ⟨?_, ?_, holds (0x36000, graphRecord false) (by simp), holds (0x36080, graphHead) (by simp), fun n hn => ?_, ?_⟩
  · clear holds; revert save; decide +kernel
  · clear holds; revert save; decide +kernel
  · match n, hn with
    | 0, _ => exact holds (0x36100, (graphNodes save).getD 0 []) (by simp)
    | 1, _ => exact holds (0x36140, (graphNodes save).getD 1 []) (by simp)
  · clear holds; revert save; decide +kernel

end Sys2Proof.Tests
end

section
/-!
PROOF. Memory stays canonical (R5, R20, R364): the relation that every operation of a step satisfies, and the rules that compose it.
-/
namespace Sys2Proof.Machine

open Sys2Proof.Safety

/-- The memory of `t` is canonical if that of `s` is: the invariant as a relation, so that the operations of a step compose. -/
structure Canon (s t : State) : Prop where
  keeps : wellFormed s → wellFormed t

/-- An outcome that goes on keeps memory canonical. -/
def CanonOut (s : State) : Out → Prop
  | .next t => Canon s t
  | .fault _ => True
  | .refused _ => True

theorem Canon.refl (s : State) : Canon s s := ⟨id⟩

theorem Canon.trans {s t u : State} (h : Canon s t) (k : Canon t u) : Canon s u := ⟨k.keeps ∘ h.keeps⟩

/-- What an operation changes beside memory does not matter. -/
theorem Canon.of_mem {s t u : State} (h : Canon s t) (k : u.mem = t.mem) : Canon s u := ⟨fun hs => (congrArg Memory.wf k).trans (h.keeps hs)⟩

/-- Nor does what was changed beside memory before it. -/
theorem Canon.from_mem {s t u : State} (h : Canon t u) (k : t.mem = s.mem) : Canon s u := ⟨fun hs => h.keeps ((congrArg Memory.wf k).trans hs)⟩

/-- What a running entry keeps (Laws/Keeps.lean) includes the form of memory. -/
theorem Kept.canon {s t : State} (h : Kept s t) : Canon s t := ⟨h.canonical⟩

/-- So does what the queue's own work keeps (Laws/KeepsQueue.lean). -/
theorem Within.canon {u : Thread} {s t : State} (h : Within u s t) : Canon s t := ⟨h.canonical⟩

theorem canon_mod (s : State) (f : Thread → Thread) : Canon s (s.mod f) := ⟨id⟩

theorem canon_ite {c : Prop} [Decidable c] {s t u : State} (h : Canon s t) (k : Canon s u) : Canon s (if c then t else u) := by
  split
  · exact h
  · exact k

theorem canon_foldl {β : Type} {f : State → β → State} (h : ∀ s x, Canon s (f s x)) (l : List β) (s : State) : Canon s (l.foldl f s) := by
  induction l generalizing s with
  | nil => exact .refl s
  | cons x l ih => exact (h s x).trans (ih _)

/-- Where a step of an engine or of the queue may find nothing to do. -/
theorem canon_getD {s : State} {o : Option State} (h : ∀ t, o = some t → Canon s t) : Canon s (o.getD s) := by
  cases o with
  | none => exact .refl s
  | some t => exact h t rfl

theorem canonOut_ite {c : Prop} [Decidable c] {s : State} {x y : Out} (h : CanonOut s x) (k : CanonOut s y) :
    CanonOut s (if c then x else y) := by
  split
  · exact h
  · exact k

/-- An event after an operation that keeps the form. -/
theorem Canon.out {s t : State} {x : Out} (h : Canon s t) (k : CanonOut t x) : CanonOut s x := by
  cases x with
  | next u => exact h.trans k
  | fault _ => trivial
  | refused _ => trivial

/-! ## Traps and issue -/

theorem canon_issueTrap (s : State) (cause : BitVec 8) (eaddr info : Word) (pos : Bool) : Canon s (s.issueTrap cause eaddr info pos) := by
  unfold State.issueTrap
  exact canon_ite (.refl s) (canon_mod ..)

theorem canon_wordTrap (s : State) (cause : BitVec 8) (opnd : Nat) : Canon s (s.wordTrap cause opnd) := canon_issueTrap ..

theorem canon_prematureTrap (s : State) (opnd : Nat) : Canon s (s.prematureTrap opnd) := canon_ite (canon_mod ..) (canon_wordTrap ..)

theorem canon_frameViolation (s : State) : Canon s s.frameViolation := by
  unfold State.frameViolation
  split <;> exact canon_issueTrap ..

theorem canon_gate {s t : State} {privileged : Bool} {srcs : List Source} {dsts : List (BitVec 5)}
    (h : s.gate privileged srcs dsts = .trap t) : Canon s t := by
  unfold State.gate at h
  split at h
  · cases h; exact canon_wordTrap ..
  split at h
  · cases h; exact canon_frameViolation s
  split at h
  · cases h; exact canon_wordTrap ..
  split at h
  · cases h; exact canon_prematureTrap ..
  · split at h <;> cases h

/-- A scalar instruction keeps the form where its body does. -/
theorem canonOut_scalar {s : State} {privileged : Bool} {srcs : List Source} {dsts : List (BitVec 5)} {body : State → State}
    (h : Canon s (body s)) : CanonOut s (s.scalar privileged srcs dsts body) := by
  unfold State.scalar
  split
  · next hg => exact canon_gate hg
  · exact Canon.refl s
  · exact h

theorem canon_pipeCheck (s : State) (descOf : BitVec 32 → Desc) (members : List Entry) : Canon s (s.pipeCheck descOf members) := by
  unfold State.pipeCheck
  split
  · exact canon_ite ⟨id⟩ (canon_mod ..)
  · exact .refl s

/-- What a push that succeeds leaves. -/
theorem canon_push_done {s t : State} {descOf : BitVec 32 → Desc} {d : Desc} {w : BitVec 32} (h : s.push descOf d w = .done t) : Canon s t := by
  unfold State.push at h
  dsimp only at h
  repeat' split at h
  all_goals cases h
  · exact canon_mod ..
  · exact (canon_mod s _).trans (canon_pipeCheck ..)

/-- What a push that traps leaves. -/
theorem canon_push_trap {s t : State} {descOf : BitVec 32 → Desc} {d : Desc} {w : BitVec 32} (h : s.push descOf d w = .trap t) : Canon s t := by
  unfold State.push at h
  dsimp only at h
  split at h
  · cases h; exact canon_frameViolation s
  split at h
  · cases h; exact canon_wordTrap ..
  split at h
  · cases h; exact canon_wordTrap ..
  split at h
  · cases h; exact canon_issueTrap ..
  split at h
  · cases h; exact canon_wordTrap ..
  split at h
  · cases h; exact canon_prematureTrap ..
  split at h
  · cases h
  split at h
  · cases h; exact canon_issueTrap ..
  · cases h

/-- A queued word at its issue (R17), with what the queue then does. -/
theorem canonOut_issue (w : BitVec 32) (s : State) : CanonOut s (issue w s) := by
  unfold issue
  split
  · next h => exact canon_push_trap h
  · exact Canon.refl s
  · next t h => exact (canon_push_done h).trans (within_work (u := t.cur) t).canon

/-! ## The queue -/

theorem canon_retireOne {s t : State} (h : s.retireOne = some t) : Canon s t := (within_retireOne (u := s.cur) h).canon

theorem canon_retireAll (s : State) (n : Nat) : Canon s (s.retireAll n) := (within_retireAll (u := s.cur) n s).canon

theorem canon_dispatchOne {s t : State} {cut : Nat} (h : s.dispatchOne descOf cut = some t) : Canon s t :=
  (within_dispatchOne (u := s.cur) keeps_descOf h).canon

/-! ## Scalar instructions -/

theorem canonOut_aluOp (f : FmtSR) (op : Word → Word → Word) (s : State) : CanonOut s (aluOp f op s) := canonOut_scalar (canon_mod ..)

theorem canonOut_aluUnary (f : FmtSR) (op : Word → Word) (s : State) : CanonOut s (aluUnary f op s) := canonOut_scalar (canon_mod ..)

theorem canonOut_aluImm (f : FmtSI) (op : Word → Word) (s : State) : CanonOut s (aluImm f op s) := canonOut_scalar (canon_mod ..)

theorem canonOut_branch (f : FmtSB) (cond : Word → Word → Bool) (s : State) : CanonOut s (branch f cond s) := canonOut_scalar (canon_mod ..)

theorem canonOut_execJalr (f : FmtSI) (s : State) : CanonOut s (execJalr f s) :=
  canonOut_scalar (canon_ite (canon_issueTrap ..) (canon_mod ..))

theorem canonOut_execMfs (f : FmtSI) (s : State) : CanonOut s (execMfs f s) := by
  unfold execMfs
  refine canonOut_ite (canon_wordTrap ..) ?_
  split
  · exact canon_wordTrap ..
  · refine canonOut_scalar (canon_ite (.refl s) ?_)
    dsimp only
    split <;> exact ⟨id⟩

theorem canonOut_mtsWith (n : Nat) (waits : Bool) (f : FmtSI) (write : Thread → Word → Thread) (s : State) :
    CanonOut s (mtsWith n waits f write s) := by
  unfold mtsWith
  split
  · exact canon_wordTrap ..
  · exact canonOut_scalar (canon_ite (.refl s) (canon_mod ..))

/-! ## Scalar accesses -/

theorem canon_scalarCheck {s t : State} {c : Ctx} {va n : Nat} {need : Need} {r : Except ScalarFail (Nat × Leaf)}
    (h : s.scalarCheck c va n need = (r, t)) : Canon s t := by
  rw [State.scalarCheck_eq h]
  exact ⟨id⟩

theorem canon_accessTrap (s : State) (f : ScalarFail) (ea : Word) (size : Nat) (store : Bool) : Canon s (s.accessTrap f ea size store) :=
  canon_issueTrap ..

/-- A scalar access keeps the form where its body does (R59, R320, R383). -/
theorem canon_scalarAccessIf {s : State} {ea : Word} {size : Nat} {need : Need} {store : Bool} {extra : State → Nat → Option ScalarFail}
    {writes : State → Nat → Bool} {body : State → Nat → State} (hb : ∀ t pa, Canon t (body t pa)) :
    Canon s (s.scalarAccessIf ea size need store extra writes body) := by
  unfold State.scalarAccessIf
  refine canon_ite (.refl s) (canon_ite (canon_accessTrap ..) ?_)
  split
  · next h => exact canon_ite (.refl s) ((canon_scalarCheck h).trans (canon_accessTrap ..))
  · next h =>
    refine canon_ite (.refl s) ((canon_scalarCheck h).trans ?_)
    split
    · exact canon_accessTrap ..
    · exact ((kept_touch ..).trans (kept_noteAccess ..)).canon.trans (hb _ _)

theorem canonOut_scalarLoad (f : FmtSI) (size : Nat) (ext : Nat → Word) (s : State) : CanonOut s (scalarLoad f size ext s) :=
  canonOut_scalar (canon_scalarAccessIf fun _ _ => canon_mod ..)

theorem canonOut_scalarStore (f : FmtSI) (size : Nat) (s : State) : CanonOut s (scalarStore f size s) :=
  canonOut_scalar (canon_scalarAccessIf fun t pa => (kept_write t pa _).canon.trans (canon_mod ..))

theorem canon_strongUpdate {s t : State} {pa n old : Nat} {op : Nat → Option Nat} (h : s.strongUpdate pa n op = (old, t)) : Canon s t := by
  have k := kept_strongUpdate s pa n op
  rw [h] at k
  exact k.canon

theorem canonOut_scalarAtomic (f : FmtAtomic) (n : Nat) (op : Nat → Nat → Nat → Option Nat) (s : State) :
    CanonOut s (scalarAtomic f n op s) := by
  refine canonOut_scalar (canon_ite (.refl s) (canon_scalarAccessIf fun t pa => ?_))
  split
  next h => exact (canon_strongUpdate h).trans (canon_mod ..)

theorem canonOut_loadAcquire (f : FmtMem) (n : Nat) (ext : Nat → Word) (s : State) : CanonOut s (loadAcquire f n ext s) :=
  canonOut_scalar (canon_scalarAccessIf fun t pa => (kept_strongRead t pa n).canon.trans (canon_mod ..))

theorem canonOut_storeRelease (f : FmtMem) (n : Nat) (s : State) : CanonOut s (storeRelease f n s) :=
  canonOut_scalar (canon_ite (.refl s) (canon_scalarAccessIf fun t pa => (kept_strongWrite t pa _).canon.trans (canon_mod ..)))

theorem canonOut_execAwait (f : FmtMem) (s : State) : CanonOut s (execAwait f s) :=
  canonOut_scalar (canon_scalarAccessIf fun t pa =>
    (kept_strongRead t pa 8).canon.trans (canon_ite (canon_mod ..) (canon_mod ..)))

theorem canonOut_execWake (f : FmtMem) (s : State) : CanonOut s (execWake f s) := by
  refine canonOut_scalar ?_
  dsimp only
  split
  · exact canon_accessTrap ..
  · exact ⟨id⟩

/-! ## The system major -/

theorem canon_tlbInvalidate (s : State) (hits : Nat → Bool → Nat → Nat → Bool) : Canon s (s.tlbInvalidate hits) :=
  canon_ite (.refl s) (canon_ite ⟨id⟩ ⟨id⟩)

theorem canonOut_lineOperation (flush : Bool) (f : FmtSR) (s : State) : CanonOut s (lineOperation flush f s) := by
  have act : ∀ (t : State) (x : Walk) (ea : Nat),
      Canon t (match x with | .leaf l => if flush then t.flushLine (l.pa ea / 128) else t | _ => t) := fun t x ea => by
    split
    · exact canon_ite ⟨id⟩ (.refl t)
    · exact .refl t
  refine canonOut_scalar ?_
  dsimp only
  split
  · exact canon_ite ((act s _ _).trans (canon_mod ..)) (canon_accessTrap ..)
  · exact (act s _ _).trans (canon_mod ..)

theorem canon_freeStreams (s : State) : Canon s s.freeStreams := by
  unfold State.freeStreams
  extract_lets s1
  have h1 : Canon s s1 := canon_foldl (fun s q => (kept_unbindRing s s.cur.team s.cur.lthread q).canon) (List.range 8) s
  exact h1.trans (canon_mod ..)

theorem canonOut_execExit (f : FmtSR) (s : State) : CanonOut s (execExit f s) := by
  refine canonOut_scalar (canon_ite (.refl s) ?_)
  have k := canon_freeStreams s
  generalize s.freeStreams = t at k ⊢
  exact k.of_mem rfl

theorem canonOut_execSelf (f : FmtSR) (s : State) : CanonOut s (execSelf f s) := by
  unfold execSelf
  split
  · exact canon_wordTrap ..
  · exact canonOut_scalar (canon_mod ..)

/-! ## Barriers -/

theorem canon_barrierTrap (s : State) (num : BitVec 6) (reason : Nat) : Canon s (s.barrierTrap num reason) := canon_issueTrap ..

theorem canonOut_execBarCfg (f : FmtBar) (s : State) : CanonOut s (execBarCfg f s) := by
  refine canonOut_scalar (canon_ite (.refl s) ?_)
  split
  · exact canon_barrierTrap ..
  · exact ⟨id⟩

theorem canonOut_execBarArrive (f : FmtBar) (s : State) : CanonOut s (execBarArrive f s) := by
  refine canonOut_scalar (canon_ite (.refl s) ?_)
  split
  · exact canon_barrierTrap ..
  · exact canon_ite (canon_barrierTrap ..) (canon_ite (canon_barrierTrap ..) ⟨id⟩)

theorem canonOut_execBarWait (f : FmtBar) (s : State) : CanonOut s (execBarWait f s) := by
  refine canonOut_scalar ?_
  split
  · exact canon_barrierTrap ..
  · exact canon_ite (canon_ite (canon_mod ..) (.refl s)) (canon_ite (canon_barrierTrap ..) (canon_ite (.refl s) (canon_mod ..)))

theorem canonOut_execBarSync (f : FmtBar) (s : State) : CanonOut s (execBarSync f s) := by
  refine canonOut_scalar (canon_ite (.refl s) (canon_ite (canon_ite (.refl s) (canon_mod ..)) ?_))
  split
  · exact canon_barrierTrap ..
  · exact canon_ite (canon_mod ..) (canon_ite (canon_barrierTrap ..) ⟨id⟩)

theorem canonOut_execBarStat (f : FmtBar) (s : State) : CanonOut s (execBarStat f s) :=
  canonOut_scalar (canon_ite (canon_barrierTrap ..) (canon_ite (.refl s) (canon_mod ..)))

theorem canonOut_execBarrierPhaseComplete (team : Nat) (bar : BitVec 6) (s : State) : CanonOut s (execBarrierPhaseComplete team bar s) := by
  unfold execBarrierPhaseComplete
  split <;> exact ⟨id⟩

end Sys2Proof.Machine
end

section
/-!
PROOF. Memory stays canonical: the engines, pre-emption and the context image, frames that move, launches.
-/
namespace Sys2Proof.Machine

open Sys2Proof.Safety

/-! ## Engines -/

theorem canonOut_execStreamEngineFetch (q : BitVec 3) (s : State) : CanonOut s (execStreamEngineFetch q s) := by
  unfold execStreamEngineFetch
  dsimp only
  split
  · exact Canon.refl s
  refine canonOut_ite (.refl s) ?_
  next e _ =>
  generalize s.cur.qread q.toNat = st
  have k := kept_reachElem s s.cur.ctx oobPlain (st.addr e) st.size Need.load
  generalize s.reachElem s.cur.ctx oobPlain (st.addr e) st.size Need.load = p at k ⊢
  split
  · exact canonOut_ite (.refl s) (k.canon.of_mem rfl)
  · refine canonOut_ite (.refl s) ?_
    exact ((k.trans (kept_cacheLeaf ..)).trans (kept_noteAccess ..)).canon.of_mem rfl

theorem canonOut_execRingHandshake (r : BitVec 2) (up down : RingPeer) (s : State) : CanonOut s (execRingHandshake r up down s) :=
  canon_ite (kept_setRing ..).canon (.refl s)

theorem canonOut_execRingArrival (r : BitVec 2) (b : RingBlock) (s : State) : CanonOut s (execRingArrival r b s) :=
  canon_ite (kept_landArrival ..).canon (.refl s)

theorem canonOut_execRingForward (r : BitVec 2) (s : State) : CanonOut s (execRingForward r s) :=
  canon_ite (kept_setRing ..).canon (.refl s)

theorem canonOut_execRingSlotRelease (r : BitVec 2) (s : State) : CanonOut s (execRingSlotRelease r s) :=
  canon_ite (kept_setRing ..).canon (.refl s)

/-! ### Copies (R176, R177) -/

theorem canon_moveData (s : State) (m : CopyMove) : Canon s (s.moveData m) := by
  unfold State.moveData
  extract_lets s1 s2
  have h1 : Canon s s1 := canon_foldl (fun s (w : Nat × List Byte) => (kept_put s w.1 w.2).canon) _ s
  have h2 : Canon s s2 := canon_ite (h1.trans (canon_foldl (fun s a => (kept_damage s a 1).canon) _ s1)) h1
  exact h2.trans (canon_foldl (fun s a => (kept_spoilRings s a 1).canon) _ s2)

theorem canon_healUnits (s : State) (m : CopyMove) (us : List Nat) : Canon s (s.healUnits m us) :=
  canon_ite ⟨id⟩ (kept_healBlocks ..).canon

theorem canon_landNext (s : State) (c : Copy) : Canon s (s.landNext c) := by
  unfold State.landNext
  split
  · exact ⟨id⟩
  · exact ((canon_moveData s _).trans (canon_healUnits ..)).of_mem rfl

theorem canonOut_execCopyLanding (copy : Nat) (s : State) : CanonOut s (execCopyLanding copy s) := by
  unfold execCopyLanding
  split
  · exact canon_ite (canon_landNext ..) (.refl s)
  · exact Canon.refl s

/-! ### Sealed records (R214 to R217) -/

theorem kept_hashes : ∀ (l : List (Nat × Nat)) (u : UnitRun), Kept u.s (u.hashes l).2.s
  | [], u => .refl u.s
  | p :: ps, u => by
    unfold UnitRun.hashes
    dsimp only
    have h := kept_unitRead u p.1 p.2
    generalize u.read p.1 p.2 = q at h ⊢
    split
    · exact h
    · exact h.trans (kept_hashes ps q.2)

/-- The pieces are hashed unless the run has stopped. -/
theorem kept_hashesUnless {s : State} {u : UnitRun} (h : Kept s u.s) (c : Prop) [Decidable c] (l : List (Nat × Nat)) :
    Kept s (if c then ([], u) else u.hashes l).2.s := by
  split
  · exact h
  · exact h.trans (kept_hashes l u)

theorem canon_seal (o : SealOp) (s : State) : Canon s (o.seal s).2 := by
  unfold SealOp.seal
  split
  · exact .refl s
  dsimp only
  have k1 : Kept s ((o.start s).handle (BitVec.ofNat 64 (fieldAt o.req 0 8))).2.2.2.s := kept_handle (o.start s) _
  generalize (o.start s).handle _ = p1 at k1 ⊢
  have k2 := k1.trans (kept_list p1.1 p1.1.cap p1.1.head p1.2.2.2)
  generalize p1.2.2.2.list _ _ _ = p2 at k2 ⊢
  generalize ((piecesOf _ 0 _).dropWhile _).take _ = run
  have k3 : Kept s (if run.length = fieldAt o.req 16 8 then p2.2 else p2.2.halt .broken).s := kept_unitIf k2 (k2.trans (kept_halt ..))
  generalize (if run.length = fieldAt o.req 16 8 then p2.2 else p2.2.halt .broken) = u3 at k3 ⊢
  have k4 := kept_hashesUnless k3 (u3.stop.isSome = true) (run.map (fun p => (p.entry.base, p.entry.len * 2 ^ p1.1.esz)))
  generalize (if u3.stop.isSome = true then ([], u3) else _) = p4 at k4 ⊢
  generalize [(_, _)] = record
  have k5 : Kept s (if p4.2.stop.isSome = true then p4.2 else p4.2.commit record).s := kept_unitIf k4 (k4.trans (kept_unitCommit ..))
  split <;> exact (k5.trans (kept_tock _)).canon

theorem canon_open (o : SealOp) (s : State) : Canon s (o.open_ s).2 := by
  unfold SealOp.open_
  dsimp only
  have tock : ∀ {u : UnitRun}, Kept s u.s → Canon s u.s.tock := fun k => (k.trans (kept_tock _)).canon
  split
  · exact .refl s
  have k1 : Kept s ((o.start s).header (fieldAt o.req 0 8)).2.s := kept_header (o.start s) _
  generalize (o.start s).header _ = p1 at k1 ⊢
  have k2 := k1.trans (kept_unitRead p1.2 (fieldAt o.req 16 8) 0x60)
  generalize p1.2.read _ 0x60 = p2 at k2 ⊢
  split
  · exact tock k2
  split
  · exact k2.canon
  have k3 := k2.trans (kept_unitRead p2.2 (fieldAt o.req 16 8 + 0x60) (40 * fieldAt p2.1 4 4))
  generalize p2.2.read _ _ = p3 at k3 ⊢
  have k4 := k3.trans (kept_unitRead p3.2 (fieldAt o.req 16 8 + 0x60 + 40 * fieldAt p2.1 4 4) 2420)
  generalize p3.2.read _ 2420 = p4 at k4 ⊢
  have k5 := k4.trans (kept_unitRead p4.2 (fieldAt o.req 24 8) (8 * fieldAt p2.1 4 4))
  generalize p4.2.read _ _ = p5 at k5 ⊢
  split
  · exact tock k5
  split
  · exact k5.canon
  generalize (List.range _).map (fun i => (_, _ * 2 ^ p1.1.esz)) = pieces
  have k6 := k5.trans (kept_hashes pieces p5.2)
  generalize p5.2.hashes pieces = p6 at k6 ⊢
  split
  · exact tock k6
  split
  · exact k6.canon
  split
  · exact tock k6
  have k7 := k6.trans (kept_unitReach p6.2 (o.block.toNat + 0x20) 4 Need.store)
  generalize p6.2.reach _ 4 Need.store = p7 at k7 ⊢
  split
  · exact tock k7
  generalize (List.range _).map _ = inserts
  have k8 := k7.trans (kept_splice p7.2 p1.1 (fieldAt o.req 8 8) 0 inserts)
  generalize p7.2.splice _ _ 0 inserts = u8 at k8 ⊢
  split
  · exact ((k8.trans (kept_undefine u8 p1.1.va)).trans (kept_tock _)).canon
  · exact tock k8
  have k9 := k8.trans (kept_unitCommit u8 [(o.block.toNat + 0x20, leBytes 4 (p1.1.cur + 1))])
  split <;> exact tock k9

theorem canon_endSeal {s t : State} {o : SealOp} (h : s.endSeal o = some t) : Canon s t := by
  unfold State.endSeal at h
  have k : Canon s (if o.opens then o.open_ s else o.seal s).2 := by
    split
    · exact canon_open o s
    · exact canon_seal o s
  generalize (if o.opens then o.open_ s else o.seal s) = p at k h
  dsimp only at h
  split at h
  · cases h
  split at h
  · cases h
    exact k.of_mem rfl
  · split at h
    · cases h
    · cases h
      exact (k.trans (kept_unitCommit (o.start p.2) _).canon).of_mem rfl

theorem canonOut_execKsealCompletion (op : Nat) (s : State) : CanonOut s (execKsealCompletion op s) := by
  unfold execKsealCompletion
  split
  · exact canon_getD fun _ => canon_endSeal
  · exact Canon.refl s

theorem canonOut_execKopenCompletion (op : Nat) (s : State) : CanonOut s (execKopenCompletion op s) := by
  unfold execKopenCompletion
  split
  · exact canon_getD fun _ => canon_endSeal
  · exact Canon.refl s

/-! ## Pre-emption (R94, R293) -/

/-- An operation on the thread of a slot. -/
theorem canon_atSlot {f : State → State} (h : ∀ t, Canon t (f t)) (s : State) (slot : Nat) : Canon s (s.atSlot slot f) := by
  unfold State.atSlot
  split
  · exact h s
  split
  · exact .refl s
  next i _ =>
  split
  · exact .refl s
  next t _ =>
  dsimp only
  have k : Canon s (f { s with cur := t, others := s.others.set i s.cur }) := (h _).from_mem rfl
  split
  · exact k
  · exact k.of_mem rfl

theorem canon_tidy (s : State) : Canon s s.tidy := by
  unfold State.tidy
  dsimp only
  split
  · exact ⟨id⟩
  · split <;> exact ⟨id⟩

theorem canon_untilProgress (cut : Nat) : ∀ (n : Nat) (s : State), Canon s (State.untilProgress cut n s)
  | 0, s => .refl s
  | n + 1, s => by
    unfold State.untilProgress
    split
    · exact .refl s
    split
    · exact .refl s
    · next h => exact (canon_dispatchOne h).trans ((canon_retireAll ..).trans (canon_untilProgress cut n _))

theorem canon_preempt (s : State) (cut : Nat) : Canon s (s.preempt cut) := by
  unfold State.preempt
  split
  · exact canon_mod ..
  split
  · exact .refl s
  extract_lets s1 s2
  have h1 : Canon s s1 := canon_retireAll s 64
  have h2 : Canon s1 s2 :=
    canon_ite (canon_untilProgress ..) (canon_ite (.refl s1) ((canon_getD fun _ => canon_dispatchOne).trans (canon_retireAll ..)))
  exact (h1.trans h2).trans (canon_mod ..)

theorem canon_preemptTeam (s : State) (team : Team) (groups : List Nat) : Canon s (s.preemptTeam team groups) := by
  unfold State.preemptTeam
  extract_lets all mine s1
  have h1 : Canon s s1 := canon_foldl (fun s (t : Thread) => canon_atSlot (fun s => canon_preempt s _) s t.slot) mine s
  exact h1.trans ((canon_tidy _).from_mem rfl)

theorem canonOut_execSliceExpiry (slot : Nat) (groups : List Nat) (s : State) : CanonOut s (execSliceExpiry slot groups s) := by
  unfold execSliceExpiry
  split
  · exact (canon_preemptTeam _ _ _).from_mem rfl
  · exact Canon.refl s

theorem canonOut_execSlotUnbind (slot : Nat) (groups : List Nat) (s : State) : CanonOut s (execSlotUnbind slot groups s) := by
  unfold execSlotUnbind
  split
  · exact canon_preemptTeam ..
  · exact Canon.refl s

/-! ## The context image (R329 to R334) -/

theorem canon_keyLine (s : State) (key line : Nat) : Canon s (s.keyLine key line) := by
  unfold State.keyLine
  dsimp only
  split
  · exact ⟨id⟩
  · exact canon_ite (.refl s) ((kept_addWild s (128 * line) 128).canon.of_mem rfl)

theorem canon_keyLines (s : State) (key pa n : Nat) : Canon s (s.keyLines key pa n) :=
  canon_ite (.refl s) (canon_foldl (fun s line => canon_keyLine s key line) _ s)

theorem canon_putArea (s : State) (key : Nat) (frames : List Nat) (off : Nat) (bs : List Byte) : Canon s (s.putArea key frames off bs) :=
  canon_foldl (fun s (p : Nat × Nat) => (canon_keyLines s key (frameAt frames p.1) p.2).trans (kept_put ..).canon) _ s

theorem canon_poisonRuns (s : State) (frames : List Nat) (at_ : Nat) (l : List Nat) :
    Canon s (l.foldl (fun s k => s.poisonBytes (frameAt frames (at_ + 32 * k)) 32) s) :=
  canon_foldl (fun s k => (kept_poisonBytes s (frameAt frames (at_ + 32 * k)) 32).canon) l s

theorem canon_saveVector (s : State) (key : Nat) (frames : List Nat) (r n : Nat) : Canon s (s.saveVector key frames r n) :=
  canon_ite (.refl s) ((((canon_putArea ..).trans (canon_putArea ..)).trans (canon_poisonRuns ..)).trans (canon_poisonRuns ..))

theorem canon_saveImage (s : State) (frames : List Nat) : Canon s (s.saveImage frames) := by
  unfold State.saveImage
  extract_lets key s1 s2 s3 s4
  have h3 : Canon s s3 := ((canon_putArea s ..).trans (canon_putArea s1 ..)).trans (canon_putArea s2 ..)
  have h4 : Canon s3 s4 := canon_foldl (fun s r => canon_saveVector s key frames r _) (List.range 32) s3
  exact (h3.trans h4).trans (canon_mod ..)

theorem canon_saveTeamBlock (s : State) (t : Team) : Canon s (s.saveTeamBlock t) := by
  unfold State.saveTeamBlock
  dsimp only
  split
  · exact .refl s
  · exact (canon_putArea ..).of_mem rfl

theorem canon_saveCurrent (s : State) : Canon s s.saveCurrent := by
  unfold State.saveCurrent
  dsimp only
  split
  · next x _ _ =>
    have h := canon_ite (c := s.framesUsable x.part (x.imageFrames s.cur.lthread) = true)
      (canon_saveImage s (x.imageFrames s.cur.lthread)) (.refl s)
    exact canon_ite (h.of_mem rfl) (h.trans ((canon_saveTeamBlock _ x).from_mem rfl))
  · exact .refl s

/-- A thread of a slot is saved where it may be (R94). -/
theorem canon_saveSlot (s : State) (slot : Nat) :
    Canon s (s.atSlot slot (fun s => let s1 := s.retireAll 64; if s1.maySave then s1.saveCurrent else s1)) :=
  canon_atSlot (fun t => (canon_retireAll t 64).trans (canon_ite (canon_saveCurrent _) (.refl _))) s slot

theorem canonOut_execContextSave (slot : Nat) (s : State) : CanonOut s (execContextSave slot s) :=
  (canon_saveSlot s slot).trans (canon_tidy _)

/-! ## Frames that move (R160, R381, R384) -/

theorem canon_relocate (s : State) (part : Nat) (dest : Nat → Option Nat) (fills : Nat → Bool) : Canon s (s.relocate part dest fills) := by
  unfold State.relocate
  extract_lets kept moved spans s1
  have h1 : Canon s s1 := ⟨fun h => Memory.wf_setAll moved { cells := kept } (canonicalFrom_filter _ s.mem.cells 0 h)⟩
  refine h1.trans (canon_foldl (fun s x => ?_) _ s1)
  split
  · exact .refl s
  · exact ⟨Memory.wf_write _ s.mem x.2.1⟩

theorem canon_moveWindows (s : State) (t : Team) : Canon s (s.moveWindows t) := canon_ite (.refl s) (canon_relocate ..)

theorem canon_swapWindows (s : State) (part v target : Nat) : Canon s (s.swapWindows part v target) := by
  unfold State.swapWindows
  exact canon_relocate ..

theorem canon_migrate (s : State) (part frame target : Nat) : Canon s (s.migrate part frame target) :=
  canon_ite (canon_relocate ..) (.refl s)

theorem canon_migrateVault (s : State) (part vault target : Nat) : Canon s (s.migrateVault part vault target) :=
  canon_ite (canon_swapWindows ..) (.refl s)

theorem canon_evacuatePart (s : State) (gs : List Grant) (part : Nat) : Canon s (s.evacuatePart gs part) := by
  unfold State.evacuatePart
  refine Canon.trans (canon_foldl (fun s f => ?_) _ s) (canon_foldl (fun s v => ?_) _ _)
  · dsimp only
    split
    · split
      · exact canon_relocate ..
      · exact .refl s
    · exact .refl s
  · split
    · split
      · exact canon_swapWindows ..
      · exact .refl s
    · exact .refl s

theorem canon_evacuate (s : State) (gs : List Grant) : Canon s (s.evacuate gs) :=
  canon_ite (.refl s) (canon_foldl (fun s p => canon_evacuatePart s gs p) _ s)

/-! ## Launches (R282, R286, R290, R293, R310) -/

theorem canon_finishTeam (s : State) (team : Nat) : Canon s (s.finishTeam team) := (canon_tidy _).from_mem rfl

theorem canon_writeDone (s : State) (l : Launch) (torn : Bool) : Canon s (s.writeDone l torn) := by
  unfold State.writeDone
  dsimp only
  have k := kept_reachPart s (s.layoutCtx l.part) (l.done.toNat : Nat) 8 Need.store none (oobPlain (l.done.toNat : Nat))
  exact canon_ite (.refl s) (canon_ite (k.canon.of_mem rfl) (k.trans ((kept_touch ..).trans (kept_write ..))).canon)

theorem canon_finishLaunch (s : State) (l : Launch) (torn : Bool) : Canon s (s.finishLaunch l torn) := (canon_writeDone s l torn).of_mem rfl

theorem canon_tearDown (s : State) (l : Launch) : Canon s (s.tearDown l) := by
  unfold State.tearDown
  extract_lets nums s1
  have h1 : Canon s s1 := ⟨id⟩
  exact h1.trans ((canon_foldl canon_finishTeam nums s1).trans (canon_finishLaunch ..))

theorem canon_displace (s : State) (team : Nat) : Canon s (s.displace team) := ⟨id⟩

theorem canon_placeTeam (s : State) (t : Team) (placement : List Nat) : Canon s (s.placeTeam t placement) := by
  unfold State.placeTeam
  extract_lets losers s1 hub fresh
  have h1 : Canon s s1 := (canon_displace s t.num).trans (canon_foldl (fun s x => canon_displace s x.num) losers _)
  exact h1.of_mem rfl

theorem canonOut_execLaunchStart (team : Nat) (placement : List Nat) (s : State) : CanonOut s (execLaunchStart team placement s) := by
  unfold execLaunchStart
  split
  · exact Canon.refl s
  split
  · exact Canon.refl s
  · exact canonOut_ite (canon_foldl (fun s (x : Team × List Nat) => canon_placeTeam s x.1 x.2) _ s) (Canon.refl s)

theorem canon_join (s : State) (t : Thread) : Canon s (s.join t) := canon_ite ⟨id⟩ ⟨id⟩

theorem canon_bindThread (s : State) (b : BindRecord) (t : Team) : Canon s (s.bindThread b t) := (canon_join s _).of_mem rfl

theorem canon_loadTeamBlock (s : State) (t : Team) : Canon s (s.loadTeamBlock t) := by
  unfold State.loadTeamBlock
  dsimp only
  refine canon_ite ?_ (.refl s)
  exact (Canon.refl s).of_mem rfl

theorem canon_bindTeam (s : State) (t : Team) : Canon s (s.bindTeam t) :=
  ((canon_moveWindows s t).trans (canon_loadTeamBlock _ t)).trans (canon_foldl (fun s b => canon_bindThread s b t) _ _)

theorem canon_bindSlot (s : State) (slot : Nat) : Canon s (s.bindSlot slot) := by
  unfold State.bindSlot
  split
  · exact .refl s
  split
  · exact canon_foldl canon_bindTeam _ s
  · split
    · exact canon_tearDown ..
    · exact .refl s

theorem kept_read64 (u : UnitRun) (va : Nat) : Kept u.s (u.read64 va).2.s := by
  unfold UnitRun.read64
  split
  · exact kept_unitFail ..
  · exact kept_unitRead ..

theorem kept_nodes (va : Nat) : ∀ (n i : Nat) (u : UnitRun), Kept u.s (u.nodes va n i).2.s
  | 0, _, u => .refl u.s
  | n + 1, i, u => by
    unfold UnitRun.nodes
    dsimp only
    have h := kept_read64 u (va + 64 * i)
    generalize u.read64 (va + 64 * i) = p at h ⊢
    split
    · exact h
    · exact h.trans (kept_nodes va n (i + 1) p.2)

end Sys2Proof.Machine
end

section
/-!
PROOF. Memory stays canonical: launch ports, the mailbox, layouts, boot and resets, the host's windows, and so every step (O59).
-/
namespace Sys2Proof.Machine

open Sys2Proof.Safety

/-! ## Launch ports (R372) -/

/-- The nodes are read where the record launches a graph and its header could be read. -/
theorem kept_nodesUnless {s : State} {u : UnitRun} (h : Kept s u.s) (c : Prop) [Decidable c] (va n : Nat) :
    Kept s (if c then u.nodes va n 0 else ([], u)).2.s := by
  split
  · exact h.trans (kept_nodes va n 0 u)
  · exact h

theorem canonOut_execLaunchPortWrite (part : BitVec 6) (record : List Byte) (s : State) : CanonOut s (execLaunchPortWrite part record s) := by
  unfold execLaunchPortWrite
  dsimp only
  refine canonOut_ite (Canon.refl s) ?_
  generalize hu : ({ s := s, c := _, core := false, issuer := none, stop := none } : UnitRun) = u0
  have k0 : Kept s u0.s := by rw [← hu]; exact .refl s
  generalize sized 64 record = bs
  have k1 : Kept s (if isGraph bs = true then u0.read64 (fieldAt bs 0x20 8) else ([], u0)).2.s := by
    split
    · exact k0.trans (kept_read64 ..)
    · exact k0
  generalize (if isGraph bs = true then u0.read64 (fieldAt bs 0x20 8) else ([], u0)) = p1 at k1 ⊢
  have k2 := kept_nodesUnless k1 (isGraph bs = true ∧ p1.2.stop.isNone = true) (graphOf p1.1).nodes
    (if 256 < (graphOf p1.1).count then 0 else (graphOf p1.1).count)
  generalize (if isGraph bs = true ∧ p1.2.stop.isNone = true then _ else ([], p1.2)) = p2 at k2 ⊢
  refine canonOut_ite (k2.canon.of_mem rfl) ?_
  split
  · exact k2.canon.of_mem rfl
  split
  · exact k2.canon.of_mem rfl
  · exact k2.canon.of_mem rfl

/-! ## The mailbox (R365 to R367) -/

/-- A request keeps the form where what it does after its checks does. -/
theorem canonOut_request {act : State → List Byte → Answer × State} (h : ∀ s bs, Canon s (act s bs).2) (s : State) (code : Nat) (d : Doorbell)
    (len : Nat) (minimal : Bool) : CanonOut s (s.request code d len minimal act) := by
  unfold State.request
  refine canonOut_ite (.refl s) (canonOut_ite ⟨id⟩ (canonOut_ite ⟨id⟩ ?_))
  have k : Canon s (act (s.ring_ code d) (sized len d.body)).2 := (h (s.ring_ code d) _).from_mem rfl
  generalize act (s.ring_ code d) (sized len d.body) = p at k
  exact k.of_mem rfl

theorem canonOut_execUnknownRequestCode (code : BitVec 16) (d : Doorbell) (s : State) : CanonOut s (execUnknownRequestCode code d s) :=
  canonOut_ite (.refl s) (canonOut_request (fun s _ => .refl s) ..)

theorem canonOut_execReadLayoutState (d : Doorbell) (s : State) : CanonOut s (execReadLayoutState d s) :=
  canonOut_request (fun _ _ => ⟨id⟩) ..

/-- A request's answer under a condition. -/
theorem canon_answerIte {c : Prop} [Decidable c] {s : State} {x y : Answer × State} (h : Canon s x.2) (k : Canon s y.2) :
    Canon s (if c then x else y).2 := by
  split
  · exact h
  · exact k

theorem canonOut_execRegisterSession (d : Doorbell) (s : State) : CanonOut s (execRegisterSession d s) :=
  canonOut_request (fun s _ => canon_answerIte (.refl s) (canon_answerIte (.refl s) ⟨id⟩)) ..

theorem canonOut_execReadEnabledUnits (d : Doorbell) (s : State) : CanonOut s (execReadEnabledUnits d s) :=
  canonOut_request (fun s _ => .refl s) ..

theorem canonOut_execAttestation (d : Doorbell) (s : State) : CanonOut s (execAttestation d s) :=
  canonOut_request (fun _ _ => ⟨id⟩) ..

theorem canonOut_execReadCounts (d : Doorbell) (s : State) : CanonOut s (execReadCounts d s) :=
  canonOut_request (fun s _ => canon_answerIte (.refl s) (canon_answerIte (.refl s) (.refl s))) ..

theorem canonOut_execEnergyReading (d : Doorbell) (s : State) : CanonOut s (execEnergyReading d s) := by
  refine canonOut_request (fun s bs => canon_answerIte (.refl s) (canon_answerIte (.refl s) ?_)) ..
  split
  · exact .refl s
  · exact ⟨id⟩

theorem canonOut_execConfigurePageCounters (d : Doorbell) (s : State) : CanonOut s (execConfigurePageCounters d s) :=
  canonOut_request (fun s _ => canon_answerIte (.refl s) (canon_answerIte (.refl s) (canon_answerIte (.refl s) ⟨id⟩))) ..

theorem canonOut_execPromote (d : Doorbell) (s : State) : CanonOut s (execPromote d s) :=
  canonOut_request (fun s _ => canon_answerIte (.refl s) (canon_answerIte (.refl s) ⟨id⟩)) ..

theorem canonOut_execCancelPromotion (d : Doorbell) (s : State) : CanonOut s (execCancelPromotion d s) := by
  refine canonOut_request (fun s bs => ?_) ..
  split
  · exact .refl s
  · split <;> exact ⟨id⟩

theorem canonOut_execTearDownLaunch (d : Doorbell) (s : State) : CanonOut s (execTearDownLaunch d s) := by
  refine canonOut_request (fun s bs => canon_answerIte (.refl s) ?_) ..
  split
  · exact .refl s
  · exact canon_answerIte (.refl s) (canon_tearDown ..)

theorem canonOut_execClearStartCount (d : Doorbell) (s : State) : CanonOut s (execClearStartCount d s) :=
  canonOut_request (fun _ _ => ⟨id⟩) ..

theorem canonOut_execImageChunk (d : Doorbell) (s : State) : CanonOut s (execImageChunk d s) :=
  canonOut_request (fun s _ => canon_answerIte (.refl s) (canon_answerIte (.refl s) ⟨id⟩)) ..

theorem canonOut_execCommitImage (d : Doorbell) (s : State) : CanonOut s (execCommitImage d s) :=
  canonOut_request (fun s _ => canon_answerIte (.refl s) ⟨id⟩) ..

/-! ## Layouts (R374) -/

theorem canon_landAll : ∀ (n : Nat) (nums : List Nat) (s : State), Canon s (State.landAll n nums s)
  | 0, _, s => .refl s
  | n + 1, nums, s => by
    unfold State.landAll
    split
    · exact (canon_landNext ..).trans (canon_landAll n nums _)
    · exact .refl s

theorem canon_sealAll (nums : List Nat) (s : State) : Canon s (State.sealAll nums s) :=
  canon_foldl (fun _ _ => canon_getD fun _ => canon_endSeal) _ s

theorem canon_quiesce (s : State) (gs : List Grant) : Canon s (s.quiesce gs).1 := by
  unfold State.quiesce
  extract_lets bound hit nums s1 s2 s3
  have h1 : Canon s s1 := canon_foldl (fun s t => canon_preemptTeam s t []) hit s
  have h2 : Canon s1 s2 := canon_landAll ..
  have h3 : Canon s2 s3 := canon_sealAll nums s2
  dsimp only
  refine ((h1.trans h2).trans h3).trans (Canon.trans ?_ (canon_tidy _))
  exact canon_foldl (fun s (t : Thread) => canon_saveSlot s t.slot) _ s3

theorem canon_rebank (s : State) (old : List Grant) : Canon s (s.rebank old) := by
  unfold State.rebank
  extract_lets now ended same s1 s2
  have h1 : Canon s s1 := ⟨id⟩
  have h2 : Canon s1 s2 := canon_foldl (fun s x => (kept_damage s (32 * x) 32).canon) _ s1
  exact (h1.trans h2).trans (canon_foldl (fun s b => (kept_damage s b 1).canon) _ s2)

theorem canon_regrant (s : State) (old : List Grant) : Canon s (s.regrant old) := (canon_rebank s old).of_mem rfl

theorem canon_adopt (s : State) (gs : List Grant) (record : List Byte) : Canon s (s.adopt gs record) := by
  unfold State.adopt
  exact (canon_regrant _ _).from_mem rfl

theorem canon_flipAll (s : State) (gs : List Grant) : Canon s (s.flipAll gs) := (canon_rebank _ _).from_mem rfl

theorem canon_flipBack (s : State) : Canon s s.flipBack := by
  unfold State.flipBack
  split
  · exact canon_ite (.refl s) ((canon_rebank _ _).from_mem rfl)
  · exact .refl s

theorem canon_recover (s : State) : Canon s s.recover := by
  unfold State.recover
  split
  · exact (canon_flipBack s).of_mem rfl
  · exact ⟨id⟩

theorem canonOut_execCommitLayout (d : Doorbell) (cut : CommitCut) (s : State) : CanonOut s (execCommitLayout d cut s) := by
  unfold execCommitLayout
  refine canonOut_ite (canonOut_request (fun s _ => .refl s) ..) ?_
  dsimp only
  split
  · exact Canon.mk id
  next gs _ =>
  have k : Canon s (((s.ring_ 1 d).quiesce gs).1.evacuate gs) := ((canon_quiesce ..).trans (canon_evacuate ..)).from_mem rfl
  generalize ((s.ring_ 1 d).quiesce gs).1.evacuate gs = s2 at k ⊢
  cases cut with
  | whole => exact (k.trans (canon_adopt ..)).of_mem rfl
  | held => exact k.of_mem rfl
  | prepared => exact k.of_mem rfl
  | flipped n => exact canon_ite (k.of_mem rfl) (k.trans ((canon_flipAll ..).from_mem rfl))
  | committed => exact (k.trans (canon_adopt ..)).of_mem rfl

/-! ## Promotions, boot, resets and removed units -/

theorem canonOut_execPagePromotion (number target : Nat) (s : State) : CanonOut s (execPagePromotion number target s) := by
  unfold execPagePromotion
  dsimp only
  split
  · exact Canon.refl s
  next p _ =>
  split
  · exact Canon.mk id
  · refine canonOut_ite (.refl s) ?_
    have k : Canon s (s.moveFrame p.part p.frame target) := canon_relocate ..
    exact canon_ite (k.of_mem rfl) (k.of_mem rfl)
  · exact Canon.refl s
  · exact Canon.refl s

theorem canonOut_execPowerUp (b : BootInput) (s : State) : CanonOut s (execPowerUp b s) :=
  canonOut_ite (.refl s) ((canon_recover s).of_mem rfl)

theorem canonOut_execFirmwareReady (s : State) : CanonOut s (execFirmwareReady s) := canon_ite ⟨id⟩ (.refl s)

/-- Memory is empty after a loss of power (R378). -/
theorem canonOut_execPowerLoss (s : State) : CanonOut s (execPowerLoss s) := canonOut_ite (.refl s) ⟨fun _ => rfl⟩

theorem canonOut_execPackageReset (m : EnergyMeasure) (s : State) : CanonOut s (execPackageReset m s) := canonOut_ite (.refl s) ⟨id⟩

theorem canonOut_execWatchdogReset (m : EnergyMeasure) (s : State) : CanonOut s (execWatchdogReset m s) := by
  unfold execWatchdogReset
  refine canonOut_ite (.refl s) ?_
  extract_lets s1 count s2
  have k : Canon s s1 := (canon_recover _).from_mem rfl
  exact canonOut_ite (k.of_mem rfl) (canonOut_ite (k.of_mem rfl) (k.of_mem rfl))

theorem canonOut_execLaneGroupDisable (core lg : Nat) (uncorrected : Bool) (s : State) :
    CanonOut s (execLaneGroupDisable core lg uncorrected s) := canonOut_ite (.refl s) ⟨id⟩

theorem canon_removeNow (s : State) (u : ServiceUnit) : Canon s (s.removeNow u) := by
  unfold State.removeNow
  extract_lets s1
  have h1 : Canon s s1 := ⟨id⟩
  cases u with
  | slice n => exact (h1.trans (canon_foldl (fun s (x : LineTag) => (kept_damage s (128 * x.line) 128).canon) _ s1)).of_mem rfl
  | tract n => exact h1.trans (canon_foldl canon_tearDown _ s1)
  | vault n => exact h1
  | channel n => exact h1

theorem canonOut_execUnitRemoval (u : ServiceUnit) (why : RemovalCause) (s : State) : CanonOut s (execUnitRemoval u why s) := by
  refine canonOut_ite (.refl s) ?_
  cases why with
  | corrected => exact canon_ite ⟨id⟩ (.refl s)
  | uncorrected => exact Canon.mk id
  | unreadable => exact canon_removeNow s u

/-! ## Fetch (R29, R71) -/

theorem canon_fetchWord (s : State) : Canon s s.fetchWord.2 := by
  unfold State.fetchWord
  dsimp only
  split
  · next h => exact canon_scalarCheck h
  · next pa l s' h =>
    refine ((canon_scalarCheck h).trans (kept_touch s' s.cur.ctx s.cur.pc.toNat l false).canon).trans ?_
    exact canon_ite (kept_tock _).canon ((kept_tock _).canon.trans (canon_mod ..))

theorem canon_prefetch (s : State) (va : Nat) : Canon s (s.prefetch va) := by
  unfold State.prefetch
  split
  · exact .refl s
  · next h => exact canon_ite (.refl s) ((canon_scalarCheck h).trans (canon_mod ..))

theorem canonOut_execInstructionFetch (s : State) : CanonOut s (execInstructionFetch s) := by
  have k := canon_fetchWord s
  unfold execInstructionFetch
  generalize s.fetchWord = p at k ⊢
  rcases p with ⟨r, s'⟩
  cases r with
  | error f => exact k.trans (canon_issueTrap ..)
  | ok w => exact Canon.refl s

/-! ## The host's windows (R364, R365, R371) -/

theorem canon_countFrames (s : State) (l : List Nat) : Canon s (l.foldl (fun s f => s.countRemote f 1) s) :=
  canon_foldl (fun s f => (kept_countRemote s f 1).canon) l s

theorem canonOut_execHostMemoryRead (cls : HostClass) (place : HostAddress) (n : Nat) (s : State) :
    CanonOut s (execHostMemoryRead cls place n s) := by
  unfold execHostMemoryRead
  refine canonOut_ite (.refl s) ?_
  dsimp only
  split
  · exact canonOut_ite (((canon_countFrames _ _).trans (kept_tock _).canon).from_mem rfl) ⟨id⟩
  all_goals exact Canon.mk id

theorem canonOut_doorbell (tag : Word) (s : State) : CanonOut s (State.doorbell tag s) := by
  unfold State.doorbell
  dsimp only
  split
  · exact canonOut_execCommitLayout ..
  · exact canonOut_execReadLayoutState ..
  · exact canonOut_execRegisterSession ..
  · exact canonOut_execEnergyReading ..
  · exact canonOut_execAttestation ..
  · exact canonOut_execReadCounts ..
  · exact canonOut_execReadEnabledUnits ..
  · exact canonOut_execConfigurePageCounters ..
  · exact canonOut_execPromote ..
  · exact canonOut_execCancelPromotion ..
  · exact canonOut_execClearStartCount ..
  · exact canonOut_execImageChunk ..
  · exact canonOut_execCommitImage ..
  · exact canonOut_execTearDownLaunch ..
  · exact canonOut_execUnknownRequestCode ..

theorem canonOut_mailboxWrite (s : State) (cls : HostClass) (offset : Nat) (bytes : List Byte) :
    CanonOut s (s.mailboxWrite cls offset bytes) := by
  unfold State.mailboxWrite
  dsimp only
  exact canonOut_ite ⟨id⟩ (canonOut_ite (canonOut_doorbell ..) (canonOut_ite ((Canon.refl s).of_mem rfl) (.refl s)))

theorem canonOut_execHostMemoryWrite (cls : HostClass) (place : HostAddress) (bytes : List Byte) (s : State) :
    CanonOut s (execHostMemoryWrite cls place bytes s) := by
  unfold execHostMemoryWrite
  refine canonOut_ite (.refl s) ?_
  dsimp only
  split
  · exact canonOut_ite (((kept_put ..).trans (kept_spoilRings ..)).canon.trans (canon_countFrames ..)) (.refl s)
  · exact canonOut_ite (canonOut_execLaunchPortWrite ..) (.refl s)
  · exact canonOut_mailboxWrite ..
  · exact Canon.refl s

end Sys2Proof.Machine
end

section
/-!
PROOF. Memory stays canonical (O59): every instruction and event, what happens by itself, and so every step.
-/
namespace Sys2Proof.Machine

open Sys2Proof.Safety

/-- Every instruction and every event keeps memory canonical: one arm for each shared meaning; what is left issues a queued word. -/
theorem canonOut_exec (i : Instr) (s : State) : CanonOut s (exec i s) := by
  unfold exec
  cases i with
  | add f | sub f | and f | andn f | or f | xor f | sll f | srl f | sra f | rol f | mul f | mulh f | mulhz f | div f | divz f | rem f
  | remz f | ceq f | cne f | clt f | cge f | clo f | chs f | min f | max f | minz f | maxz f => exact canonOut_aluOp f _ s
  | clz f | ctz f | popc f => exact canonOut_aluUnary f _ s
  | addi f | andi f | ori f | xori f | sllImm f | srlImm f | sraImm f | rolImm f => exact canonOut_aluImm f _ s
  | ldhi f | addpc f | jal f | vsetl f | vsett f | vsetes f | cfetch f | yield f => exact canonOut_scalar (canon_mod ..)
  | beq f | bne f | blt f | bge f | blo f | bhs f => exact canonOut_branch f _ s
  | jalr f => exact canonOut_execJalr f s
  | ldD f | ldW f | ldWz f | ldH f | ldHz f | ldB f | ldBz f => exact canonOut_scalarLoad f _ _ s
  | stD f | stW f | stH f | stB f => exact canonOut_scalarStore f _ s
  | aswpW f | aaddW f | aandW f | aorW f | axorW f | aminW f | amaxW f | aminzW f | amaxzW f | acasW f
  | aswpD f | aaddD f | aandD f | aorD f | axorD f | aminD f | amaxD f | aminzD f | amaxzD f | acasD f => exact canonOut_scalarAtomic f _ _ s
  | ldAcqW f | ldAcqD f => exact canonOut_loadAcquire f _ _ s
  | stRelW f | stRelD f => exact canonOut_storeRelease f _ s
  | fenceSc f | trap f | eret f | ifence f | tlbprobe f => exact canonOut_scalar (canon_ite (.refl s) (canon_mod ..))
  | await f => exact canonOut_execAwait f s
  | wake f => exact canonOut_execWake f s
  | barArrive f => exact canonOut_execBarArrive f s
  | barWait f => exact canonOut_execBarWait f s
  | barSync f => exact canonOut_execBarSync f s
  | barCfg f => exact canonOut_execBarCfg f s
  | barStat f => exact canonOut_execBarStat f s
  | mfs f => exact canonOut_execMfs f s
  | mts f | mtsVl f | mtsVt f | mtsEs f | mtsDirty f => exact canonOut_mtsWith _ _ f _ s
  | tlbinvAll f | tlbinvCtx f | tlbinvVa f => exact canonOut_scalar (canon_tlbInvalidate ..)
  | cflush f | cclean f => exact canonOut_lineOperation _ f s
  | exit f => exact canonOut_execExit f s
  | self f => exact canonOut_execSelf f s
  | entryDispatch => exact canon_getD fun _ => canon_dispatchOne
  | entryRetire => exact canon_getD fun _ => canon_retireOne
  | sliceExpiry slot groups => exact canonOut_execSliceExpiry slot groups s
  | slotUnbind slot groups => exact canonOut_execSlotUnbind slot groups s
  | contextSave slot => exact canonOut_execContextSave slot s
  | slotBind slot => exact canon_bindSlot s slot
  | streamEngineFetch q => exact canonOut_execStreamEngineFetch q s
  | copyLanding copy => exact canonOut_execCopyLanding copy s
  | ksealCompletion op => exact canonOut_execKsealCompletion op s
  | kopenCompletion op => exact canonOut_execKopenCompletion op s
  | barrierPhaseComplete team bar => exact canonOut_execBarrierPhaseComplete team bar s
  | ringHandshake r up down => exact canonOut_execRingHandshake r up down s
  | ringArrival r b => exact canonOut_execRingArrival r b s
  | ringForward r => exact canonOut_execRingForward r s
  | ringSlotRelease r => exact canonOut_execRingSlotRelease r s
  | ringBreakFlit _ | thrumezLinkLoss _ | thrumezLinkRetrain _ | awaitWakeup _ | energyAttribution _ => exact Canon.mk id
  | launchPortWrite part record => exact canonOut_execLaunchPortWrite part record s
  | launchStart team placement => exact canonOut_execLaunchStart team placement s
  | commitLayout d cut => exact canonOut_execCommitLayout d cut s
  | readLayoutState d => exact canonOut_execReadLayoutState d s
  | registerSession d => exact canonOut_execRegisterSession d s
  | energyReading d => exact canonOut_execEnergyReading d s
  | attestation d => exact canonOut_execAttestation d s
  | readCounts d => exact canonOut_execReadCounts d s
  | readEnabledUnits d => exact canonOut_execReadEnabledUnits d s
  | configurePageCounters d => exact canonOut_execConfigurePageCounters d s
  | promote d => exact canonOut_execPromote d s
  | cancelPromotion d => exact canonOut_execCancelPromotion d s
  | pagePromotion number target => exact canonOut_execPagePromotion number target s
  | clearStartCount d => exact canonOut_execClearStartCount d s
  | imageChunk d => exact canonOut_execImageChunk d s
  | commitImage d => exact canonOut_execCommitImage d s
  | tearDownLaunch d => exact canonOut_execTearDownLaunch d s
  | hostMemoryRead cls place n => exact canonOut_execHostMemoryRead cls place n s
  | hostMemoryWrite cls place bytes => exact canonOut_execHostMemoryWrite cls place bytes s
  | powerUp b => exact canonOut_execPowerUp b s
  | firmwareReady => exact canonOut_execFirmwareReady s
  | powerLoss => exact canonOut_execPowerLoss s
  | watchdogReset m => exact canonOut_execWatchdogReset m s
  | laneGroupDisable core lg uncorrected => exact canonOut_execLaneGroupDisable core lg uncorrected s
  | illegalInstruction _ => exact canon_wordTrap s _ _
  | instructionFetch => exact canonOut_execInstructionFetch s
  | unknownRequestCode code d => exact canonOut_execUnknownRequestCode code d s
  | packageReset m => exact canonOut_execPackageReset m s
  | unitRemoval u why => exact canonOut_execUnitRemoval u why s
  | _ => exact canonOut_issue _ s

/-! ## What happens by itself -/

/-- A step that something else takes where this one finds nothing to do. -/
theorem canon_orElse {s t : State} {o : Option State} {alt : Unit → Option State} (ho : ∀ u, o = some u → Canon s u)
    (ha : ∀ u, alt () = some u → Canon s u) (h : o.orElse alt = some t) : Canon s t := by
  cases o with
  | none => exact ha t h
  | some u => exact ho t h

/-- A step that is taken wherever something is found for it. -/
theorem canon_optionMap {α : Type} {s t : State} {o : Option α} {f : α → State} (hf : ∀ x, Canon s (f x)) (h : o.map f = some t) : Canon s t := by
  obtain ⟨x, -, rfl⟩ := Option.map_eq_some_iff.mp h
  exact hf x

theorem canon_queueMoves {s t : State} (h : s.queueMoves = some t) : Canon s t := by
  unfold State.queueMoves at h
  split at h
  · exact canon_orElse (fun _ => canon_retireOne) (fun _ => canon_dispatchOne) h
  · cases h

theorem canon_sealMoves {s t : State} (h : s.sealMoves = some t) : Canon s t := by
  obtain ⟨o, -, ho⟩ := List.exists_of_findSome?_eq_some h
  exact canon_endSeal ho

theorem canon_ringMoves {s t : State} (h : s.ringMoves = some t) : Canon s t := by
  unfold State.ringMoves at h
  exact canon_optionMap (fun n => (kept_setRing s n _).canon) h

theorem canon_completePhase (s : State) (team : Nat) (num : BitVec 6) (crews : List Nat) : Canon s (s.completePhase team num crews) := ⟨id⟩

theorem canon_phaseMoves {s t : State} (h : s.phaseMoves = some t) : Canon s t := by
  obtain ⟨b, -, hb⟩ := List.exists_of_findSome?_eq_some h
  exact canon_optionMap (canon_completePhase s b.team b.num) hb

theorem canon_saveMoves {s t : State} (h : s.saveMoves = some t) : Canon s t := by
  unfold State.saveMoves at h
  exact canon_optionMap (fun x : Thread => (canon_atSlot canon_saveCurrent s x.slot).trans (canon_tidy _)) h

theorem canon_firmwareMoves {s t : State} (h : s.firmwareMoves = some t) : Canon s t := by
  unfold State.firmwareMoves at h
  split at h
  · cases h
  split at h
  · cases h; exact canon_finishTeam ..
  split at h
  · cases h; exact canon_finishLaunch ..
  split at h
  · cases h; exact canon_tearDown ..
  · exact canon_optionMap (canon_bindSlot s) h

theorem canon_background {s t : State} (h : s.background = some t) : Canon s t :=
  canon_orElse (fun _ => canon_queueMoves) (fun _ =>
    canon_orElse (fun _ => canon_optionMap (canon_landNext s)) (fun _ =>
      canon_orElse (fun _ => canon_sealMoves) (fun _ =>
        canon_orElse (fun _ => canon_ringMoves) (fun _ =>
          canon_orElse (fun _ => canon_phaseMoves) (fun _ =>
            canon_orElse (fun _ => canon_saveMoves) (fun _ => canon_firmwareMoves)))))) h

/-! ## Turns -/

theorem canon_rotate (s : State) : Canon s s.rotate := by
  unfold State.rotate
  split <;> exact ⟨id⟩

theorem canon_fetchOne (s : State) (q : BitVec 3) : Canon s (s.fetchOne q) := by
  have k := canonOut_execStreamEngineFetch q s
  unfold State.fetchOne
  refine canon_ite ?_ (.refl s)
  cases h : execStreamEngineFetch q s with
  | next t => rw [h] at k; exact k
  | fault _ => exact .refl s
  | refused _ => exact .refl s

theorem canon_endTurn (s : State) : Canon s s.endTurn :=
  (canon_foldl (fun s n => canon_fetchOne s (BitVec.ofNat 3 n)) (List.range 8) s).trans (canon_rotate _)

theorem canonOut_endTurnOut {s : State} {x : Out} (h : CanonOut s x) : CanonOut s (endTurnOut x) := by
  cases x with
  | next t => exact Canon.trans h (canon_endTurn t)
  | fault _ => trivial
  | refused _ => trivial

/-! ## The step -/

theorem canonOut_scalarStep (s : State) : CanonOut s (scalarStep s) := by
  have k := canon_fetchWord s
  unfold scalarStep
  generalize s.fetchWord = p at k ⊢
  rcases p with ⟨_ | w, s'⟩
  · exact k.trans (canon_issueTrap ..)
  · refine k.out ?_
    dsimp only
    split
    · exact canonOut_exec ..
    · exact canon_wordTrap ..

theorem canon_upset (s : State) (u : Upset) : Canon s (s.upset u) := by
  cases u with
  | memory pa => exact (kept_damage s pa 1).canon
  | register r bits => exact ⟨id⟩
  | side r entries => exact ⟨id⟩
  | residue row again => exact ⟨id⟩
  | corrected u => exact ⟨id⟩
  | demotion part => exact ⟨id⟩
  | counter frame value => exact ⟨id⟩

theorem canon_fill (s : State) (n : Nat) : Canon s (s.fill n) := canon_ite (.refl s) (canon_mod ..)

/-- The agenda is no part of memory. -/
theorem canonOut_agenda {s : State} {agenda : List Choice} {x : Out} (h : CanonOut { s with agenda := agenda } x) : CanonOut s x :=
  Canon.out (t := { s with agenda := agenda }) ⟨id⟩ h

/-- Every step keeps memory canonical. -/
theorem canonOut_cycle (s : State) : CanonOut s s.cycle := by
  unfold State.cycle
  split
  · exact canonOut_agenda (canonOut_ite (.refl _) (canonOut_exec ..))
  · exact canonOut_agenda (canonOut_ite (canonOut_scalarStep _) (.refl _))
  · exact canonOut_agenda (canon_rotate _)
  · exact canonOut_agenda (canon_fill ..)
  · exact canonOut_agenda (canon_upset ..)
  · exact canonOut_agenda (canon_prefetch ..)
  · exact canonOut_agenda (canon_migrate ..)
  · exact canonOut_agenda (canon_migrateVault ..)
  · split
    · next h => exact canon_background h
    · exact canonOut_ite (canonOut_endTurnOut (canonOut_scalarStep s)) (canon_rotate s)

end Sys2Proof.Machine

namespace Sys2Proof.Proofs

open Sys2Proof.Machine Sys2Proof.Safety

/-- Settles O59: every operation that a step may make satisfies `Canon`, which composes. -/
theorem memoryStaysCanonical : Obligations.MemoryStaysCanonical := by
  unfold Obligations.MemoryStaysCanonical
  intro s t hs h
  have k : CanonOut s (step s) := canonOut_cycle s
  rw [h] at k
  exact Canon.keeps k hs

end Sys2Proof.Proofs
end

section
/-!
PROOF. The issue of a queued word (R17, R48): what a word that enters the queue leaves, the first check that fails where nothing is
queued, and the run of a lone word to its end.
-/
namespace Sys2Proof.Machine

open Sys2Proof.Safety

/-! ## Nothing queued -/

/-- The EINFO of R49 that names nothing. -/
theorem einfoPos_zero : einfoPos 0 0 0 0 = 0 := by decide

/-- The EINFO of R269 that names nothing. -/
theorem einfoShape_zero : einfoShape 0 0 0 = 0 := by decide

/-- With nothing queued neither a convoy nor a frame is open. -/
theorem Thread.openEntries_nil {t : Thread} (hq : t.queue = []) : t.openEntries = [] := by
  simp [Thread.openEntries, hq]

/-- With nothing queued no wait of R17 is left. -/
theorem Thread.drained_nil {t : Thread} (hq : t.queue = []) : t.drained = true := by
  simp [Thread.drained, Thread.waited, hq]

/-- With nothing queued no word breaks a frame (R46). -/
theorem breaksFrame_nil {t : Thread} (hq : t.queue = []) (w : BitVec 32) : breaksFrame t w = false := by
  simp [breaksFrame, hq]

/-- With nothing queued no word breaks a convoy (R41). -/
theorem breaksConvoy_nil {t : Thread} (hq : t.queue = []) (w : BitVec 32) : breaksConvoy t w = false := by
  simp [breaksConvoy, hq]

/-- A discard of nothing changes nothing (R385). -/
theorem Thread.discard_nil (t : Thread) : t.discard [] = t := rfl

/-- A trap leaves the queue as it is (R308). -/
theorem Thread.enterTrap_queue (t : Thread) (cause : BitVec 8) (deferred : Bool) (epc eaddr einfo : Word) :
    (t.enterTrap cause deferred epc eaddr einfo).queue = t.queue := by
  unfold Thread.enterTrap
  split <;> rfl

/-- With nothing queued a trap at issue is taken at once, at the word's own PC and position (R48, R49, R97). -/
theorem State.issueTrap_nil {s : State} (hq : s.cur.queue = []) (cause : BitVec 8) (eaddr info : Word) (pos : Bool) :
    s.issueTrap cause eaddr info pos = trapped s cause eaddr info := by
  simp [State.issueTrap, Thread.openEntries_nil hq, Thread.discard_nil, Thread.drained_nil hq, hq, trapped, State.mod]

/-- With nothing queued the queue has no work to do, whatever the pace. -/
theorem State.work_nil {s : State} (hq : s.cur.queue = []) : s.work = s := by
  unfold State.work
  split
  · exact State.settle_nil descOf 256 hq
  · rfl

/-! ## A push that succeeds -/

/-- Where its push succeeds, the issue of a word leaves what the queue's work then makes of it (R17). -/
theorem issue_of_push {s s' : State} {w : BitVec 32} (h : s.push descOf (descOf w) w = .done s') : issue w s = .next s'.work := by
  rw [issue, h]

/-- A push that traps is all that its word does. -/
theorem issue_of_trap {s s' : State} {w : BitVec 32} (h : s.push descOf (descOf w) w = .trap s') : issue w s = .next s' := by
  rw [issue, h]

/-- Register groups that are all aligned leave check 5 nothing to name. -/
theorem aligned_find {l : List (Nat × Nat × Nat)} (h : ∀ g ∈ l, g.1 % g.2.1 = 0) : l.find? (fun g => decide (g.1 % g.2.1 ≠ 0)) = none := by
  rw [List.find?_eq_none]
  intro g hg
  simp [h g hg]

/-- A word that enters makes no premature read (R39). -/
theorem premature_enters {s : State} {d : Desc} {w : BitVec 32} (h : Enters s d w) : s.cur.premature d.scalars = none := by
  unfold Thread.premature
  rw [Option.map_eq_none_iff, List.find?_eq_none]
  intro x hx hp
  simp only [Bool.and_eq_true, Bool.or_eq_true, Bool.not_eq_true', beq_iff_eq] at hp
  obtain ⟨hstrict, ⟨he, hc⟩ | hstuck⟩ := hp
  · obtain ⟨hfull | hwrites, -⟩ := h.strict x hx hstrict
    · simp [he] at hfull
    · simp [hc] at hwrites
  · exact (h.strict x hx hstrict).2 hstuck

/-- A word that enters waits for nothing: its sources are there or will be, the queue has room, and no frame is before a vframe (R17, R40,
R44). -/
theorem noWait_enters {s : State} {d : Desc} {w : BitVec 32} (h : Enters s d w) :
    (d.scalars.any (fun x => s.cur.gempty x.1 && !s.cur.openWrites x.1) || decide (64 ≤ s.cur.occupied) ||
      (isFrame w && s.cur.queue.any (fun e => (isFrame e.word || e.frame) && !e.held))) = false := by
  have hsources : d.scalars.any (fun x => s.cur.gempty x.1 && !s.cur.openWrites x.1) = false := by
    rw [List.any_eq_false]
    intro x hx hbad
    simp only [Bool.and_eq_true, Bool.not_eq_true'] at hbad
    simp [h.sources x hx hbad.1] at hbad
  have hroom : decide (64 ≤ s.cur.occupied) = false := decide_eq_false (Nat.not_le_of_lt h.room)
  have halone : (isFrame w && s.cur.queue.any (fun e => (isFrame e.word || e.frame) && !e.held)) = false := by
    cases hf : isFrame w
    · rfl
    · rw [Bool.true_and, List.any_eq_false]
      intro e he hbad
      simp only [Bool.and_eq_true, Bool.or_eq_true, Bool.not_eq_true'] at hbad
      simp [(h.alone hf).1 e he hbad.1] at hbad
  rw [hsources, hroom, halone]
  rfl

/-- Closing a convoy whose pipes the partition has changes nothing (R43). -/
theorem State.pipeCheck_none {s : State} {descOf : BitVec 32 → Desc} {members : List Entry}
    (h : pipeExcess s.cur.pipes (members.map (fun e => (descOf e.word).pipes)) [] 0 = none) : s.pipeCheck descOf members = s := by
  unfold State.pipeCheck
  rw [h]

/-- The push of a word that may enter succeeds (R17, R48). -/
theorem State.push_enters {s : State} {w : BitVec 32} (h : Enters s (descOf w) w) :
    s.push descOf (descOf w) w = .done (pushed s (descOf w) w) := by
  have htile : ((descOf w).tile && (s.cur.trl == 0 || decide (2048 < s.cur.trl.toNat))) = false := by
    cases ht : (descOf w).tile
    · rfl
    · obtain ⟨hzero, hlong⟩ := h.tile ht
      simpa [hlong] using hzero
  have hcount : (isFrame w && decide (2 ^ 32 ≤ (newEntry s.cur w (descOf w)).opa.toNat)) = false := by
    cases hf : isFrame w
    · rfl
    · simpa using (h.alone hf).2
  have hpipes : (if joins w then pushed s (descOf w) w else
      (pushed s (descOf w) w).pipeCheck descOf (openConvoy s.cur.queue ++ [newEntry s.cur w (descOf w)])) = pushed s (descOf w) w := by
    split
    · rfl
    · next hj => exact State.pipeCheck_none (h.pipes (by simpa using hj))
  unfold State.push
  simp only [h.frame, h.type, aligned_find h.groups, htile, h.convoy, premature_enters h, noWait_enters h, hcount,
    Bool.not_true, Bool.false_eq_true, if_false]
  exact congrArg Pushed.done hpipes

/-- A frame whose members are still to come does not dispatch (R44). -/
theorem State.work_captures {s : State} {d : Desc} {w : BitVec 32} (hf : isFrame w = true) (hq : s.cur.queue = []) :
    (pushed s d w).work = pushed s d w := by
  have hpq : (pushed s d w).cur.queue = [newEntry s.cur w d] := pushed_queue hq
  have hcap : capturing [newEntry s.cur w d] = some [newEntry s.cur w d] := by
    have hw : (newEntry s.cur w d).word = w := rfl
    have hn : (newEntry s.cur w d).frame = false := by simp [newEntry, hq]
    have hh : (newEntry s.cur w d).held = false := rfl
    simp [capturing, hw, hn, hh, hf, frameCount]
  have hopen : stillOpen (pushed s d w).cur 0 = true := by
    simp [stillOpen, Thread.openEntries, hpq, hcap]
  have hnext : nextToDispatch (pushed s d w).cur.queue = some 0 := by
    simp [nextToDispatch, hpq, newEntry, Entry.held, Entry.defers, Entry.isDone]
  have hretire : (pushed s d w).retireOne = none := State.retireOne_unstarted hpq rfl rfl
  have hdispatch : (pushed s d w).dispatchOne descOf 0 = none := by
    simp [State.dispatchOne, hnext, hopen]
  unfold State.work
  split
  · unfold State.settle
    simp [hretire, hdispatch]
  · rfl

/-- A word that enters is queued and no more: where entries work by events, and everywhere for a vframe with nothing before it (R17, R44). -/
theorem issue_enters {s : State} {w : BitVec 32} (hp : s.pace = .decoupled ∨ (isFrame w = true ∧ s.cur.queue = []))
    (h : Enters s (descOf w) w) : issue w s = .next (pushed s (descOf w) w) := by
  have hwork : (pushed s (descOf w) w).work = pushed s (descOf w) w := by
    obtain hpace | ⟨hf, hq⟩ := hp
    · have : (pushed s (descOf w) w).pace = .decoupled := hpace
      rw [State.work, this]
    · exact State.work_captures hf hq
  rw [issue_of_push (State.push_enters h), hwork]

/-! ## A push that traps with nothing queued -/

/-- Check 4 of R48: a type that the word does not take. -/
theorem issue_badType {s : State} {w : BitVec 32} (hq : s.cur.queue = []) (ht : (descOf w).typeOk s.cur.vt = false) :
    issue w s = .next (trapped s 0x41 s.cur.pc 0) := by
  apply issue_of_trap
  simp [State.push, breaksFrame_nil hq, ht, State.wordTrap, State.issueTrap_nil hq, einfoPos_zero]

/-- Check 5 of R48: the first register group that is not aligned is named. -/
theorem issue_misaligned {s : State} {w : BitVec 32} (hq : s.cur.queue = []) (ht : (descOf w).typeOk s.cur.vt = true) {g : Nat × Nat × Nat}
    (hg : ((descOf w).align w s.cur.vt12).find? (fun g => g.1 % g.2.1 ≠ 0) = some g) :
    issue w s = .next (trapped s 0x48 s.cur.pc (einfoPos 0 g.2.2 0 0)) := by
  apply issue_of_trap
  simp only [State.push, breaksFrame_nil hq, ht, hg, Bool.not_true, Bool.false_eq_true, if_false, State.wordTrap, State.issueTrap_nil hq]

/-- Check 5 of R48: a tile row length out of range. -/
theorem issue_badRow {s : State} {w : BitVec 32} (hq : s.cur.queue = []) (ht : (descOf w).typeOk s.cur.vt = true)
    (hg : ∀ g ∈ (descOf w).align w s.cur.vt12, g.1 % g.2.1 = 0) (htile : (descOf w).tile = true)
    (htrl : s.cur.trl = 0 ∨ 2048 < s.cur.trl.toNat) : issue w s = .next (trapped s 0x4A s.cur.pc 0) := by
  apply issue_of_trap
  have hrow : (s.cur.trl == 0 || decide (2048 < s.cur.trl.toNat)) = true := by simpa using htrl
  simp only [State.push, breaksFrame_nil hq, ht, aligned_find hg, htile, hrow, Bool.not_true, Bool.and_self, Bool.false_eq_true, if_false,
    if_true, State.issueTrap_nil hq, einfoShape_zero]

/-- A lone word whose own pipes the partition lacks is taken back and traps (R43). -/
theorem State.pipeCheck_lone {s : State} {w : BitVec 32} (hq : s.cur.queue = [])
    (hx : pipeExcess s.cur.pipes [(descOf w).pipes] [] 0 = some 0) :
    (pushed s (descOf w) w).pipeCheck descOf [newEntry s.cur w (descOf w)] = trapped s 0x42 s.cur.pc 0 := by
  have hx' : pipeExcess (pushed s (descOf w) w).cur.pipes ([newEntry s.cur w (descOf w)].map (fun e => (descOf e.word).pipes)) [] 0 = some 0 := hx
  have hframe : (newEntry s.cur w (descOf w)).frame = false := by simp [newEntry, hq]
  have hback : (pushed s (descOf w) w).cur.discard [newEntry s.cur w (descOf w)] = s.cur := by
    simp only [Thread.discard, pushed_queue hq]
    simp [pushed, Thread.push, newEntry, ← hq]
  unfold State.pipeCheck
  rw [hx']
  simp only [hframe, hback, Thread.drained_nil hq, Bool.not_true, Bool.false_eq_true, if_false]
  rfl

/-- The pipes of a lone word (R43), where nothing before them in R48 fails. -/
theorem issue_noPipe {s : State} {w : BitVec 32} (hq : s.cur.queue = []) (ht : (descOf w).typeOk s.cur.vt = true)
    (hg : ∀ g ∈ (descOf w).align w s.cur.vt12, g.1 % g.2.1 = 0) (htile : (descOf w).tile = false) (hw : lone w) (hs : s.cur.stuck = none)
    (hx : pipeExcess s.cur.pipes [(descOf w).pipes] [] 0 = some 0) : issue w s = .next (trapped s 0x42 s.cur.pc 0) := by
  obtain ⟨hjoin, hframe⟩ := hw
  have hpush : s.push descOf (descOf w) w = .done (trapped s 0x42 s.cur.pc 0) := by
    have hpre : s.cur.premature (descOf w).scalars = none := Thread.premature_nil hq (by simp [hs])
    have hsources : (descOf w).scalars.any (fun _ => false) = false := by simp
    have hroom : decide (64 ≤ s.cur.occupied) = false := by simp [Thread.occupied, hq]
    simp only [State.push, breaksFrame_nil hq, ht, aligned_find hg, htile, breaksConvoy_nil hq, hpre, Thread.gempty_nil hq, hsources, hroom,
      hframe, hjoin, hq, openConvoy_nil, List.nil_append, Bool.not_true, Bool.false_and, Bool.or_false, Bool.false_eq_true, if_false]
    exact congrArg Pushed.done (State.pipeCheck_lone hq hx)
  have hleft : (trapped s 0x42 s.cur.pc 0).cur.queue = [] := (Thread.enterTrap_queue ..).trans hq
  rw [issue_of_push hpush, State.work_nil hleft]

/-! ## A lone word that completes -/

/-- A pass over the elements below `v` that meets no cause is the last (R83). -/
theorem runTo_complete {d : Desc} {view : View} {s : State} {v : Nat} (n : Nat) (why : Option Fail)
    (hfail : (d.run v view (Acc.start s)).fail = none) (hcheck : (d.run v view (Acc.start s)).check = none)
    (hwait : (d.run v view (Acc.start s)).wait = false) : runTo d view s (n + 1) v why = .done (d.run v view (Acc.start s)) v why := by
  simp [runTo, hfail, hcheck, hwait]

/-- VL leaves an instruction no element to perform, or its guard does (R34, R79): `workOf` and `runEntry` both ask this. -/
def Desc.NoElement (d : Desc) (view : View) : Prop := (view.vl ≤ view.es ∧ ¬(d.below = true ∧ view.es ≠ 0)) ∨ d.allFalse = true

/-- The condition as `runEntry` writes it. -/
theorem Desc.noElement_iff {d : Desc} {view : View} :
    d.NoElement view ↔ ((view.vl ≤ view.es ∧ !(d.below && view.es != 0)) ∨ d.allFalse) := by
  unfold Desc.NoElement
  cases d.below <;> simp

/-- Where an instruction has no element to perform, its run is what `empty` says of its class. -/
theorem runEntry_empty {d : Desc} {view : View} {s : State} (hown : d.ownLength = false) (hnone : d.NoElement view)
    (hcheck : (d.empty view.vl view (Acc.start s)).check = none) (hwait : (d.empty view.vl view (Acc.start s)).wait = false) :
    runEntry d view s = .done (d.empty view.vl view (Acc.start s)) view.vl none := by
  unfold runEntry
  rw [if_neg (by simp [hown]), if_pos (Desc.noElement_iff.mp hnone)]
  simp [hcheck, hwait]

/-- Where VL does not concern an instruction, or it has elements to perform, its run is a pass over them that meets no cause (R34, R83). -/
theorem runEntry_run {d : Desc} {view : View} {s : State} (hsome : ¬(d.ownLength = false ∧ d.NoElement view))
    (hfail : (d.run view.vl view (Acc.start s)).fail = none) (hcheck : (d.run view.vl view (Acc.start s)).check = none)
    (hwait : (d.run view.vl view (Acc.start s)).wait = false) :
    runEntry d view s = .done (d.run view.vl view (Acc.start s)) view.vl none := by
  unfold runEntry
  split
  · exact runTo_complete 1 none hfail hcheck hwait
  · next hown =>
    rw [if_neg (fun h => hsome ⟨by simpa using hown, Desc.noElement_iff.mpr h⟩)]
    exact runTo_complete view.vl none hfail hcheck hwait

/-- A lone word whose work meets no cause, fails no check and need not wait ends with it at length VL (R34, R79, R83). -/
theorem runEntry_workOf {s : State} {d : Desc} {w : BitVec 32} (hfail : (workOf s d w).fail = none) (hcheck : (workOf s d w).check = none)
    (hwait : (workOf s d w).wait = false) : runEntry d (viewOf s d w) (pushed s d w) = .done (workOf s d w) s.cur.vl.toNat none := by
  unfold workOf at hfail hcheck hwait ⊢
  dsimp only at hfail hcheck hwait ⊢
  split at hfail
  · next hnone =>
    rw [if_pos hnone] at hcheck hwait ⊢
    exact runEntry_empty hnone.1 hnone.2 hcheck hwait
  · next hsome =>
    rw [if_neg hsome] at hcheck hwait ⊢
    exact runEntry_run hsome hfail hcheck hwait

end Sys2Proof.Machine

namespace Sys2Proof.Proofs

open Sys2Proof.Machine Sys2Proof.Safety

/-- Settles O40: a word that may enter is pushed, and one that may not, with nothing queued, takes the first check that fails. -/
theorem queuedPush : Obligations.QueuedPush := by
  unfold Obligations.QueuedPush
  intro i w s hw hq d late
  rw [exec_queued hw hq]
  exact ⟨fun hp h => issue_enters hp h, issue_badType, fun hq ht g hg => issue_misaligned hq ht hg, issue_badRow, issue_noPipe⟩

/-- Settles O41: the word's run ends with its work over the elements below VL, and a lone word whose run ends completes. -/
theorem queuedCompletes : Obligations.QueuedCompletes := by
  unfold Obligations.QueuedCompletes
  intro i w s hw hq hlone hidle hpush a hfail hcheck hwait hdeferred
  exact exec_lone hw hq hlone hidle hpush (runEntry_workOf hfail hcheck hwait) hdeferred

end Sys2Proof.Proofs
end

section
/-!
PROOF. Scalar arithmetic, branches and jumps (R53 to R57, R63 to R65): each function of the model against the operation of the spec's table,
and the issue of a ready word.
-/
namespace Sys2Proof.Machine

open Sys2Proof.Safety

/-! ## The operations of R53 to R56 -/

/-- A shift amount is the register modulo 64 (R53). -/
theorem amount_eq (b : Word) : amount b = b.toNat % 64 := by
  simp [amount]

/-- So is that of an immediate (R32, R56). -/
theorem immAmount_eq (f : FmtSI) : immAmount f = f.imm.toNat % 64 := by
  simp [immAmount]

theorem mul_eq_ofNat (a b : Word) : a * b = BitVec.ofNat 64 (a.toNat * b.toNat) := by
  simp [BitVec.ofNat_mul]

/-- Unsigned division by R54's table. -/
theorem divUnsigned_eq (a b : Word) : divUnsigned a b = if b = 0 then BitVec.allOnes 64 else BitVec.ofNat 64 (a.toNat / b.toNat) := by
  unfold divUnsigned
  split
  · rfl
  · exact BitVec.eq_of_toNat_eq (by
      rw [BitVec.toNat_udiv, BitVec.toNat_ofNat, Nat.mod_eq_of_lt (Nat.lt_of_le_of_lt (Nat.div_le_self ..) a.isLt)])

/-- A signed remainder is what the truncated quotient leaves (R54). -/
theorem remSigned_eq (a b : Word) :
    remSigned a b = if b = 0 then a else BitVec.ofInt 64 (a.toInt - b.toInt * a.toInt.tdiv b.toInt) := by
  rw [remSigned, Int.tmod_def]

/-- An unsigned remainder is what the quotient leaves (R54). -/
theorem remUnsigned_eq (a b : Word) :
    remUnsigned a b = if b = 0 then a else BitVec.ofNat 64 (a.toNat - b.toNat * (a.toNat / b.toNat)) := by
  unfold remUnsigned
  split
  · rfl
  · rw [← Nat.mod_eq_sub]
    exact BitVec.eq_of_toNat_eq (by
      rw [BitVec.toNat_umod, BitVec.toNat_ofNat, Nat.mod_eq_of_lt (Nat.lt_of_le_of_lt (Nat.mod_le ..) a.isLt)])

theorem oneIf_eq {b : Bool} {p : Prop} [Decidable p] (h : b = true ↔ p) : oneIf b = if p then 1 else 0 := by
  simp only [oneIf, h]

theorem oneIf_ne (a b : Word) : oneIf (!(a == b)) = if a = b then 0 else 1 := by
  by_cases h : a = b <;> simp [oneIf, h]

theorem slt_iff (a b : Word) : a.slt b = true ↔ a.toInt < b.toInt := BitVec.slt_iff_toInt_lt

theorem not_slt_iff (a b : Word) : (!a.slt b) = true ↔ b.toInt ≤ a.toInt := by
  rw [Bool.not_eq_true', ← Bool.not_eq_true, slt_iff, Int.not_lt]

theorem ult_iff (a b : Word) : a.ult b = true ↔ a.toNat < b.toNat := by
  simp [BitVec.ult]

theorem not_ult_iff (a b : Word) : (!a.ult b) = true ↔ b.toNat ≤ a.toNat := by
  rw [Bool.not_eq_true', ← Bool.not_eq_true, ult_iff, Nat.not_lt]

/-- A test that holds exactly where a decidable fact does. -/
theorem decide_of_iff {b : Bool} {p : Prop} [Decidable p] (h : b = true ↔ p) : b = decide p := by
  rw [Bool.eq_iff_iff, decide_eq_true_iff, h]

/-- Every register-register word of the table is the model's `aluOp` of an operation with the table's results (R53, R54). -/
theorem aluRegister_op : ∀ x ∈ aluRegisterTable, ∃ op : Word → Word → Word,
    (∀ f s, exec (x.1 f) s = aluOp f op s) ∧ ∀ a b, op a b = x.2 a b := by
  simp only [aluRegisterTable, List.forall_mem_cons]
  exact ⟨⟨fun a b => a + b, fun _ _ => rfl, fun _ _ => rfl⟩, ⟨fun a b => a - b, fun _ _ => rfl, fun _ _ => rfl⟩,
    ⟨fun a b => a &&& b, fun _ _ => rfl, fun _ _ => rfl⟩, ⟨fun a b => a ||| b, fun _ _ => rfl, fun _ _ => rfl⟩,
    ⟨fun a b => a ^^^ b, fun _ _ => rfl, fun _ _ => rfl⟩, ⟨fun a b => a &&& ~~~b, fun _ _ => rfl, fun _ _ => rfl⟩,
    ⟨fun a b => a <<< amount b, fun _ _ => rfl, fun a b => congrArg (a <<< ·) (amount_eq b)⟩,
    ⟨fun a b => a >>> amount b, fun _ _ => rfl, fun a b => congrArg (a >>> ·) (amount_eq b)⟩,
    ⟨fun a b => a.sshiftRight (amount b), fun _ _ => rfl, fun a b => congrArg a.sshiftRight (amount_eq b)⟩,
    ⟨fun a b => a.rotateLeft (amount b), fun _ _ => rfl, fun a b => congrArg a.rotateLeft (amount_eq b)⟩,
    ⟨fun a b => a * b, fun _ _ => rfl, mul_eq_ofNat⟩,
    ⟨fun a b => BitVec.ofInt 64 (a.toInt * b.toInt / 2 ^ 64), fun _ _ => rfl, fun _ _ => rfl⟩,
    ⟨fun a b => BitVec.ofNat 64 (a.toNat * b.toNat / 2 ^ 64), fun _ _ => rfl, fun _ _ => rfl⟩,
    ⟨divSigned, fun _ _ => rfl, fun _ _ => rfl⟩, ⟨divUnsigned, fun _ _ => rfl, divUnsigned_eq⟩,
    ⟨remSigned, fun _ _ => rfl, remSigned_eq⟩, ⟨remUnsigned, fun _ _ => rfl, remUnsigned_eq⟩,
    ⟨fun a b => oneIf (a == b), fun _ _ => rfl, fun _ _ => oneIf_eq beq_iff_eq⟩,
    ⟨fun a b => oneIf (!(a == b)), fun _ _ => rfl, oneIf_ne⟩,
    ⟨fun a b => oneIf (a.slt b), fun _ _ => rfl, fun a b => oneIf_eq (slt_iff a b)⟩,
    ⟨fun a b => oneIf (!a.slt b), fun _ _ => rfl, fun a b => oneIf_eq (not_slt_iff a b)⟩,
    ⟨fun a b => oneIf (a.ult b), fun _ _ => rfl, fun a b => oneIf_eq (ult_iff a b)⟩,
    ⟨fun a b => oneIf (!a.ult b), fun _ _ => rfl, fun a b => oneIf_eq (not_ult_iff a b)⟩,
    ⟨fun a b => if a.slt b then a else b, fun _ _ => rfl, fun a b => by simp only [slt_iff]⟩,
    ⟨fun a b => if a.slt b then b else a, fun _ _ => rfl, fun a b => by simp only [slt_iff]⟩,
    ⟨fun a b => if a.ult b then a else b, fun _ _ => rfl, fun a b => by simp only [ult_iff]⟩,
    ⟨fun a b => if a.ult b then b else a, fun _ _ => rfl, fun a b => by simp only [ult_iff]⟩, nofun⟩

/-- Every immediate word of the table is the model's `aluImm` of an operation with the table's results (R55, R56). -/
theorem aluImmediate_op : ∀ x ∈ aluImmediateTable, ∀ f : FmtSI, ∃ op : Word → Word,
    (∀ s, exec (x.1 f) s = aluImm f op s) ∧ ∀ a, op a = x.2 a f.imm := by
  simp only [aluImmediateTable, List.forall_mem_cons]
  exact ⟨fun f => ⟨fun a => a + f.imm.signExtend 64, fun _ => rfl, fun _ => rfl⟩,
    fun f => ⟨fun a => a &&& f.imm.zeroExtend 64, fun _ => rfl, fun _ => rfl⟩,
    fun f => ⟨fun a => a ||| f.imm.zeroExtend 64, fun _ => rfl, fun _ => rfl⟩,
    fun f => ⟨fun a => a ^^^ f.imm.zeroExtend 64, fun _ => rfl, fun _ => rfl⟩,
    fun f => ⟨fun a => a <<< immAmount f, fun _ => rfl, fun a => congrArg (a <<< ·) (immAmount_eq f)⟩,
    fun f => ⟨fun a => a >>> immAmount f, fun _ => rfl, fun a => congrArg (a >>> ·) (immAmount_eq f)⟩,
    fun f => ⟨fun a => a.sshiftRight (immAmount f), fun _ => rfl, fun a => congrArg a.sshiftRight (immAmount_eq f)⟩,
    fun f => ⟨fun a => a.rotateLeft (immAmount f), fun _ => rfl, fun a => congrArg a.rotateLeft (immAmount_eq f)⟩, nofun⟩

/-- Every branch of the table is the model's `branch` on a condition that holds when the table says so (R63). -/
theorem branch_cond : ∀ x ∈ branchTable, ∃ cond : Word → Word → Bool,
    (∀ f s, exec (x.1 f) s = branch f cond s) ∧ ∀ a b, cond a b = x.2 a b := by
  simp only [branchTable, List.forall_mem_cons]
  exact ⟨⟨fun a b => a == b, fun _ _ => rfl, fun _ _ => Bool.eq_iff_iff.mpr (by simp)⟩,
    ⟨fun a b => a != b, fun _ _ => rfl, fun _ _ => Bool.eq_iff_iff.mpr (by simp)⟩,
    ⟨fun a b => a.slt b, fun _ _ => rfl, fun a b => decide_of_iff (slt_iff a b)⟩,
    ⟨fun a b => !a.slt b, fun _ _ => rfl, fun a b => decide_of_iff (not_slt_iff a b)⟩,
    ⟨fun a b => a.ult b, fun _ _ => rfl, fun a b => decide_of_iff (ult_iff a b)⟩,
    ⟨fun a b => !a.ult b, fun _ _ => rfl, fun a b => decide_of_iff (not_ult_iff a b)⟩, nofun⟩

/-! ## Counts of bits (R53) -/

/-- The leading zero bits of a value are as many as `leadingZeros` says. -/
theorem leadingZeros_spec (a : Word) :
    leadingZeros a ≤ 64 ∧ (∀ k < leadingZeros a, a.getLsbD (63 - k) = false) ∧ (leadingZeros a < 64 → a.getLsbD (63 - leadingZeros a) = true) := by
  unfold leadingZeros
  split
  · next h => simp [h]
  · next h =>
    have hne : a.toNat ≠ 0 := fun e => h (BitVec.eq_of_toNat_eq e)
    have hlog : a.toNat.log2 < 64 := (Nat.log2_lt hne).mpr a.isLt
    refine ⟨by omega, fun k hk => ?_, fun _ => ?_⟩
    · exact Nat.testBit_lt_two_pow ((Nat.log2_lt hne).mp (by omega))
    · rw [show 63 - (63 - a.toNat.log2) = a.toNat.log2 by omega]
      exact Nat.testBit_log2 hne

/-- The trailing zero bits of a value are as many as `trailingZeros` says: `find?` stops at the lowest bit that is set. -/
theorem trailingZeros_spec (a : Word) :
    trailingZeros a ≤ 64 ∧ (∀ k < trailingZeros a, a.getLsbD k = false) ∧ (trailingZeros a < 64 → a.getLsbD (trailingZeros a) = true) := by
  unfold trailingZeros
  cases h : (List.range 64).find? (fun i => a.getLsbD i) with
  | none =>
    rw [List.find?_range_eq_none] at h
    exact ⟨Nat.le_refl _, fun k hk => by simpa using h k hk, fun hlt => absurd hlt (Nat.lt_irrefl _)⟩
  | some n =>
    rw [List.find?_range_eq_some] at h
    obtain ⟨hbit, hmem, hlow⟩ := h
    exact ⟨Nat.le_of_lt (List.mem_range.mp hmem), fun k hk => by simpa using hlow k hk, fun _ => hbit⟩

theorem onesCount_eq (a : Word) : onesCount a = (List.range 64).countP (fun k => a.getLsbD k) :=
  List.countP_eq_length_filter.symm

/-! ## Words with a body of their own -/

/-- A ready word that needs no privilege does what its body does. -/
theorem State.scalar_user_ready {s : State} {srcs : List Source} {dsts : List (BitVec 5)} {body : State → State} (h : Ready s srcs dsts) :
    s.scalar false srcs dsts body = .next (body s) := State.scalar_ready h (fun hp => absurd hp Bool.false_ne_true)

/-- What a change of the current thread makes of it is all that the change says. -/
theorem State.mod_congr {s : State} {f g : Thread → Thread} (h : f s.cur = g s.cur) : s.mod f = s.mod g := by
  unfold State.mod
  rw [h]

theorem exec_clz (f : FmtSR) (s : State) : exec (.clz f) s = aluUnary f (fun a => BitVec.ofNat 64 (leadingZeros a)) s := rfl

theorem exec_ctz (f : FmtSR) (s : State) : exec (.ctz f) s = aluUnary f (fun a => BitVec.ofNat 64 (trailingZeros a)) s := rfl

theorem exec_popc (f : FmtSR) (s : State) : exec (.popc f) s = aluUnary f (fun a => BitVec.ofNat 64 (onesCount a)) s := rfl

theorem exec_ldhi (f : FmtSU) (s : State) : exec (.ldhi f) s = execLdhi f s := rfl

theorem exec_addpc (f : FmtSU) (s : State) : exec (.addpc f) s = execAddpc f s := rfl

theorem exec_jal (f : FmtSJ) (s : State) : exec (.jal f) s = execJal f s := rfl

/-! ## Upper immediates and targets (R57, R63, R64) -/

/-- The immediate of ldhi and addpc stands 15 bits up. -/
theorem shiftLeft_fifteen (x : Word) : x <<< 15 = x * 32768 := by
  rw [BitVec.shiftLeft_eq_mul_twoPow]
  rfl

/-- An offset in words is four times as many bytes. -/
theorem shiftLeft_two (x : Word) : x <<< 2 = x * 4 := by
  rw [BitVec.shiftLeft_eq_mul_twoPow]
  rfl

/-- A branch of a ready word goes where its condition says, and writes nothing else. -/
theorem branch_ready {f : FmtSB} {cond : Word → Word → Bool} {s : State} (h : Ready s [(f.ga, f.strict, 0), (f.gb, f.strict, 1)] []) :
    branch f cond s = .next (s.mod (fun t =>
      { t with pc := if cond (t.gread f.ga) (t.gread f.gb) then t.pc + (f.offset.signExtend 64 <<< 2) else t.pc + 4 })) :=
  State.scalar_user_ready h

/-! ## jalr (R65) -/

/-- A target is misaligned where it is no multiple of 4. -/
theorem lowBits_ne_zero_iff (x : Word) : x.extractLsb' 0 2 ≠ 0 ↔ x.toNat % 4 ≠ 0 := by
  rw [ne_eq, ne_eq, ← BitVec.toNat_inj]
  simp

/-- jalr to an aligned target (R65). -/
theorem execJalr_aligned {f : FmtSI} {s : State} (h : Ready s [(f.ga, f.sa, 0)] [f.gd])
    (ht : (s.cur.gread f.ga + f.imm.signExtend 64).toNat % 4 = 0) :
    execJalr f s = .next (s.mod (fun t => { t.gwrite f.gd (t.pc + 4) with pc := t.gread f.ga + f.imm.signExtend 64 })) := by
  rw [execJalr, State.scalar_user_ready h]
  exact congrArg _ (if_neg (fun hne => (lowBits_ne_zero_iff _).mp hne ht))

/-- jalr to another target traps once nothing is queued (R65, R311). -/
theorem execJalr_misaligned {f : FmtSI} {s : State} (h : Ready s [(f.ga, f.sa, 0)] [f.gd])
    (ht : (s.cur.gread f.ga + f.imm.signExtend 64).toNat % 4 ≠ 0) (hq : s.cur.queue = []) :
    execJalr f s = .next (trapped s 0x47 (s.cur.gread f.ga + f.imm.signExtend 64) (einfoScalar 2 false true s.cur.user 0)) := by
  rw [execJalr, State.scalar_user_ready h]
  exact congrArg _ ((if_pos ((lowBits_ne_zero_iff _).mpr ht)).trans (State.issueTrap_nil hq ..))

end Sys2Proof.Machine

namespace Sys2Proof.Proofs

open Sys2Proof.Machine Sys2Proof.Safety

/-- Settles O3, by computing the decoder on each word. -/
theorem decodeWords : Obligations.DecodeWords := by
  unfold Obligations.DecodeWords
  exact ⟨rfl, rfl, rfl, rfl, rfl, rfl, rfl, rfl, rfl⟩

/-- Settles O9: the model's operation gives the table's results, and a ready word writes them. -/
theorem aluRegisterResults : Obligations.AluRegisterResults := by
  unfold Obligations.AluRegisterResults
  intro x hx f s h
  obtain ⟨op, hexec, hop⟩ := aluRegister_op x hx
  rw [hexec, aluOp_ready h]
  simp only [hop]

/-- Settles O10: each count of the model is the number of bits that it stands for. -/
theorem aluUnaryResults : Obligations.AluUnaryResults := by
  unfold Obligations.AluUnaryResults
  intro f s h
  obtain ⟨hclz, hclzZeros, hclzOne⟩ := leadingZeros_spec (s.cur.gread f.ga)
  obtain ⟨hctz, hctzZeros, hctzOne⟩ := trailingZeros_spec (s.cur.gread f.ga)
  refine ⟨⟨_, hclz, hclzZeros, hclzOne, ?_⟩, ⟨_, hctz, hctzZeros, hctzOne, ?_⟩, ?_⟩
  · rw [exec_clz, aluUnary_ready h]
    exact congrArg _ (State.mod_congr rfl)
  · rw [exec_ctz, aluUnary_ready h]
    exact congrArg _ (State.mod_congr rfl)
  · simp only [← onesCount_eq]
    exact (exec_popc f s).trans (aluUnary_ready h)

/-- Settles O11: as O9, with the immediate as the second operand. -/
theorem aluImmediateResults : Obligations.AluImmediateResults := by
  unfold Obligations.AluImmediateResults
  refine ⟨fun x hx f s h => ?_, fun f s h => ?_⟩
  · obtain ⟨op, hexec, hop⟩ := aluImmediate_op x hx f
    rw [hexec, aluImm_ready h]
    simp only [hop]
  · simp only [← shiftLeft_fifteen]
    exact ⟨(exec_ldhi f s).trans (State.scalar_user_ready h), (exec_addpc f s).trans (State.scalar_user_ready h)⟩

/-- Settles O12: the model's condition is the table's. -/
theorem branchResults : Obligations.BranchResults := by
  unfold Obligations.BranchResults
  intro x hx f s h
  obtain ⟨cond, hexec, hcond⟩ := branch_cond x hx
  rw [hexec, branch_ready h]
  simp only [hcond, shiftLeft_two]

/-- Settles O13. -/
theorem jumpResults : Obligations.JumpResults := by
  unfold Obligations.JumpResults
  refine ⟨fun f s h => ?_, fun f s h ht => execJalr_aligned h ht, fun f s h ht hq => execJalr_misaligned h ht hq⟩
  simp only [← shiftLeft_two]
  exact (exec_jal f s).trans (State.scalar_user_ready h)

/-- Settles O58: the reset state, read field by field; what stands in a vector of registers or engines is the same at every place. -/
theorem resetValues : Obligations.ResetValues := by
  unfold Obligations.ResetValues
  refine ⟨rfl, rfl, rfl, rfl, rfl, rfl, fun q => ?_, rfl, rfl, rfl, rfl, rfl, rfl, fun r => ?_, fun r => ?_, fun p => rfl, rfl, rfl⟩
  · exact congrArg Stream.kind (Vector.getElem_replicate (a := Stream.unboundReset) (Nat.mod_lt q (by decide)))
  · unfold Thread.gread
    split
    · rfl
    · exact Vector.getElem_replicate (a := (0 : Word)) r.isLt
  · exact congrArg Ring.state (Vector.getElem_replicate (a := Ring.off) (Nat.mod_lt r (by decide)))

end Sys2Proof.Proofs
end

section
/-!
PROOF. Scalar loads and stores (R58 to R62): what a write leaves, what a ready access that reaches its bytes does, and the checks that stop
one in their order.
-/
namespace Sys2Proof.Machine

open Sys2Proof.Safety

/-! ## A write by software -/

/-- Spoiling rings changes which bytes are unpredictable and the rings alone (R233). -/
theorem State.spoilRings_eq (s : State) (pa n : Nat) :
    s.spoilRings pa n = { s with wild := (s.spoilRings pa n).wild, rings := (s.spoilRings pa n).rings } := by
  have hwild : ∀ (l : List (Nat × Nat)) (t : State), l.foldl (fun s w => s.addWild w.1 w.2) t =
      { t with wild := (l.foldl (fun s w => s.addWild w.1 w.2) t).wild } := by
    intro l
    induction l with
    | nil => exact fun _ => rfl
    | cons w l ih =>
      intro t
      rw [List.foldl_cons, ih, State.addWild_eq]
  unfold State.spoilRings
  split
  · dsimp only
    rw [hwild]
  · rfl

/-- A write by software changes memory, the errors and the unpredictable bytes there, landed data of the thread's streams and the rings
(R157, R166, R233). -/
theorem State.write_eq (s : State) (pa : Nat) (bs : List Byte) :
    s.write pa bs =
      { s with
        mem := s.mem.write pa bs, poison := (s.put pa bs).poison, wild := (s.write pa bs).wild, rings := (s.write pa bs).rings
        cur := { s.cur with q := s.cur.q.map (Stream.dropOver pa bs.length) } } := by
  unfold State.write
  rw [State.spoilRings_eq]
  rfl

@[simp] theorem State.write_mem (s : State) (pa : Nat) (bs : List Byte) : (s.write pa bs).mem = s.mem.write pa bs := by
  rw [State.write_eq]

@[simp] theorem State.write_cur (s : State) (pa : Nat) (bs : List Byte) :
    (s.write pa bs).cur = { s.cur with q := s.cur.q.map (Stream.dropOver pa bs.length) } := by
  rw [State.write_eq]

/-- A write of fewer than 32 bytes corrects no error (R157). -/
theorem State.write_poison_short {s : State} {pa : Nat} {bs : List Byte} (h : bs.length < 32) : (s.write pa bs).poison = s.poison := by
  rw [State.write_eq, State.put_short h]

/-! ## Bytes of a value -/

/-- Byte k of a value (R5). -/
theorem getElem_leBytes : ∀ (n x k : Nat) (h : k < (leBytes n x).length), (leBytes n x)[k] = BitVec.ofNat 8 (x / 256 ^ k)
  | n + 1, x, 0, _ => by simp [leBytes]
  | n + 1, x, k + 1, h => by
    have hk : k < (leBytes n (x / 256)).length := by simpa [leBytes] using h
    simp only [leBytes, List.getElem_cons_succ]
    rw [getElem_leBytes n (x / 256) k hk, Nat.div_div_eq_div_mul, Nat.pow_succ']

/-- The number that n bytes hold is below 256 to the n. -/
theorem leNat_lt : ∀ bs : List Byte, leNat bs < 2 ^ (8 * bs.length)
  | [] => by simp [leNat]
  | b :: bs => by
    have h := leNat_lt bs
    have hb := b.isLt
    rw [leNat, List.length_cons, Nat.mul_succ, Nat.pow_add]
    omega

theorem Memory.num_lt (m : Memory) (a n : Nat) : m.num a n < 2 ^ (8 * n) := by
  simpa [Memory.num] using leNat_lt (m.bytes a n)

/-! ## Extensions of a loaded number (R58) -/

/-- A number of n bytes below the register's width, zero-extended, is itself. -/
theorem zeroExtend_ofNat {w x : Nat} (hx : x < 2 ^ w) : (BitVec.ofNat w x).zeroExtend 64 = BitVec.ofNat 64 x := by
  apply BitVec.eq_of_toNat_eq
  simp [Nat.mod_eq_of_lt hx]

/-- The model's sign extension is that of bit vectors. -/
theorem sextFrom_eq {w : Nat} (x : Nat) : sextFrom w x = (BitVec.ofNat w x).signExtend 64 := by
  rw [sextFrom, signedOf, BitVec.signExtend, BitVec.toInt_eq_toNat_cond]
  simp

/-! ## Loads and stores of ready words -/

/-- What a check of a scalar access leaves of the thread. -/
theorem scalarCheck_cur {s s1 : State} {c : Ctx} {va n : Nat} {need : Need} {r : Except ScalarFail (Nat × Leaf)}
    (h : s.scalarCheck c va n need = (r, s1)) : s1.cur = s.cur := by
  rw [State.scalarCheck_eq h]

/-- A ready load that reaches its bytes (R58, R59). -/
theorem scalarLoad_reaches {f : FmtSI} {size : Nat} {ext : Nat → Word} {s s1 : State} {pa : Nat} {l : Leaf}
    (h : Ready s [(f.ga, f.sa, 0)] [f.gd]) (hr : Reaches s (effAddr f s.cur) size Need.load pa l s1)
    (hw : (accessed s s1 (effAddr f s.cur) l false pa).wild = []) :
    scalarLoad f size ext s = .next ((accessed s s1 (effAddr f s.cur) l false pa).mod (fun t =>
      (t.gwrite f.gd (ext ((accessed s s1 (effAddr f s.cur) l false pa).mem.num pa size))).next)) := by
  rw [scalarLoad, State.scalar_user_ready h, State.scalarAccess, State.scalarAccessIf_reaches hr rfl]
  rw [show Need.load.write = false from rfl, State.read_tame hw]
  rfl

/-- A ready store that reaches its bytes (R58, R59). -/
theorem scalarStore_reaches {f : FmtSI} {size : Nat} {s s1 : State} {pa : Nat} {l : Leaf}
    (h : Ready s [(f.ga, f.sa, 0)] [f.gd]) (hr : Reaches s (effAddr f s.cur) size Need.store pa l s1) :
    scalarStore f size s =
      .next (((accessed s s1 (effAddr f s.cur) l true pa).write pa (leBytes size (s.cur.gread f.gd).toNat)).mod Thread.next) := by
  rw [scalarStore, State.scalar_user_ready h, State.scalarAccess, State.scalarAccessIf_reaches hr rfl]
  rw [show Need.store.write = true from rfl, accessed_cur, scalarCheck_cur hr.checks]

/-- The state in which an access is made keeps memory canonical. -/
theorem wellFormed_accessed {s s1 : State} {ea : Word} {l : Leaf} {w : Bool} {pa : Nat} (h : wellFormed s1) :
    wellFormed (accessed s s1 ea l w pa) :=
  ((kept_touch s1 s.cur.ctx ea.toNat l w).trans (kept_noteAccess _ pa)).canonical h

/-- Every load of the table is the model's `scalarLoad` with an extension that gives the table's on what memory can hold (R58). -/
theorem load_ext : ∀ x ∈ loadTable, ∃ ext : Nat → Word,
    (∀ f s, exec (x.1 f) s = scalarLoad f x.2.1 ext s) ∧ ∀ n < 2 ^ (8 * x.2.1), ext n = x.2.2 n := by
  simp only [loadTable, List.forall_mem_cons]
  exact ⟨⟨BitVec.ofNat 64, fun _ _ => rfl, fun _ _ => rfl⟩,
    ⟨sextFrom 32, fun _ _ => rfl, fun n _ => sextFrom_eq n⟩, ⟨BitVec.ofNat 64, fun _ _ => rfl, fun n h => (zeroExtend_ofNat h).symm⟩,
    ⟨sextFrom 16, fun _ _ => rfl, fun n _ => sextFrom_eq n⟩, ⟨BitVec.ofNat 64, fun _ _ => rfl, fun n h => (zeroExtend_ofNat h).symm⟩,
    ⟨sextFrom 8, fun _ _ => rfl, fun n _ => sextFrom_eq n⟩, ⟨BitVec.ofNat 64, fun _ _ => rfl, fun n h => (zeroExtend_ofNat h).symm⟩, nofun⟩

/-- Every store of the table is the model's `scalarStore`, of at most 8 bytes (R58). -/
theorem store_size : ∀ x ∈ storeTable, (∀ f s, exec (x.1 f) s = scalarStore f x.2 s) ∧ x.2 ≤ 8 := by
  simp only [storeTable, List.forall_mem_cons]
  exact ⟨⟨fun _ _ => rfl, by decide⟩, ⟨fun _ _ => rfl, by decide⟩, ⟨fun _ _ => rfl, by decide⟩, ⟨fun _ _ => rfl, by decide⟩, nofun⟩

/-! ## An access that fails a check, with nothing queued (R59) -/

section Failing

variable {s : State} {ea : Word} {size : Nat} {need : Need} {store : Bool} {extra : State → Nat → Option ScalarFail}
  {body : State → Nat → State}

/-- The trap of a failing access with nothing queued: EADDR its address, EINFO as R60 lays out. -/
theorem State.accessTrap_nil (hq : s.cur.queue = []) (f : ScalarFail) :
    s.accessTrap f ea size store = trapped s f.1 ea (einfoScalar (sizeCode size) store false s.cur.user f.2) :=
  State.issueTrap_nil hq ..

/-- With nothing queued no older entry may touch memory. -/
theorem Thread.memoryClear_nil {t : Thread} (hq : t.queue = []) : t.memoryClear = true := by
  simp [Thread.memoryClear, Thread.waited, hq]

/-- An address that is no multiple of the size. -/
theorem State.scalarAccess_misaligned (hq : s.cur.queue = []) (ha : ea.toNat % size ≠ 0) :
    s.scalarAccess ea size need store extra body = trapped s 0x47 ea (einfoScalar (sizeCode size) store false s.cur.user 0) := by
  simp only [State.scalarAccess, State.scalarAccessIf, Thread.memoryClear_nil hq, State.accessTrap_nil hq, Bool.not_true, Bool.false_eq_true,
    if_false, if_pos ha]

/-- A check that fails, where no copy of the thread may heal what it found (R178). -/
theorem State.scalarAccess_fails {cause : BitVec 8} {level : Nat} (hq : s.cur.queue = []) (ha : ea.toNat % size = 0)
    (hc : s.scalarCheck s.cur.ctx ea.toNat size need = (.error (cause, level), s))
    (hh : cause = 0x07 → s.copyAhead s.cur.ctx ea.toNat size need.write = false) :
    s.scalarAccess ea size need store extra body = trapped s cause ea (einfoScalar (sizeCode size) store false s.cur.user level) := by
  have hwait : ¬(cause = 0x07 ∧ s.copyAhead s.cur.ctx ea.toNat size need.write = true) := fun h => by simp [hh h.1] at h
  simp only [State.scalarAccess, State.scalarAccessIf, Thread.memoryClear_nil hq, State.accessTrap_nil hq, hc, ha, ne_eq, not_true_eq_false,
    Bool.not_true, Bool.false_eq_true, if_false, if_neg hwait]

end Failing

/-! ## The checks in their order -/

/-- Where no TLB entry matches, the tables are walked (R321). -/
theorem State.translate_walk {s : State} {c : Ctx} {va : Nat} (h : s.tlbHit c va = none) : s.translate c va = s.walk c va := by
  rw [State.translate, h]

section Checks

variable {s : State} {c : Ctx} {va n : Nat} {need : Need}

theorem State.scalarCheck_invalid {level : Nat} (h : s.translate c va = .invalid level) :
    s.scalarCheck c va n need = (.error (0x4D, level), s) := by
  rw [State.scalarCheck, h]

theorem State.scalarCheck_unreadable (h : s.translate c va = .refused) : s.scalarCheck c va n need = (.error (0x4E, 0), s) := by
  rw [State.scalarCheck, h]

variable {l : Leaf}

theorem State.scalarCheck_refused (h : s.translate c va = .leaf l) (hr : (s.refusal c l (l.pa va) need).isSome = true) :
    s.scalarCheck c va n need = (.error (0x4E, 0), s) := by
  rw [State.scalarCheck, h]
  exact if_pos hr

theorem State.scalarCheck_formatted (h : s.translate c va = .leaf l) (hr : (s.refusal c l (l.pa va) need).isSome = false)
    (hf : (leafBit l.word 13 || (s.regionAt (l.pa va)).isSome) = true) : s.scalarCheck c va n need = (.error (0x0D, 0), s) := by
  rw [State.scalarCheck, h]
  exact (if_neg (by simp [hr])).trans (if_pos hf)

theorem State.scalarCheck_poisoned (h : s.translate c va = .leaf l) (hr : (s.refusal c l (l.pa va) need).isSome = false)
    (hf : (leafBit l.word 13 || (s.regionAt (l.pa va)).isSome) = false) (hn : need.read = true)
    (hp : s.poisoned (l.pa va / 128 * 128) 128 = true) : s.scalarCheck c va n need = (.error (0x07, 0), s) := by
  rw [State.scalarCheck, h]
  exact (if_neg (by simp [hr])).trans ((if_neg (by simp [hf])).trans (if_pos (by simp [hn, hp])))

end Checks

/-- The leaf refuses a load or a store: the bit that it needs is clear, U is clear in user mode, its key slot is not the partition's, or the
vault window is shut (R59, R160, R318). -/
theorem State.refusal_isSome_iff {s : State} {c : Ctx} {l : Leaf} {pa : Nat} {need : Need} (hn : need = Need.load ∨ need = Need.store) :
    (s.refusal c l pa need).isSome = true ↔
      (need.read = true ∧ leafBit l.word 2 = false) ∨ (need.write = true ∧ leafBit l.word 3 = false) ∨ (c.user = true ∧ leafBit l.word 5 = false) ∨
        s.keyValid c.part (leafKey l.word) = false ∨ (inAperture pa = true ∧ s.vaultOpen c.part pa = false) := by
  unfold State.refusal
  obtain rfl | rfl := hn
  · grind [Need.load]
  · grind [Need.store]

/-- Every row of the table is the model's load or store of its size, with what it needs of its page and its bit in EINFO (R58 to R60). -/
theorem access_meaning : ∀ x ∈ accessTable, (x.2.2.1 = Need.load ∨ x.2.2.1 = Need.store) ∧ ∀ f, ∃ body : State → Nat → State,
    ∀ s, exec (x.1 f) s = s.scalar false [(f.ga, f.sa, 0)] [f.gd] (fun s =>
      s.scalarAccess (effAddr f s.cur) x.2.1 x.2.2.1 x.2.2.2 noExtra body) := by
  simp only [accessTable, List.forall_mem_cons]
  exact ⟨⟨.inl trivial, fun _ => ⟨_, fun _ => rfl⟩⟩, ⟨.inl trivial, fun _ => ⟨_, fun _ => rfl⟩⟩, ⟨.inl trivial, fun _ => ⟨_, fun _ => rfl⟩⟩,
    ⟨.inl trivial, fun _ => ⟨_, fun _ => rfl⟩⟩, ⟨.inl trivial, fun _ => ⟨_, fun _ => rfl⟩⟩, ⟨.inl trivial, fun _ => ⟨_, fun _ => rfl⟩⟩,
    ⟨.inl trivial, fun _ => ⟨_, fun _ => rfl⟩⟩, ⟨.inr trivial, fun _ => ⟨_, fun _ => rfl⟩⟩, ⟨.inr trivial, fun _ => ⟨_, fun _ => rfl⟩⟩,
    ⟨.inr trivial, fun _ => ⟨_, fun _ => rfl⟩⟩, ⟨.inr trivial, fun _ => ⟨_, fun _ => rfl⟩⟩, nofun⟩

end Sys2Proof.Machine

namespace Sys2Proof.Proofs

open Sys2Proof.Machine Sys2Proof.Safety

/-- Settles O14: a load that reaches its bytes gives them to its extension, which is the table's on a number of so many bytes. -/
theorem scalarLoadResults : Obligations.ScalarLoadResults := by
  unfold Obligations.ScalarLoadResults
  intro x hx f s s1 pa l h hr u hw
  obtain ⟨ext, hexec, hext⟩ := load_ext x hx
  rw [hexec, scalarLoad_reaches h hr hw, hext _ (Memory.num_lt ..)]
  rfl

/-- Settles O15: a store is a write of the register's low bytes in the state in which the access is made. -/
theorem scalarStoreResults : Obligations.ScalarStoreResults := by
  unfold Obligations.ScalarStoreResults
  intro x hx f s s1 pa l hwf h hr
  obtain ⟨hexec, hsize⟩ := store_size x hx
  have hmem : (accessed s s1 (effAddr f s.cur) l true pa).mem.wf = true :=
    wellFormed_accessed ((canon_scalarCheck hr.checks).keeps hwf)
  refine ⟨_, (hexec f s).trans (scalarStore_reaches h hr), fun k hk => ?_, fun a ha => ?_, ?_, ?_⟩
  · rw [State.mod_mem, State.write_mem, Memory.get_write_inside _ _ _ _ (by simpa using hk) hmem, getElem_leBytes]
  · rw [State.mod_mem, State.write_mem, Memory.get_write_outside _ _ _ _ hmem (by simpa using ha)]
    rfl
  · rw [State.mod_cur, State.write_cur, accessed_cur, scalarCheck_cur hr.checks, length_leBytes]
    rfl
  · rw [State.mod_poison, State.write_poison_short (by simp; omega)]
    rfl

/-- Settles O17: with nothing queued the access takes the trap of the first check that fails. -/
theorem scalarAccessTraps : Obligations.ScalarAccessTraps := by
  unfold Obligations.ScalarAccessTraps
  intro x hx f s h hq ea info
  obtain ⟨hneed, hmeaning⟩ := access_meaning x hx
  obtain ⟨body, hexec⟩ := hmeaning f
  have hrun : exec (x.1 f) s = .next (s.scalarAccess ea x.2.1 x.2.2.1 x.2.2.2 noExtra body) := (hexec s).trans (State.scalar_user_ready h)
  refine ⟨fun ha => ?_, fun ha ht => ⟨fun level hwalk => ?_, fun hlow hkey => ?_, fun l hwalk => ?_⟩⟩
  · rw [hrun, State.scalarAccess_misaligned hq ha]
  · rw [hrun, State.scalarAccess_fails hq ha (State.scalarCheck_invalid ((State.translate_walk ht).trans hwalk)) (fun e => absurd e (by decide))]
  · have hwalk : s.walk s.cur.ctx ea.toNat = .refused := by
      have hkey' : s.keyValid s.cur.ctx.part s.cur.ctx.key = false := hkey
      rw [State.walk, if_neg (Nat.not_le.mpr hlow), hkey']
      rfl
    rw [hrun, State.scalarAccess_fails hq ha (State.scalarCheck_unreadable ((State.translate_walk ht).trans hwalk)) (fun e => absurd e (by decide))]
  · intro pa refused formatted
    have htr : s.translate s.cur.ctx ea.toNat = .leaf l := (State.translate_walk ht).trans hwalk
    have hrefuse : (s.refusal s.cur.ctx l pa x.2.2.1).isSome = true ↔ refused := State.refusal_isSome_iff hneed
    have hformat : (leafBit l.word 13 || (s.regionAt pa).isSome) = true ↔ formatted := by simp [formatted]
    refine ⟨fun hr => ?_, fun hr hf => ?_, fun hr hf hread hpoison hcopy => ?_⟩
    · rw [hrun, State.scalarAccess_fails hq ha (State.scalarCheck_refused htr (hrefuse.mpr hr)) (fun e => absurd e (by decide))]
    · have hr' : (s.refusal s.cur.ctx l pa x.2.2.1).isSome = false := by simpa using mt hrefuse.mp hr
      rw [hrun, State.scalarAccess_fails hq ha (State.scalarCheck_formatted htr hr' (hformat.mpr hf)) (fun e => absurd e (by decide))]
    · have hr' : (s.refusal s.cur.ctx l pa x.2.2.1).isSome = false := by simpa using mt hrefuse.mp hr
      have hf' : (leafBit l.word 13 || (s.regionAt pa).isSome) = false := Bool.eq_false_iff.mpr (mt hformat.mp hf)
      have hwrite : x.2.2.1.write = false := by
        obtain e | e := hneed
        · rw [e]; rfl
        · rw [e] at hread; cases hread
      have hahead : s.copyAhead s.cur.ctx ea.toNat x.2.1 x.2.2.1.write = false := by
        rw [State.copyAhead, htr, hwrite]
        exact hcopy
      rw [hrun, State.scalarAccess_fails hq ha (State.scalarCheck_poisoned htr hr' hf' hread hpoison) (fun _ => hahead)]

end Sys2Proof.Proofs
end

section
/-!
PROOF. Special registers (R66 to R69, R305 to R307): what mfs reads and waits for, what mts writes, and the numbers that they refuse.
-/
namespace Sys2Proof.Machine

open Sys2Proof.Safety

/-! ## The waits of R69 -/

/-- With nothing queued every trim point is passed. -/
theorem Thread.trimPointsPassed_nil {t : Thread} (hq : t.queue = []) : t.trimPointsPassed = true := by
  simp [Thread.trimPointsPassed, Thread.waited, hq]

/-- An older entry that has dispatched is past its trim point (R89). -/
theorem Thread.trimPointsPassed_of {t : Thread} (h : ∀ e ∈ t.waited, e.isDone = true) : t.trimPointsPassed = true :=
  List.all_eq_true.mpr h

theorem Thread.drained_of {t : Thread} (h : t.waited = []) : t.drained = true := by
  rw [Thread.drained, h]
  rfl

/-! ## Values (R67, R78, R305 to R307) -/

/-- A field of VT is that of the register, whose bit 12 is ILL. -/
theorem Thread.vt12_field (t : Thread) {o w : Nat} (h : o + w ≤ 12) : t.vt12.extractLsb' o w = t.vt.extractLsb' o w := by
  ext i hi
  simp only [Thread.vt12, BitVec.getElem_extractLsb', BitVec.getLsbD_extractLsb', Nat.zero_add]
  simp [show o + i < 12 by omega]

/-- VLMAX as the fields of VT give it (R50, R73, R74). -/
theorem Thread.vlmax_eq (t : Thread) :
    t.vlmax = if t.vt.getLsbD 12 then 0
      else 1024 * t.lg * 2 ^ (t.vt.extractLsb' 10 2).toNat / typeWidth (t.vt.extractLsb' 0 5).toNat := by
  rw [Thread.vlmax, vlmaxOf, vtGroup, vtType, t.vt12_field (by decide), t.vt12_field (by decide)]
  rfl

/-- With nothing queued nothing decides ROWP but the register (R69). -/
theorem Thread.rowpNow_nil {t : Thread} (hq : t.queue = []) : t.rowpNow = t.rowp := by
  simp [Thread.rowpNow, Thread.pending, hq]

/-- With nothing queued VCP names nothing (R78). -/
theorem Thread.vcp_nil {t : Thread} (hq : t.queue = []) : t.vcp = 0 := by
  simp [Thread.vcp, Thread.vcpEntry, Thread.named, Thread.pending, hq, topLevel]

/-- MODE's bits (R306). -/
theorem Thread.mode_eq (t : Thread) : t.mode = BitVec.ofNat 64 (t.priv.toNat + 2 * t.ppriv.toNat + 4 * t.busy.toNat) := by
  unfold Thread.mode
  cases t.priv <;> cases t.ppriv <;> cases t.busy <;> rfl

/-- Every row of the table: what the model reads of the register, and that its wait is over (R67, R69). -/
theorem special_row : ∀ x ∈ specialTable, x.1 ≠ 0x030 ∧ ∀ s : State, x.2.2 s.cur →
    s.special x.1 = some (x.2.1 s.cur) ∧ s.cur.readReady x.1 = true := by
  simp only [specialTable, List.forall_mem_cons]
  refine ⟨⟨by decide, fun s h => ⟨rfl, Thread.trimPointsPassed_of h⟩⟩, ⟨by decide, fun s _ => ⟨rfl, rfl⟩⟩, ⟨by decide, fun s _ => ⟨?vlmax, rfl⟩⟩,
    ⟨by decide, fun s _ => ⟨rfl, rfl⟩⟩, ⟨by decide, fun s h => ⟨rfl, Thread.trimPointsPassed_of h⟩⟩,
    ⟨by decide, fun s h => ⟨rfl, Thread.trimPointsPassed_of h⟩⟩,
    ⟨by decide, fun s h => ⟨congrArg (fun x : BitVec 16 => some (x.zeroExtend 64)) (Thread.rowpNow_nil h), Thread.trimPointsPassed_nil h⟩⟩,
    ⟨by decide, fun s _ => ⟨rfl, rfl⟩⟩, ⟨by decide, fun s h => ⟨congrArg some (Thread.vcp_nil h), rfl⟩⟩,
    ⟨by decide, fun s h => ⟨rfl, Thread.drained_of h⟩⟩, ⟨by decide, fun s _ => ⟨rfl, rfl⟩⟩, ⟨by decide, fun s _ => ⟨rfl, rfl⟩⟩,
    ⟨by decide, fun s h => ⟨rfl, Thread.drained_of h⟩⟩, ⟨by decide, fun s h => ⟨rfl, Thread.drained_of h⟩⟩,
    ⟨by decide, fun s h => ⟨rfl, Thread.drained_of h⟩⟩, ⟨by decide, fun s h => ⟨rfl, Thread.drained_of h⟩⟩,
    ⟨by decide, fun s h => ⟨rfl, Thread.drained_of h⟩⟩, ⟨by decide, fun s _ => ⟨rfl, rfl⟩⟩, ⟨by decide, fun s _ => ⟨rfl, rfl⟩⟩,
    ⟨by decide, fun s _ => ⟨rfl, rfl⟩⟩, ⟨by decide, fun s _ => ⟨rfl, rfl⟩⟩, ⟨by decide, fun s _ => ⟨rfl, rfl⟩⟩,
    ⟨by decide, fun s _ => ⟨rfl, rfl⟩⟩, ⟨by decide, fun s _ => ⟨rfl, rfl⟩⟩, ⟨by decide, fun s _ => ⟨congrArg some s.cur.mode_eq, rfl⟩⟩,
    ⟨by decide, fun s _ => ⟨rfl, rfl⟩⟩, ⟨by decide, fun s _ => ⟨rfl, rfl⟩⟩, ⟨by decide, fun s _ => ⟨rfl, rfl⟩⟩,
    ⟨by decide, fun s _ => ⟨rfl, rfl⟩⟩, ⟨by decide, fun s _ => ⟨rfl, rfl⟩⟩, ⟨by decide, fun s _ => ⟨rfl, rfl⟩⟩, nofun⟩
  case vlmax =>
    refine congrArg some ?_
    rw [Thread.vlmax_eq]
    split <;> rfl

/-- QLAND of a stream register, by its number. -/
theorem State.special_qland (s : State) (k : Nat) (h : k < 8) : s.special (0x020 + k) = some (BitVec.ofNat 64 (s.qland s.cur.q[k])) := by
  have hk : k = 0 ∨ k = 1 ∨ k = 2 ∨ k = 3 ∨ k = 4 ∨ k = 5 ∨ k = 6 ∨ k = 7 := by omega
  obtain rfl | rfl | rfl | rfl | rfl | rfl | rfl | rfl := hk <;> rfl

/-- mfs of QLAND waits for nothing (R69). -/
theorem Thread.readReady_qland (t : Thread) {k : Nat} (h : k < 8) : t.readReady (0x020 + k) = true := by
  have hk : k = 0 ∨ k = 1 ∨ k = 2 ∨ k = 3 ∨ k = 4 ∨ k = 5 ∨ k = 6 ∨ k = 7 := by omega
  obtain rfl | rfl | rfl | rfl | rfl | rfl | rfl | rfl := hk <;> rfl

/-- Every entry that names no hold leaves the highest level at 0 (R309). -/
theorem topLevel_eq_zero : ∀ {l : List Entry}, (∀ e ∈ l, e.held = false) → topLevel l = 0
  | [], _ => rfl
  | e :: l, h => by
    have he : e.level = 0 := by simpa [Entry.held] using h e List.mem_cons_self
    rw [topLevel, topLevel_eq_zero (fun x hx => h x (List.mem_cons_of_mem e hx)), he]
    rfl

/-- The first element lies in the first group of any destination (R36). -/
theorem destGroup_zero (w : BitVec 32) (vt : BitVec 12) : (destGroup w vt 0).2 = 0 := by
  unfold destGroup
  dsimp only
  split
  all_goals try split
  all_goals simp

/-- VCP of the oldest entry, where nothing is held and nothing starts behind element 0 (R18, R78). -/
theorem Thread.vcp_oldest {t : Thread} {e : Entry} {rest : List Entry} (hq : t.queue = e :: rest) (hh : ∀ x ∈ t.queue, x.held = false)
    (hes : t.es = 0) (hf : isFrame e.word = false) (hr : e.running = none) :
    t.vcp = BitVec.ofNat 64 (e.seq.toNat + 2 ^ 16 * e.slot.toNat +
      2 ^ 24 * (match e.phase with | .done r => min r.reached (r.limit - 1) % 64 | .unstarted => 0) + 2 ^ 32) := by
  have hhe : e.held = false := hh e (by simp [hq])
  have htop : topLevel (e :: rest) = 0 := topLevel_eq_zero (hq ▸ hh)
  have hnamed : t.vcpEntry = some e := by
    simp [Thread.vcpEntry, Thread.named, htop, Thread.pending, hq, hhe, hf]
  have hgroup : e.groupReached 0 % 64 = match e.phase with | .done r => min r.reached (r.limit - 1) % 64 | .unstarted => 0 := by
    unfold Entry.groupReached
    cases e.phase with
    | done r => rfl
    | unstarted => simp [hr, destGroup_zero]
  have hzero : (if e.held = true ∨ t.released ≠ 0 ∨ topLevel t.queue = 0 then t.es.toNat else 0) = 0 := by simp [hes]
  unfold Thread.vcp
  rw [hnamed]
  dsimp only
  rw [hzero, hgroup]

/-! ## mfs -/

/-- A number that a thread may use passes the privilege check (R66). -/
theorem Thread.user_and_false {t : Thread} {n : Nat} (hp : 0x400 ≤ n → t.priv = true) : (t.user && decide (0x400 ≤ n)) = false := by
  by_cases h : 0x400 ≤ n
  · simp [Thread.user, hp h]
  · simp [h]

theorem exec_mfs (f : FmtSI) (s : State) : exec (.mfs f) s = execMfs f s := rfl

/-- mfs of a register other than CYC, its wait over, writes what the register reads as (R66, R69). -/
theorem execMfs_ready {f : FmtSI} {s : State} {x : Word} (h : Ready s [] [f.gd]) (hp : 0x400 ≤ f.imm.toNat → s.cur.priv = true)
    (hx : s.special f.imm.toNat = some x) (hw : s.cur.readReady f.imm.toNat = true) (hc : f.imm.toNat ≠ 0x030) :
    exec (.mfs f) s = .next (s.mod (fun t => (t.gwrite f.gd x).next)) := by
  rw [exec_mfs]
  simp only [execMfs, Thread.user_and_false hp, hx, Bool.false_eq_true, if_false]
  rw [State.scalar_user_ready h]
  simp [hw, hc]

/-- mfs of CYC draws a free value (R13). -/
theorem execMfs_cyc {f : FmtSI} {s : State} (h : Ready s [] [f.gd]) (hc : f.imm.toNat = 0x030) :
    exec (.mfs f) s = .next { s.mod (fun t => (t.gwrite f.gd (Config.cycleCount s.tick)).next) with tick := s.tick + 1 } := by
  have hx : s.special 0x030 = some (Config.cycleCount s.tick) := rfl
  have hw : s.cur.readReady 0x030 = true := rfl
  have hp : (s.cur.user && decide (0x400 ≤ 0x030)) = false := by simp
  rw [exec_mfs]
  simp only [execMfs, hc, hp, hx, Bool.false_eq_true, if_false]
  rw [State.scalar_user_ready h]
  simp only [hw, Bool.not_true, Bool.false_eq_true, if_false, if_true]
  rfl

/-! ## mts -/

/-- A number that a thread may write (R66): not privileged beyond it, naming a register, and not read-only. -/
theorem mtsCause_none {s : State} {n : Nat} {x : Word} (hp : 0x400 ≤ n → s.cur.priv = true) (he : n ≠ 0x003) (hx : s.special n = some x)
    (hr : readOnly n = false) : mtsCause s n = none := by
  have h := Thread.user_and_false hp
  have h3 : (n == 0x003) = false := by simpa using he
  simp [mtsCause, h, h3, hx, hr]

/-- mts of a ready word, its wait over (R66, R69). -/
theorem mtsWith_ready {n : Nat} {waits : Bool} {f : FmtSI} {write : Thread → Word → Thread} {s : State}
    (hc : mtsCause s n = none) (h : Ready s [(f.ga, f.sa, 0)] []) (hw : waits = true → s.cur.waited = []) :
    mtsWith n waits f write s = .next (s.mod (fun t => (write t (t.gread f.ga)).next)) := by
  have hwait : (waits && !s.cur.drained) = false := by
    cases waits
    · rfl
    · simp [Thread.drained_of (hw rfl)]
  rw [mtsWith, hc]
  dsimp only
  rw [State.scalar_user_ready h]
  simp [hwait]

/-- The mask of an address of code, bit by bit. -/
theorem codeMask_bit : ∀ i < 64, (0x00FFFFFFFFFFFFFC : Word).getLsbD i = decide (2 ≤ i ∧ i < 56) := by decide

/-- The bits of an address of code that are not reserved (R8, R305): a multiple of 4 below 2^56. -/
theorem and_codeMask (x : Word) : x &&& 0x00FFFFFFFFFFFFFC = BitVec.ofNat 64 (x.toNat % 2 ^ 56 / 4 * 4) := by
  apply BitVec.eq_of_getLsbD_eq
  intro i hi
  rw [BitVec.getLsbD_and, codeMask_bit i hi, BitVec.getLsbD_ofNat, show x.toNat % 2 ^ 56 / 4 * 4 = x.toNat % 2 ^ 56 / 2 ^ 2 * 2 ^ 2 from rfl,
    Nat.testBit_mul_two_pow, Nat.testBit_div_two_pow]
  by_cases h : 2 ≤ i
  · rw [Nat.sub_add_cancel h, Nat.testBit_mod_two_pow]
    simp [hi, h, BitVec.getLsbD, Bool.and_comm]
  · simp [h]

/-- A rounding mode of three bits (R68). -/
theorem frm_bits (x : Word) : x.extractLsb' 0 3 = x.setWidth 3 := by
  ext i hi
  simp

/-- A write of FRM takes the modes 0 to 4 alone (R68). -/
theorem Thread.setSpecial_frm (t : Thread) (x : Word) :
    t.setSpecial 0x012 x = if x.toNat % 8 < 5 then { t with frm := x.setWidth 3 } else t := by
  have hbits : (x.extractLsb' 0 3).toNat = x.toNat % 8 := by simp
  show (if 5 ≤ (x.extractLsb' 0 3).toNat then t else { t with frm := x.extractLsb' 0 3 }) = _
  rw [hbits, frm_bits]
  by_cases h : x.toNat % 8 < 5
  · rw [if_neg (by omega), if_pos h]
  · rw [if_pos (by omega), if_neg h]

/-- Every row of the table of writes: its number names a register that may be written, and the model writes what the row says (R67, R305). -/
theorem specialWrite_row : ∀ y ∈ specialWriteTable, y.1 ≠ 0x003 ∧ readOnly y.1 = false ∧ (∀ s : State, ∃ x, s.special y.1 = some x) ∧
    ∀ (t : Thread) (x : Word), t.setSpecial y.1 x = y.2 t x := by
  simp only [specialWriteTable, List.forall_mem_cons]
  refine ⟨⟨by decide, rfl, fun _ => ⟨_, rfl⟩, fun _ _ => rfl⟩, ⟨by decide, rfl, fun _ => ⟨_, rfl⟩, fun _ _ => rfl⟩,
    ⟨by decide, rfl, fun _ => ⟨_, rfl⟩, fun _ _ => rfl⟩, ⟨by decide, rfl, fun _ => ⟨_, rfl⟩, fun _ _ => rfl⟩,
    ⟨by decide, rfl, fun _ => ⟨_, rfl⟩, fun _ _ => rfl⟩, ⟨by decide, rfl, fun _ => ⟨_, rfl⟩, fun _ _ => rfl⟩,
    ⟨by decide, rfl, fun _ => ⟨_, rfl⟩, Thread.setSpecial_frm⟩, ⟨by decide, rfl, fun _ => ⟨_, rfl⟩, fun _ _ => rfl⟩,
    ⟨by decide, rfl, fun _ => ⟨_, rfl⟩, fun _ _ => rfl⟩, ⟨by decide, rfl, fun _ => ⟨_, rfl⟩, fun _ _ => rfl⟩,
    ⟨by decide, rfl, fun _ => ⟨_, rfl⟩, fun _ _ => rfl⟩, ⟨by decide, rfl, fun _ => ⟨_, rfl⟩, fun _ _ => rfl⟩,
    ⟨by decide, rfl, fun _ => ⟨_, rfl⟩, fun t x => congrArg (fun y => { t with tvec := y }) (and_codeMask x)⟩,
    ⟨by decide, rfl, fun _ => ⟨_, rfl⟩, fun t x => congrArg (fun y => { t with epc := y }) (and_codeMask x)⟩,
    ⟨by decide, rfl, fun _ => ⟨_, rfl⟩, fun _ _ => rfl⟩, ⟨by decide, rfl, fun _ => ⟨_, rfl⟩, fun _ _ => rfl⟩,
    ⟨by decide, rfl, fun _ => ⟨_, rfl⟩, fun _ _ => rfl⟩, ⟨by decide, rfl, fun _ => ⟨_, rfl⟩, fun _ _ => rfl⟩,
    ⟨by decide, rfl, fun _ => ⟨_, rfl⟩, fun _ _ => rfl⟩, ⟨by decide, rfl, fun _ => ⟨_, rfl⟩, fun _ _ => rfl⟩,
    ⟨by decide, rfl, fun _ => ⟨_, rfl⟩, fun _ _ => rfl⟩, ⟨by decide, rfl, fun _ => ⟨_, rfl⟩, fun _ _ => rfl⟩, nofun⟩

/-! ## The numbers that mfs and mts refuse (R66, R67, R305) -/

/-- With nothing queued a word's trap is taken at once, with EADDR its PC and EINFO 0 (R48, R49). -/
theorem State.wordTrap_nil {s : State} (hq : s.cur.queue = []) (cause : BitVec 8) : s.wordTrap cause = trapped s cause s.cur.pc 0 := by
  rw [State.wordTrap, State.issueTrap_nil hq, einfoPos_zero]

/-- Every number that names a register is listed. -/
theorem State.mem_specialNumbers {s : State} {n : Nat} {x : Word} (h : s.special n = some x) : n ∈ specialNumbers := by
  unfold State.special at h
  split at h
  case h_41 => cases h
  all_goals decide

theorem State.special_none {s : State} {n : Nat} (h : n ∉ specialNumbers) : s.special n = none :=
  Option.eq_none_iff_forall_not_mem.mpr (fun _ hx => h (State.mem_specialNumbers hx))

/-- The read-only numbers of the table are those of the model. -/
theorem readOnly_of_mem : ∀ n ∈ readOnlyNumbers, readOnly n = true ∧ n ≠ 0x003 := by decide

theorem mtsCause_user {s : State} {n : Nat} (hp : s.cur.priv = false) (h : 0x400 ≤ n ∨ n = 0x003) : mtsCause s n = some 0x45 := by
  have hcond : (s.cur.user && (decide (0x400 ≤ n) || n == 0x003)) = true := by simpa [Thread.user, hp] using h
  rw [mtsCause, if_pos hcond]

/-- A number that names no register, or a read-only one, is illegal where it is not privileged (R66). -/
theorem mtsCause_illegal {s : State} {n : Nat} (hp : s.cur.priv = true ∨ n < 0x400) (he : n ≠ 0x003)
    (h : s.special n = none ∨ readOnly n = true) : mtsCause s n = some 0x40 := by
  have hpriv := Thread.user_and_false (t := s.cur) (n := n) (fun hle => hp.resolve_right (by omega))
  have h3 : (n == 0x003) = false := by simpa using he
  have hcond : ((s.special n).isNone || readOnly n) = true := by
    obtain h | h := h <;> simp [h]
  rw [mtsCause, if_neg (by simp [hpriv, h3]), if_pos hcond]

/-- An mts that its number stops. -/
theorem mtsWith_cause {n : Nat} {waits : Bool} {f : FmtSI} {write : Thread → Word → Thread} {s : State} {c : BitVec 8}
    (hq : s.cur.queue = []) (hc : mtsCause s n = some c) : mtsWith n waits f write s = .next (trapped s c s.cur.pc 0) := by
  rw [mtsWith, hc, ← State.wordTrap_nil hq]

theorem exec_mts (f : FmtSI) (s : State) : exec (.mts f) s = execMts f s := rfl

theorem exec_mtsDirty (f : FmtSI) (s : State) : exec (.mtsDirty f) s = execMtsDirty f s := rfl

theorem exec_mtsEs (f : FmtSI) (s : State) : exec (.mtsEs f) s = execMtsEs f s := rfl

theorem execMfs_user {f : FmtSI} {s : State} (hq : s.cur.queue = []) (hp : s.cur.priv = false) (h : 0x400 ≤ f.imm.toNat) :
    exec (.mfs f) s = .next (trapped s 0x45 s.cur.pc 0) := by
  have hcond : (s.cur.user && decide (0x400 ≤ f.imm.toNat)) = true := by simpa [Thread.user, hp] using h
  rw [exec_mfs, execMfs, ← State.wordTrap_nil hq]
  exact if_pos hcond

theorem execMfs_illegal {f : FmtSI} {s : State} (hq : s.cur.queue = []) (hp : s.cur.priv = true ∨ f.imm.toNat < 0x400)
    (h : s.special f.imm.toNat = none) : exec (.mfs f) s = .next (trapped s 0x40 s.cur.pc 0) := by
  have hpriv := Thread.user_and_false (t := s.cur) (n := f.imm.toNat) (fun hle => hp.resolve_right (by omega))
  rw [exec_mfs, ← State.wordTrap_nil hq]
  simp only [execMfs, hpriv, h, Bool.false_eq_true, if_false]

end Sys2Proof.Machine

namespace Sys2Proof.Proofs

open Sys2Proof.Machine Sys2Proof.Safety

/-- Settles O18: the table row by row, then QLAND, CYC and VCP. -/
theorem specialReads : Obligations.SpecialReads := by
  unfold Obligations.SpecialReads
  refine ⟨fun x hx f s himm h hp hw => ?_, fun k hk f s himm h => ?_, fun f s himm h => ?_,
    fun f s e rest himm h hq hh hes hf hr => ?_⟩
  · obtain ⟨hcyc, hrow⟩ := special_row x hx
    obtain ⟨hvalue, hready⟩ := hrow s hw
    exact execMfs_ready h (himm ▸ hp) (himm ▸ hvalue) (himm ▸ hready) (himm ▸ hcyc)
  · intro q n
    have hn : s.qland q = n := by
      unfold n State.qland State.streamCount
      cases q.kind <;> cases (s.ring q.engine.toNat).block <;> rfl
    have hvalue : s.special f.imm.toNat = some (BitVec.ofNat 64 n) := by rw [himm, State.special_qland s k hk, ← hn]
    exact execMfs_ready h (by omega) hvalue (himm ▸ Thread.readReady_qland s.cur hk) (by omega)
  · exact ⟨_, execMfs_cyc h (by rw [himm]; rfl)⟩
  · have hvcp : s.special f.imm.toNat = some s.cur.vcp := by rw [himm]; rfl
    exact execMfs_ready h (fun hle => absurd hle (by rw [himm]; decide)) (hvcp.trans (congrArg some (Thread.vcp_oldest hq hh hes hf hr)))
      (by rw [himm]; rfl) (by rw [himm]; decide)

/-- Settles O19: the table row by row, then DIRTY. -/
theorem specialWrites : Obligations.SpecialWrites := by
  unfold Obligations.SpecialWrites
  refine ⟨fun y hy f s himm h hp hw => ?_, fun f s h hp hw => ?_⟩
  · obtain ⟨hes, hro, hnames, hwrite⟩ := specialWrite_row y hy
    obtain ⟨x, hx⟩ := hnames s
    rw [exec_mts, execMts, himm, mtsWith_ready (mtsCause_none hp hes hx hro) h (fun _ => hw)]
    simp only [hwrite]
  · exact (exec_mtsDirty f s).trans (mtsWith_ready (mtsCause_none (fun _ => hp) (by decide) rfl rfl) h (fun _ => hw))

/-- Settles O20: which numbers stop an mfs and an mts, privilege first. -/
theorem specialTraps : Obligations.SpecialTraps := by
  unfold Obligations.SpecialTraps
  refine ⟨fun f s hq hp h => ⟨execMfs_user hq hp h, ?_, ?_⟩, fun f s hq hp => ?_, fun f s hq hp h => ⟨?_, ?_⟩, fun f s hq hp h => ?_⟩
  · exact (exec_mts f s).trans (mtsWith_cause hq (mtsCause_user hp (.inl h)))
  · exact (exec_mtsDirty f s).trans (mtsWith_cause hq (mtsCause_user hp (.inl (by decide))))
  · exact (exec_mtsEs f s).trans (mtsWith_cause hq (mtsCause_user hp (.inr rfl)))
  · exact execMfs_illegal hq hp (State.special_none h)
  · have hes : f.imm.toNat ≠ 0x003 := fun e => h (e ▸ (by decide))
    exact (exec_mts f s).trans (mtsWith_cause hq (mtsCause_illegal hp hes (.inl (State.special_none h))))
  · obtain ⟨hro, hes⟩ := readOnly_of_mem _ h
    exact (exec_mts f s).trans (mtsWith_cause hq (mtsCause_illegal hp hes (.inr hro)))

end Sys2Proof.Proofs
end

section
/-!
PROOF. The engines and the words that set them to work (O51): a vpop of a floating-point type writes the FX registers (R104, R164).
-/
namespace Sys2Proof.Machine

open Sys2Proof.Safety

/-- `vpop v8, q1`. -/
def popFirst : FmtV := ⟨8, 1, 0, false, false, 0, false, false, 0⟩

/-- A thread of VT f32 and VL 1 that fetches `popFirst` next, whose stream q1 has landed its one element, 7, and whose FXNV still names
element 3, of an earlier instruction. -/
def floatStream : State :=
  (State.reset.withFetchWord 32 0x81010002).mod (fun t => { t with
    vt := 0x0A
    vl := 1
    fx := t.fx.set 0 0x10003
    q := t.q.set 1 { Stream.unboundReset with kind := .memory, live := true, vt := 0x0A, count := 1, ahead := [⟨0, 0, 0, 7⟩] } })

theorem encode_popFirst : encode (.vpop popFirst) = some 0x81010002 := rfl

theorem floatStream_idle : Idle floatStream := ⟨rfl, rfl, rfl⟩

theorem floatStream_pushes : Pushes floatStream (descOf 0x81010002) 0x81010002 :=
  ⟨by decide +kernel, by decide +kernel, by decide +kernel, by decide +kernel, by decide +kernel⟩

theorem floatStream_sized : Sized floatStream.cur := ⟨by decide, by decide +kernel, by decide +kernel⟩

theorem floatStream_landed : LandedKeys floatStream (floatStream.cur.qread 1) [7] := by
  unfold LandedKeys
  decide +kernel

/-- Its type is F, so the pop writes all five FX registers, here as 0: its one element is converted to its own type and raises no flag. -/
theorem floatStream_fx {u : State} (h : exec (.vpop popFirst) floatStream = .next u) : u.cur.fx = Vector.replicate 5 0 := by
  have runs : (match exec (.vpop popFirst) floatStream with | .next u => decide (u.cur.fx = Vector.replicate 5 0) | _ => false) = true := by
    decide +kernel
  rw [h] at runs
  exact of_decide_eq_true runs

end Sys2Proof.Machine

namespace Sys2Proof.Proofs
open Sys2Proof.Machine Sys2Proof.Safety

/-- Refutes O51: `issueResults` says that a vpop changes, beside the stream and the advance, only vector registers, their errors, their counts
for a save and DIRTY. Under an F type it also writes the FX registers (R104, R164): from `floatStream`, where FXNV names element 3, the pop
of one f32 element leaves FXNV 0. -/
theorem not_engineEvents : ¬ Obligations.EngineEvents := by
  intro ⟨_, issues, _, _⟩
  obtain ⟨_, _, pops, _⟩ := issues popFirst 0x81010002 floatStream ⟨by decide, by decide⟩ floatStream_idle floatStream_pushes floatStream_sized
  obtain ⟨u, runs, left, _⟩ :=
    pops encode_popFirst (by decide +kernel) [7] floatStream_landed (by decide +kernel) (by decide +kernel) (by decide +kernel)
  have kept : u.cur.fx = floatStream.cur.fx := by rw [left]; rfl
  have written := floatStream_fx runs
  rw [kept] at written
  exact absurd written (by decide +kernel)

end Sys2Proof.Proofs
end

section
/-!
PROOF. Conversions (O44, R118): T of a reserved code whose width, 6, does not divide a register.
-/
namespace Sys2Proof.Machine

open Sys2Proof.Safety

/-- `vcvt v8, v16` with T = 0x0E, the memory type b6: a code that R118 reserves and the decoder rejects, but that `encode` packs. -/
def toSixBits : FmtV := ⟨8, 16, 0x0E, false, false, 0, false, false, 0⟩

/-- A thread of 8 lane groups, VT z8 in two registers and VL 1,367, whose element 1,366 alone is still to do; in the group at v16 it is 1. -/
def lastOfTwo : State :=
  (State.reset.withFetchWord 32 0xB9107000).mod (fun t => { t with
    vt := 0x400
    vl := 1367
    es := 1366
    v := t.v.set 17 (BitVec.ofNat 8192 (2 ^ (8 * 1366 - 8192))) })

theorem encode_toSixBits : encode (.vcvt toSixBits) = some 0xB9107000 := rfl

theorem lastOfTwo_idle : Idle lastOfTwo := ⟨rfl, rfl, rfl⟩

theorem lastOfTwo_pushes : Pushes lastOfTwo (descOf 0xB9107000) 0xB9107000 :=
  ⟨by decide +kernel, by decide +kernel, by decide +kernel, by decide +kernel, by decide +kernel⟩

theorem lastOfTwo_sized : Sized lastOfTwo.cur := ⟨by decide, by decide +kernel, by decide +kernel⟩

theorem lastOfTwo_todo : todo lastOfTwo.cur toSixBits.guard toSixBits.gneg := ⟨by decide +kernel, by decide⟩

theorem lastOfTwo_clean : Clean lastOfTwo.cur := by
  have errors : lastOfTwo.cur.bad = Vector.replicate 32 0 := rfl
  have sideErrors : lastOfTwo.cur.sideBad = Vector.replicate 32 0 := rfl
  exact ⟨fun r n i => by simp [Thread.elemBad, errors], fun r k => by simp [Thread.sideIsBad, Thread.sideErrors, sideErrors], rfl⟩

/-- One register is the destination's group by R118 (2 × 6 ÷ 8, rounded down), but element 1,366 of 6 bits lies at bit 8,196 of it: v9 receives
the result, the low bits of 1.0 in the format that stands for T. -/
theorem lastOfTwo_spills {u : State} (h : exec (.vcvt toSixBits) lastOfTwo = .next u) : u.cur.vread 9 = BitVec.ofNat 8192 (60 * 2 ^ 4) := by
  have runs : (match exec (.vcvt toSixBits) lastOfTwo with
      | .next u => decide (u.cur.vread 9 = BitVec.ofNat 8192 (60 * 2 ^ 4)) | _ => false) = true := by
    decide +kernel
  rw [h] at runs
  exact of_decide_eq_true runs

end Sys2Proof.Machine

namespace Sys2Proof.Proofs

open Sys2Proof.Machine Sys2Proof.Safety

/-- Refutes O44: `conversionResults` speaks of every T that `encode` packs, reserved ones too, since it does not ask that the word is well formed.
Under T = 0x0E (R118: a reserved field value) two registers of z8 give a destination group of one register, and from `lastOfTwo` the conversion
writes v9, outside the group at v8 that alone may change. -/
theorem not_vectorArithmeticResults : ¬ Obligations.VectorArithmeticResults := by
  intro ⟨_, _, _, conversions, _⟩
  obtain ⟨u, runs, _, _, kept⟩ :=
    conversions (.vcvt, true, id, false) (by simp [conversionTable]) toSixBits 0xB9107000 lastOfTwo encode_toSixBits ⟨by decide, by decide⟩
      lastOfTwo_idle lastOfTwo_pushes lastOfTwo_sized lastOfTwo_todo lastOfTwo_clean
      (.inr (.inr (by decide +kernel))) (fun i _ => BitVec.and_zero)
  have unchanged : u.cur.vread 9 = lastOfTwo.cur.vread 9 := kept 9 (by decide) (.inr (by decide +kernel))
  rw [lastOfTwo_spills runs] at unchanged
  exact absurd unchanged (by decide +kernel)

end Sys2Proof.Proofs
end

section
/-!
PROOF. Strong accesses of the scalar part (R250 to R259): what a strong read, write and update do where no access of another size has met
the bytes, and the words of majors 0x18 and 0x19 that make them.
-/
namespace Sys2Proof.Machine

open Sys2Proof.Safety

/-! ## Strong accesses that meet none of another size (R251) -/

/-- With no older entry to wait for, the waits of R17 are over. -/
theorem Thread.drained_of_waited {t : Thread} (h : t.waited = []) : t.drained = true := by
  rw [Thread.drained, h]
  rfl

/-- The 0x4C check passes where the sector's last strong access had this size. -/
theorem State.sizeTrap_alike {s : State} {pa n : Nat} (h : ∀ r ∈ s.sizes, r.sector = pa / 32 → r.size = n) : s.sizeTrap pa n = false := by
  unfold State.sizeTrap
  cases hr : s.sizes.find? (fun r => r.sector == pa / 32) with
  | none => simp
  | some r =>
    have hsector : r.sector = pa / 32 := by simpa using List.find?_some hr
    simp [h r (List.mem_of_find?_eq_some hr) hsector]

/-- So a scalar access has no further check to fail. -/
theorem strongExtra_coherent {s u : State} {pa n : Nat} (h : Coherent s u pa n) : strongExtra n s pa = none := by
  simp [strongExtra, State.sizeTrap_alike h.alike]

/-- A strong access leaves no byte at which one of the same size would meet another size. -/
theorem mixedBytes_recorded {s : State} {pa n : Nat} (h : s.mixedBytes pa n = []) : (recorded s pa n).mixedBytes pa n = [] := by
  unfold State.mixedBytes at h ⊢
  split at h
  · next hm => exact if_pos hm
  · next hm =>
    refine (if_neg hm).trans ?_
    rw [List.map_eq_nil_iff, List.filter_eq_nil_iff] at h ⊢
    intro x hx
    obtain hnew | hold := List.mem_append.mp hx
    · obtain ⟨i, -, rfl⟩ := List.mem_map.mp (List.mem_filter.mp hnew).1
      simp
    · exact h x hold

/-- A strong read of bytes that are predictable gives what memory holds, and is recorded. -/
theorem State.strongRead_tame {s : State} {pa n : Nat} (hm : s.mixedBytes pa n = []) (hw : s.wild = []) :
    s.strongRead pa n = (s.mem.bytes pa n, recorded s pa n) := by
  unfold State.strongRead
  rw [hm]
  exact congrArg (·, recorded s pa n) (State.read_tame (s := recorded s pa n) hw pa n)

/-- A strong write that meets no other size is a write, and is recorded. -/
theorem State.strongWrite_tame {s : State} {pa : Nat} {bs : List Byte} (hm : s.mixedBytes pa bs.length = []) :
    s.strongWrite pa bs = recorded (s.write pa bs) pa bs.length := by
  unfold State.strongWrite
  rw [hm]
  rfl

/-- An indivisible update of bytes that are predictable: the read, then the write where the operation makes one (R253). -/
theorem State.strongUpdate_tame {s : State} {pa n : Nat} {op : Nat → Option Nat} (hm : s.mixedBytes pa n = []) (hw : s.wild = []) :
    s.strongUpdate pa n op = (s.mem.num pa n, match op (s.mem.num pa n) with
      | some y => recorded ((recorded s pa n).write pa (leBytes n y)) pa n
      | none => recorded s pa n) := by
  have hwrite : ∀ y, (recorded s pa n).strongWrite pa (leBytes n y) = recorded ((recorded s pa n).write pa (leBytes n y)) pa n := fun y => by
    rw [State.strongWrite_tame (by rw [length_leBytes]; exact mixedBytes_recorded hm), length_leBytes]
  simp only [State.strongUpdate, State.strongRead_tame hm hw, hwrite, hm]
  rfl

/-! ## Acquire loads, release stores and the fence (R256 to R258) -/

/-- A ready acquire load that reaches its bytes. -/
theorem loadAcquire_reaches {f : FmtMem} {n : Nat} {ext : Nat → Word} {s s1 : State} {pa : Nat} {l : Leaf}
    (h : Ready s [(f.ga, f.sa, 0)] [f.gd]) (hr : Reaches s (s.cur.gread f.ga) n Need.load pa l s1)
    (hc : Coherent s1 (accessed s s1 (s.cur.gread f.ga) l false pa) pa n) :
    loadAcquire f n ext s = .next ((recorded (accessed s s1 (s.cur.gread f.ga) l false pa) pa n).mod (fun t =>
      (t.gwrite f.gd (ext ((accessed s s1 (s.cur.gread f.ga) l false pa).mem.num pa n))).next)) := by
  rw [loadAcquire, State.scalar_user_ready h, State.scalarAccess, State.scalarAccessIf_reaches hr (strongExtra_coherent hc)]
  rw [show Need.load.write = false from rfl, State.strongRead_tame hc.still hc.undamaged]
  rfl

/-- A ready release store that reaches its bytes, with every older entry retired. -/
theorem storeRelease_reaches {f : FmtMem} {n : Nat} {s s1 : State} {pa : Nat} {l : Leaf} (h : Ready s [(f.ga, f.sa, 0)] [f.gd])
    (hw : s.cur.waited = []) (hr : Reaches s (s.cur.gread f.ga) n Need.store pa l s1)
    (hc : Coherent s1 (accessed s s1 (s.cur.gread f.ga) l true pa) pa n) :
    storeRelease f n s = .next ((recorded ((accessed s s1 (s.cur.gread f.ga) l true pa).write pa
      (leBytes n (s.cur.gread f.gd).toNat)) pa n).mod Thread.next) := by
  have hmixed : (accessed s s1 (s.cur.gread f.ga) l true pa).mixedBytes pa (leBytes n (s.cur.gread f.gd).toNat).length = [] := by
    rw [length_leBytes]
    exact hc.still
  rw [storeRelease, State.scalar_user_ready h, Thread.drained_of_waited hw]
  refine congrArg _ ((if_neg Bool.false_ne_true).trans ((State.scalarAccessIf_reaches hr (strongExtra_coherent hc)).trans ?_))
  rw [show Need.store.write = true from rfl, accessed_cur, scalarCheck_cur hr.checks, State.strongWrite_tame hmixed, length_leBytes]

theorem exec_fenceSc (f : FmtMem) (s : State) : exec (.fenceSc f) s = execFenceSc f s := rfl

/-- A ready fence with every older entry retired goes on. -/
theorem execFenceSc_ready {f : FmtMem} {s : State} (h : Ready s [] []) (hw : s.cur.waited = []) : execFenceSc f s = .next (s.mod Thread.next) := by
  rw [execFenceSc, State.scalar_user_ready h, Thread.drained_of_waited hw]
  rfl

/-! ## Scalar atomics (R252, R253) -/

/-- A ready atomic that reaches its bytes: D is set exactly where the value that its checks left there leads to a write. -/
theorem scalarAtomic_reaches {f : FmtAtomic} {n : Nat} {op : Nat → Nat → Nat → Option Nat} {s s1 : State} {pa : Nat} {l : Leaf}
    (h : Ready s [(f.ga, f.sa, 0), (f.gb, f.sb, 1)] [f.gd]) (hrel : f.order.getLsbD 1 = true → s.cur.waited = [])
    (hr : Reaches s (s.cur.gread f.ga) n Need.both pa l s1) :
    let b := (s.cur.gread f.gb).toNat % 2 ^ (8 * n)
    let d := (s.cur.gread f.gd).toNat % 2 ^ (8 * n)
    let u := accessed s s1 (s.cur.gread f.ga) l (op (s1.mem.num pa n) b d).isSome pa
    Coherent s1 u pa n → scalarAtomic f n op s = .next ((match op (u.mem.num pa n) b d with
      | some y => recorded ((recorded u pa n).write pa (leBytes n y)) pa n
      | none => recorded u pa n).mod (fun t => (t.gwrite f.gd (sextFrom (8 * n) (u.mem.num pa n))).next)) := by
  intro b d u hc
  have hready : (releases f.order && !s.cur.drained) = false := by
    cases ho : releases f.order
    · rfl
    · rw [Thread.drained_of_waited (hrel ho)]
      rfl
  have hwrites : (op (leNat (s1.strongRead pa n).1) b d).isSome = (op (s1.mem.num pa n) b d).isSome := by
    rw [State.strongRead_tame hc.mixed hc.predictable]
    rfl
  rw [scalarAtomic, State.scalar_user_ready h, hready]
  refine congrArg _ ((if_neg Bool.false_ne_true).trans ((State.scalarAccessIf_reaches hr (strongExtra_coherent hc)).trans ?_))
  dsimp only
  rw [hwrites]
  exact congrArg (fun p : Nat × State => p.2.mod (fun t => (t.gwrite f.gd (sextFrom (8 * n) p.1)).next))
    (State.strongUpdate_tame (s := u) hc.still hc.undamaged)

/-- The model reads a signed number of w bits as bit vectors do. -/
theorem signedOf_eq (w x : Nat) : signedOf w x = (BitVec.ofNat w x).toInt := by
  rw [signedOf, BitVec.toInt_eq_toNat_cond]
  simp

/-- Every row of the table is the model's `scalarAtomic` of its size and operation (R252). -/
theorem atomic_meaning : ∀ x ∈ atomicTable, ∀ f s, exec (x.1 f) s = scalarAtomic f x.2.1 x.2.2 s := by
  simp only [atomicTable, List.forall_mem_cons, ← signedOf_eq]
  exact ⟨fun _ _ => rfl, fun _ _ => rfl, fun _ _ => rfl, fun _ _ => rfl, fun _ _ => rfl, fun _ _ => rfl, fun _ _ => rfl, fun _ _ => rfl,
    fun _ _ => rfl, fun _ _ => rfl, fun _ _ => rfl, fun _ _ => rfl, fun _ _ => rfl, fun _ _ => rfl, fun _ _ => rfl, fun _ _ => rfl,
    fun _ _ => rfl, fun _ _ => rfl, fun _ _ => rfl, fun _ _ => rfl, nofun⟩

/-- The scalar half of `Obligations.AtomicResults`. -/
theorem scalarAtomicResults_holds : scalarAtomicResults := by
  unfold scalarAtomicResults
  intro x hx f s s1 pa l h hrel hr b d u hc
  rw [atomic_meaning x hx, scalarAtomic_reaches h hrel hr hc]
  simp only [sextFrom, signedOf_eq]
  rfl

/-! ## await and wake (R259) -/

theorem exec_await (f : FmtMem) (s : State) : exec (.await f) s = execAwait f s := rfl

theorem exec_wake (f : FmtMem) (s : State) : exec (.wake f) s = execWake f s := rfl

/-- A ready await that reaches its doubleword goes on where it differs from g(gb) or the thread was woken, and else sleeps. -/
theorem execAwait_reaches {f : FmtMem} {s s1 : State} {pa : Nat} {l : Leaf} (h : Ready s [(f.ga, f.sa, 0), (f.gb, f.sb, 1)] [f.gd])
    (hr : Reaches s (s.cur.gread f.ga) 8 Need.load pa l s1) (hc : Coherent s1 (accessed s s1 (s.cur.gread f.ga) l false pa) pa 8) :
    let u := accessed s s1 (s.cur.gread f.ga) l false pa
    let x := BitVec.ofNat 64 (u.mem.num pa 8)
    execAwait f s = .next (if x ≠ s.cur.gread f.gb ∨ s.cur.woken = true then
        (recorded u pa 8).mod (fun t => (({ t with asleep := none, woken := false } : Thread).gwrite f.gd x).next)
      else (recorded u pa 8).mod (fun t => { t with asleep := some (pa / 32 * 8 + f.scope.toNat), woken := false })) := by
  intro u x
  rw [execAwait, State.scalar_user_ready h, State.scalarAccess, State.scalarAccessIf_reaches hr (strongExtra_coherent hc)]
  rw [show Need.load.write = false from rfl, State.strongRead_tame hc.still hc.undamaged]
  dsimp only
  rw [accessed_cur, scalarCheck_cur hr.checks]
  rfl

/-- A thread that is woken in a case: its mark is set there, and it stays as it is elsewhere. -/
theorem Thread.woken_or (t : Thread) (b : Bool) : { t with woken := t.woken || b } = if b then { t with woken := true } else t := by
  cases b
  · rw [Bool.or_false]
    rfl
  · rw [Bool.or_true]
    rfl

/-- What a wake does to another thread: it is marked where it sleeps on the sector and the scopes are mutual (R250). -/
theorem State.wakeOne_eq (s : State) (pa : Nat) (scope : BitVec 3) (t : Thread) :
    s.wakeOne pa scope t = { t with woken := t.woken ||
      (match t.asleep with
       | some k => decide (k / 8 = pa / 32) && s.scopeHas scope.toNat s.cur t && s.scopeHas (k % 8) t s.cur
       | none => false) } := by
  rw [Thread.woken_or]
  unfold State.wakeOne State.mutuallyScoped
  cases t.asleep with
  | none => rfl
  | some k => simp only [Bool.and_eq_true, decide_eq_true_eq, and_assoc]

/-- A ready wake whose check passes marks other threads, and does no more. -/
theorem execWake_ready {f : FmtMem} {s s1 : State} {pa : Nat} {l : Leaf} (h : Ready s [(f.ga, f.sa, 0)] [])
    (hc : s.scalarCheck s.cur.ctx (s.cur.gread f.ga).toNat 1 Need.store = (.ok (pa, l), s1)) :
    execWake f s = .next { s with others := s.others.map (s.wakeOne pa f.scope), cur := s.cur.next } := by
  rw [execWake, State.scalar_user_ready h]
  dsimp only
  rw [hc]

end Sys2Proof.Machine

namespace Sys2Proof.Proofs

open Sys2Proof.Machine Sys2Proof.Safety

/-- Settles O25: each word is the model's acquire load, release store or fence, and the bytes meet no strong access of another size. -/
theorem orderedAccessResults : Obligations.OrderedAccessResults := by
  unfold Obligations.OrderedAccessResults
  refine ⟨fun f s s1 pa l h => ⟨fun hr hc => ?_, fun hr hc => ?_, fun hw hr hc => ?_, fun hw hr hc => ?_⟩, fun f s h hw => ?_⟩
  · rw [← sextFrom_eq]
    exact loadAcquire_reaches h hr hc
  · exact loadAcquire_reaches h hr hc
  · exact storeRelease_reaches h hw hr hc
  · exact storeRelease_reaches h hw hr hc
  · rw [exec_fenceSc, execFenceSc_ready h hw]

/-- Settles O26: the two ends of an await, and the threads that a wake marks. -/
theorem awaitAndWake : Obligations.AwaitAndWake := by
  unfold Obligations.AwaitAndWake
  refine ⟨fun f s s1 pa l h hr => ?_, fun f s s1 pa l h hc => ?_⟩
  · intro u x hc
    have hrun := (exec_await f s).trans (execAwait_reaches h hr hc)
    refine ⟨fun hgo => hrun.trans (congrArg _ (if_pos hgo)), fun heq hasleep => hrun.trans (congrArg _ (if_neg ?_))⟩
    rintro (hne | hwoken)
    · exact hne heq
    · exact Bool.false_ne_true (hasleep.symm.trans hwoken)
  · refine ⟨_, (exec_wake f s).trans (execWake_ready h hc), rfl, rfl, ?_⟩
    exact List.map_congr_left (fun t _ => State.wakeOne_eq s pa f.scope t)

end Sys2Proof.Proofs
end

section
/-!
PROOF. Named barriers (R262 to R268): the reasons of an arrival, a wait and a configuration, the words of major 0x19 that act on a barrier,
and the completion of a phase.
-/
namespace Sys2Proof.Machine

open Sys2Proof.Safety

/-! ## Which barrier (R263, R264) -/

/-- The barrier just put is the one found under its names. -/
theorem State.barrierOf_put (s : State) (b : Barrier) (l : List Barrier) :
    ({ s with barriers := putBarrier b l } : State).barrierOf b.team b.crew b.num = b := by
  simp [State.barrierOf, putBarrier]

/-- A token marked not valid reads as not valid, also where there is no such token. -/
theorem Thread.token_clear (t : Thread) (num : BitVec 6) (p : BitVec 16) : ((t.setToken num { phase := p, valid := false }).token num).valid = false := by
  unfold Thread.token Thread.setToken
  rw [Vector.getElem?_setIfInBounds_self]
  split <;> rfl

/-! ## The reasons (R268) -/

section Reasons

variable {s : State} {num : BitVec 6} {landingOk : Bool}

theorem State.useReason_foreign (h : s.foreignBarrier num = true) : s.useReason num landingOk = some 5 := if_pos h

theorem State.useReason_off (h : s.foreignBarrier num = false) (hk : (s.myBarrier num).kind = 0) : s.useReason num landingOk = some 1 := by
  simp [State.useReason, h, hk]

theorem State.useReason_landing (h : s.foreignBarrier num = false) (hk : (s.myBarrier num).kind = 2) : s.useReason num false = some 2 := by
  simp [State.useReason, h, hk]

theorem State.useReason_thread (h : s.foreignBarrier num = false) (hk : (s.myBarrier num).kind = 1) : s.useReason num landingOk = none := by
  simp [State.useReason, h, hk]

theorem State.useReason_wait (h : s.foreignBarrier num = false) (hk : (s.myBarrier num).kind = 2) : s.useReason num true = none := by
  simp [State.useReason, h, hk]

end Reasons

/-! ## The words -/

theorem exec_barWait (f : FmtBar) (s : State) : exec (.barWait f) s = execBarWait f s := rfl

/-- With nothing queued a word is ready where no strict source of it was found premature when it first issued (R39, R97). -/
theorem ready_of_nil {s : State} (hq : s.cur.queue = []) {srcs : List Source} (hs : ∀ x ∈ srcs, x.2.1 = true → s.cur.stuck ≠ some x.2.2)
    (dsts : List (BitVec 5)) : Ready s srcs dsts :=
  ⟨by rw [hq]; rfl, by rw [hq]; rfl, fun x hx => ⟨Thread.gempty_nil hq x.1, hs x hx⟩, fun r _ => Thread.gempty_nil hq r⟩

/-- A barrier's trap with nothing queued (R268). -/
theorem State.barrierTrap_nil {s : State} (hq : s.cur.queue = []) (num : BitVec 6) (reason : Nat) :
    s.barrierTrap num reason = trapped s 0x4B s.cur.pc (BitVec.ofNat 64 (num.toNat + 256 * (reason % 256))) := State.issueTrap_nil hq ..

section Arrive

variable {f : FmtBar} {s : State} (h : Ready s [] []) (hd : s.cur.drained = true)
include h hd

/-- An arrival at a barrier that cannot take one. -/
theorem execBarArrive_refused {r : Nat} (hr : s.useReason f.bar false = some r) : execBarArrive f s = .next (s.barrierTrap f.bar r) := by
  rw [execBarArrive, State.scalar_user_ready h, hd]
  simp [hr]

/-- A second arrival in one phase. -/
theorem execBarArrive_again (hr : s.useReason f.bar false = none) (hv : (s.cur.token f.bar).valid = true)
    (hp : (s.cur.token f.bar).phase = (s.myBarrier f.bar).phase) : execBarArrive f s = .next (s.barrierTrap f.bar 3) := by
  rw [execBarArrive, State.scalar_user_ready h, hd]
  simp [hr, hv, hp]

variable (hr : s.useReason f.bar false = none)
  (hn : ((s.cur.token f.bar).valid && (s.cur.token f.bar).phase == (s.myBarrier f.bar).phase) = false)
include hr hn

/-- An arrival whose report would differ from one that the combiner holds. -/
theorem execBarArrive_differs (hx : s.reportDiffers (s.myBarrier f.bar) = true) : execBarArrive f s = .next (s.barrierTrap f.bar 7) := by
  rw [execBarArrive, State.scalar_user_ready h, hd]
  simp only [hr, hn, hx, Bool.not_true, Bool.false_eq_true, if_false, if_true]

/-- The first arrival in a phase. -/
theorem execBarArrive_arrives (hx : s.reportDiffers (s.myBarrier f.bar) = false) :
    execBarArrive f s = .next ((s.arrive (s.myBarrier f.bar)).mod Thread.next) := by
  rw [execBarArrive, State.scalar_user_ready h, hd]
  simp only [hr, hn, hx, Bool.not_true, Bool.false_eq_true, if_false]

variable (hf : ¬(s.cur.syncing = some (f.bar, s.cur.pc) ∧ (s.cur.token f.bar).valid = true))
include hf

theorem execBarSync_differs (hx : s.reportDiffers (s.myBarrier f.bar) = true) : execBarSync f s = .next (s.barrierTrap f.bar 7) := by
  rw [execBarSync, State.scalar_user_ready h, hd]
  simp only [hr, hn, hx, hf, Bool.not_true, Bool.false_eq_true, if_false, if_true]

theorem execBarSync_arrives (hx : s.reportDiffers (s.myBarrier f.bar) = false) :
    execBarSync f s = .next ((s.arrive (s.myBarrier f.bar)).mod (fun t => { t with syncing := some (f.bar, t.pc) })) := by
  rw [execBarSync, State.scalar_user_ready h, hd]
  simp only [hr, hn, hx, hf, Bool.not_true, Bool.false_eq_true, if_false]

end Arrive

section Sync

variable {f : FmtBar} {s : State} (h : Ready s [] []) (hd : s.cur.drained = true)
include h hd

/-- A bar.sync that has not arrived, at a barrier that cannot take an arrival. -/
theorem execBarSync_refused {r : Nat} (hf : ¬(s.cur.syncing = some (f.bar, s.cur.pc) ∧ (s.cur.token f.bar).valid = true))
    (hr : s.useReason f.bar false = some r) : execBarSync f s = .next (s.barrierTrap f.bar r) := by
  rw [execBarSync, State.scalar_user_ready h, hd]
  simp only [hr, hf, Bool.not_true, Bool.false_eq_true, if_false]

variable (hs : s.cur.syncing = some (f.bar, s.cur.pc)) (hv : (s.cur.token f.bar).valid = true)
include hs hv

/-- A bar.sync that has arrived waits for the phase of its token to end. -/
theorem execBarSync_waits (hp : (s.cur.token f.bar).phase = (s.myBarrier f.bar).phase) : execBarSync f s = .next s := by
  rw [execBarSync, State.scalar_user_ready h, hd]
  simp only [hs, hv, hp, Bool.not_true, Bool.false_eq_true, and_self, if_false, if_true]

/-- It goes on once the phase has moved on. -/
theorem execBarSync_passes (hp : (s.cur.token f.bar).phase ≠ (s.myBarrier f.bar).phase) :
    execBarSync f s = .next (s.mod (fun t =>
      (({ t with syncing := none } : Thread).setToken f.bar { t.token f.bar with valid := false }).next)) := by
  rw [execBarSync, State.scalar_user_ready h, hd]
  simp only [hs, hv, hp, Bool.not_true, Bool.false_eq_true, and_self, if_false, if_true]

end Sync

section Wait

variable {f : FmtBar} {s : State} (h : Ready s [(f.ga, f.sa, 0)] [])
include h

/-- A wait at a barrier that cannot be waited for. -/
theorem execBarWait_refused {r : Nat} (hr : s.useReason f.bar true = some r) : execBarWait f s = .next (s.barrierTrap f.bar r) := by
  rw [execBarWait, State.scalar_user_ready h, hr]

/-- A landing barrier is waited for until enough has landed (R265). -/
theorem execBarWait_landing (hr : s.useReason f.bar true = none) (hk : (s.myBarrier f.bar).kind = 2) :
    execBarWait f s = .next (if (s.cur.gread f.ga).toNat ≤ (s.myBarrier f.bar).landed then s.mod Thread.next else s) := by
  rw [execBarWait, State.scalar_user_ready h, hr]
  exact congrArg _ (if_pos hk)

/-- A thread barrier is waited for with a valid token alone, until the token's phase has ended (R264). -/
theorem execBarWait_thread (hr : s.useReason f.bar true = none) (hk : (s.myBarrier f.bar).kind = 1) :
    execBarWait f s = .next (if (s.cur.token f.bar).valid = false then s.barrierTrap f.bar 4
      else if (s.cur.token f.bar).phase = (s.myBarrier f.bar).phase then s
      else s.mod (fun t => (t.setToken f.bar { s.cur.token f.bar with valid := false }).next)) := by
  have hk2 : (s.myBarrier f.bar).kind ≠ 2 := by
    rw [hk]
    decide
  rw [execBarWait, State.scalar_user_ready h, hr]
  refine congrArg _ ((if_neg hk2).trans ?_)
  simp only [Bool.not_eq_true']

end Wait

/-! ## The status word (R267) -/

/-- The word that bar.stat packs: the state by the barrier's kind, or its status. -/
theorem Barrier.stat_eq (b : Barrier) (status : Bool) : ∃ x : Nat, b.stat status = BitVec.ofNat 64 x ∧
    (status = false →
      (b.kind = 0 → x = 0) ∧
      (b.kind = 1 → x = b.phase.toNat + 2 ^ 16 * (b.arrivals % 8) + 2 ^ 19 * b.count + 2 ^ 22 * b.scope.toNat + 2 ^ 25) ∧
      (b.kind = 2 → x = b.landed % 2 ^ 32 + 2 ^ 32 * (b.expected % 2 ^ 32))) ∧
    (status = true → x = b.err.toNat + 2 * b.svalid.toNat + 2 ^ 8 * b.code.toNat + 2 ^ 16 * b.elem.toNat + 2 ^ 32 * (b.land % 2 ^ 32)) := by
  refine ⟨_, rfl, ?_, ?_⟩
  · rintro rfl
    exact ⟨fun hk => by simp [hk], fun hk => by simp [hk], fun hk => by simp [hk]⟩
  · rintro rfl
    cases b.err <;> cases b.svalid <;> rfl

/-- A ready bar.stat on a barrier of no other team, with no older entry that adds to its expected count. -/
theorem execBarStat_ready {f : FmtBar} {s : State} (h : Ready s [(f.ga, f.sa, 0)] [f.gd]) (hf : s.foreignBarrier f.bar = false)
    (hw : ∀ e ∈ s.cur.waited, e.addsTo f.bar = false) :
    execBarStat f s = .next (s.mod (fun t =>
      (t.gwrite f.gd ((s.myBarrier f.bar).stat ((t.gread f.ga).getLsbD 0))).next)) := by
  have hadds : s.cur.waited.any (fun e => e.addsTo f.bar) = false := List.any_eq_false.mpr (fun e he => by simp [hw e he])
  rw [execBarStat, State.scalar_user_ready h, hf, hadds]
  rfl

/-- A bar.stat on another team's barrier. -/
theorem execBarStat_foreign {f : FmtBar} {s : State} (h : Ready s [(f.ga, f.sa, 0)] [f.gd]) (hf : s.foreignBarrier f.bar = true) :
    execBarStat f s = .next (s.barrierTrap f.bar 5) := by
  rw [execBarStat, State.scalar_user_ready h, hf]
  rfl

/-! ## bar.cfg (R263) -/

/-- The fields of a bar.cfg value as numbers: kind, scope, reserved bits, and the low three bits of the count. -/
theorem configFields (x : Word) : (x.extractLsb' 0 2).toNat = x.toNat % 4 ∧ (x.extractLsb' 2 3).toNat = x.toNat / 4 % 8 ∧
    (x.extractLsb' 5 3).toNat = x.toNat / 32 % 8 ∧ (x.extractLsb' 8 3).toNat = x.toNat / 256 % 8 := by
  simp [Nat.shiftRight_eq_div_pow]

/-- A value within R263's table breaks none of it. -/
theorem badConfig_false {x : Word} (hreserved : x.toNat / 32 % 8 = 0) (hkind : x.toNat % 4 ≠ 3) (hscope : x.toNat / 4 % 8 ≤ 4)
    (hlanding : x.toNat % 4 = 2 → x.toNat / 4 % 8 = 0) (hthread : x.toNat % 4 = 1 → 1 ≤ x.toNat / 256 ∧ x.toNat / 256 ≤ 4)
    (hother : x.toNat % 4 ≠ 1 → x.toNat / 256 = 0) : badConfig x = false := by
  obtain ⟨hk, hs, hr, hc⟩ := configFields x
  have hzero : x.extractLsb' 5 3 = 0 := BitVec.eq_of_toNat_eq (hr.trans hreserved)
  unfold badConfig
  simp only [hk, hs, hc, hzero, bne_self_eq_false, Bool.or_false, Bool.or_eq_false_iff, Bool.and_eq_false_iff, beq_eq_false_iff_ne,
    decide_eq_false_iff_not, bne_eq_false_iff_eq, Bool.not_eq_false', Bool.and_eq_true, decide_eq_true_eq]
  omega

/-- What a bar.cfg does to a thread's token (R263): it is not valid any more where the thread is of the team and on this crew. -/
def State.clearToken (s : State) (num : BitVec 6) (t : Thread) : Thread :=
  if t.team = s.cur.team ∧ s.record.crew t.lthread = s.crew then t.setToken num { phase := 0, valid := false } else t

/-- The barrier that bar.cfg sets up from the value of g(ga): its kind, scope and count, all else 0 (R263). -/
def State.configured (s : State) (num : BitVec 6) (x : Word) : Barrier :=
  { Barrier.off s.cur.team s.crew num with kind := x.extractLsb' 0 2, scope := x.extractLsb' 2 3, count := (x.extractLsb' 8 3).toNat }

/-- The same by R263's numbers, where the bits above the count are 0. -/
theorem State.configured_eq (s : State) (num : BitVec 6) {x : Word} (hx : x.toNat / 256 < 8) :
    s.configured num x = { Barrier.off s.cur.team s.crew num with
      kind := BitVec.ofNat 2 (x.toNat % 4), scope := BitVec.ofNat 3 (x.toNat / 4 % 8), count := x.toNat / 256 } := by
  obtain ⟨hk, hs, -, hc⟩ := configFields x
  rw [← hk, ← hs, BitVec.ofNat_toNat, BitVec.ofNat_toNat, BitVec.setWidth_eq, BitVec.setWidth_eq, ← Nat.mod_eq_of_lt hx, ← hc]
  rfl

section Configure

variable {f : FmtBar} {s : State} (h : Ready s [(f.ga, f.sa, 0)] []) (hd : s.cur.drained = true)
include h hd

/-- A bar.cfg that R263 forbids. -/
theorem execBarCfg_refused {r : Nat} (hr : s.configReason f.bar (s.cur.gread f.ga) = some r) :
    execBarCfg f s = .next (s.barrierTrap f.bar r) := by
  rw [execBarCfg, State.scalar_user_ready h, hd]
  simp [hr]

/-- A bar.cfg that R263 allows. -/
theorem execBarCfg_sets (hr : s.configReason f.bar (s.cur.gread f.ga) = none) :
    execBarCfg f s = .next { s with
      barriers := putBarrier (s.configured f.bar (s.cur.gread f.ga)) s.barriers
      others := s.others.map (s.clearToken f.bar)
      cur := (s.clearToken f.bar s.cur).next } := by
  rw [execBarCfg, State.scalar_user_ready h, hd]
  refine congrArg _ ((if_neg Bool.false_ne_true).trans ?_)
  rw [hr]
  rfl

end Configure

/-- The current thread is on its own crew. -/
theorem State.clearToken_cur (s : State) (num : BitVec 6) : s.clearToken num s.cur = s.cur.setToken num { phase := 0, valid := false } :=
  if_pos ⟨rfl, rfl⟩

/-- Clearing a token moves no thread to another place. -/
theorem State.clearToken_place (s : State) (num : BitVec 6) (t : Thread) :
    (s.clearToken num t).team = t.team ∧ (s.clearToken num t).lthread = t.lthread := by
  unfold State.clearToken
  split <;> exact ⟨rfl, rfl⟩

/-- Where a thread of the team is on this crew, its token is not valid any more. -/
theorem State.clearToken_invalid {s : State} {num : BitVec 6} {t : Thread} (ht : t.team = s.cur.team) (hc : s.record.crew t.lthread = s.crew) :
    ((s.clearToken num t).token num).valid = false := by
  rw [State.clearToken, if_pos ⟨ht, hc⟩]
  exact Thread.token_clear t num 0

section Reason

variable {s : State} {num : BitVec 6} {x : Word}

theorem State.configReason_value (h : badConfig x = true) : s.configReason num x = some 6 := if_pos h

theorem State.configReason_owner (h : badConfig x = false) (ho : s.record.bars.getLsbD num.toNat = false) : s.configReason num x = some 10 := by
  simp [State.configReason, h, ho]

theorem State.configReason_foreign (h : badConfig x = false) (ho : s.record.bars.getLsbD num.toNat = true)
    (hf : s.foreignBarrier num = true) : s.configReason num x = some 5 := by
  simp [State.configReason, h, ho, hf]

/-- A barrier of the team with a value of the table: only one that is in use stops the bar.cfg. -/
theorem State.configReason_own (h : badConfig x = false) (ho : s.record.bars.getLsbD num.toNat = true) (hf : s.foreignBarrier num = false) :
    s.configReason num x = if ((s.myBarrier num).kind = 1 ∧ (s.myBarrier num).arrivals ≠ 0) ∨
      ((s.myBarrier num).kind = 2 ∧ (s.myBarrier num).landed < (s.myBarrier num).expected) then some 8 else none := by
  simp [State.configReason, h, ho, hf]

end Reason

/-! ## The completion of a phase (R264) -/

/-- A crew has reported where its arrivals have reached its count, which is not 0. -/
theorem Barrier.reported_iff (b : Barrier) : b.reported = true ↔ b.kind = 1 ∧ 0 < b.count ∧ b.count ≤ b.arrivals := by
  simp [Barrier.reported, Nat.pos_iff_ne_zero, and_assoc]

/-- Every crew whose phase completes has reported. -/
theorem State.completeCrews_reported {s : State} {team crew : Nat} {num : BitVec 6} {crews : List Nat}
    (h : s.completeCrews team num crew = some crews) : ∀ c ∈ crews, (s.barrierOf team c num).reported = true := by
  unfold State.completeCrews at h
  split at h
  · dsimp only at h
    split at h
    · next hr =>
      cases h
      intro c hc
      rwa [List.mem_singleton.mp hc]
    · cases h
  · dsimp only at h
    split at h
    · next hr =>
      cases h
      intro c hc
      simp only [Bool.and_eq_true, List.all_eq_true] at hr
      exact (hr.2 c hc).1
    · cases h

/-- So has every crew at which a phase is ready to complete. -/
theorem State.readyPhase_reported {s : State} {team : Nat} {num : BitVec 6} {crews : List Nat} (h : s.readyPhase team num = some crews) :
    ∀ c ∈ crews, (s.barrierOf team c num).reported = true := by
  obtain ⟨b, -, hb⟩ := List.exists_of_findSome?_eq_some h
  exact State.completeCrews_reported hb

/-- The phase rises on the barriers of the crews, and their arrivals return to 0. -/
theorem State.completePhase_eq (s : State) (team : Nat) (num : BitVec 6) (crews : List Nat) :
    s.completePhase team num crews = { s with
      barriers := s.barriers.map (fun b => if b.team = team ∧ b.num = num ∧ b.crew ∈ crews then { b with phase := b.phase + 1, arrivals := 0 } else b) } := by
  simp only [State.completePhase, List.contains_iff_mem]

theorem exec_barrierPhaseComplete (team : Nat) (bar : BitVec 6) (s : State) :
    exec (.barrierPhaseComplete team bar) s = execBarrierPhaseComplete team bar s := rfl

theorem exec_awaitWakeup (slot : Nat) (s : State) : exec (.awaitWakeup slot) s = execAwaitWakeup slot s := rfl

/-- AWAIT_WAKEUP marks the thread of the slot where it sleeps (R259). -/
theorem execAwaitWakeup_eq (slot : Nat) (s : State) :
    execAwaitWakeup slot s = .next { s with
      cur := { s.cur with woken := s.cur.woken || (s.cur.slot == slot && s.cur.asleep.isSome) }
      others := s.others.map (fun t => { t with woken := t.woken || (t.slot == slot && t.asleep.isSome) }) } := by
  simp only [Thread.woken_or, Bool.and_eq_true, beq_iff_eq]
  rfl

end Sys2Proof.Machine

namespace Sys2Proof.Proofs

open Sys2Proof.Machine Sys2Proof.Safety

/-- Settles O27: the first arrival of a phase, then the wait that ends when the phase has moved on. -/
theorem barrierArrivals : Obligations.BarrierArrivals := by
  unfold Obligations.BarrierArrivals
  intro f s h hw b k counted
  have hd := Thread.drained_of_waited hw
  refine ⟨fun hf hk hn hx => ?_, execBarSync_waits h hd, execBarSync_passes h hd⟩
  have hr : s.useReason f.bar false = none := State.useReason_thread hf hk
  have hfirst : (k.valid && k.phase == b.phase) = false := by simpa using hn
  refine ⟨execBarArrive_arrives h hd hr hfirst hx, fun hs => ?_⟩
  exact execBarSync_arrives h hd hr hfirst (fun hsync => hs hsync.1) hx

/-- Settles O28: by the barrier's kind, and by what its token or its count of landings says. -/
theorem barrierWaits : Obligations.BarrierWaits := by
  unfold Obligations.BarrierWaits
  intro f s h hf b k
  have hthread := fun hk : b.kind = 1 => (exec_barWait f s).trans (execBarWait_thread h (State.useReason_thread hf hk) hk)
  have hlanding := fun hk : b.kind = 2 => (exec_barWait f s).trans (execBarWait_landing h (State.useReason_wait hf hk) hk)
  refine ⟨fun hk hv hp => ?_, fun hk hv hp => ?_, fun hk hl => ?_, fun hk hl => ?_⟩
  · rw [hthread hk, if_neg (ne_false_of_eq_true hv), if_pos hp]
  · rw [hthread hk, if_neg (ne_false_of_eq_true hv), if_neg hp]
  · rw [hlanding hk, if_neg (Nat.not_le.mpr hl)]
  · rw [hlanding hk, if_pos hl]

/-- Settles O29: the word that the model packs has R267's fields. -/
theorem barrierStatus : Obligations.BarrierStatus := by
  unfold Obligations.BarrierStatus
  intro f s h hf hw b
  obtain ⟨x, hx, hstate, hstatus⟩ := b.stat_eq ((s.cur.gread f.ga).getLsbD 0)
  refine ⟨x, (execBarStat_ready h hf hw).trans (congrArg _ (State.mod_congr ?_)), hstate, hstatus⟩
  rw [← hx]

/-- Settles O30: a value of R263's table meets no reason, and the fields of the barrier set up are its numbers. -/
theorem barrierConfiguration : Obligations.BarrierConfiguration := by
  unfold Obligations.BarrierConfiguration
  intro f s h hw x kind scope count hreserved hkind hscope hlanding hthread hother ho hf hidle hlanded
  have hreason : s.configReason f.bar x = none := by
    rw [State.configReason_own (badConfig_false hreserved hkind hscope hlanding hthread hother) ho hf, if_neg]
    rintro (⟨hk, ha⟩ | ⟨hk, hl⟩)
    · exact ha (hidle hk)
    · exact Nat.not_le.mpr hl (hlanded hk)
  have hcount : x.toNat / 256 < 8 := by omega
  have hset : s.configured f.bar x =
      { Barrier.off s.cur.team s.crew f.bar with kind := BitVec.ofNat 2 kind, scope := BitVec.ofNat 3 scope, count := count } :=
    State.configured_eq s f.bar hcount
  rw [← hset]
  refine ⟨_, execBarCfg_sets h (Thread.drained_of_waited hw) hreason, ?_, ?_, fun y hy => ?_, ?_, ?_, rfl⟩
  · rw [State.clearToken_cur]
    exact State.barrierOf_put s (s.configured f.bar x) s.barriers
  · rw [State.clearToken_cur]
    exact Thread.token_clear s.cur f.bar 0
  · obtain ⟨t, -, rfl⟩ := List.mem_map.mp hy
    obtain ⟨hteam, hlthread⟩ := State.clearToken_place s f.bar t
    rw [hteam, hlthread]
    exact State.clearToken_invalid
  · rw [State.clearToken_cur]
    rfl
  · rw [State.clearToken_cur]
    rfl

/-- Settles O31: with nothing queued every word is ready, and the first reason that applies is the trap's. -/
theorem barrierTraps : Obligations.BarrierTraps := by
  unfold Obligations.BarrierTraps
  intro f s hq hstuck b k trap fresh
  have h0 : Ready s [] [] := ready_of_nil hq (srcs := []) nofun []
  have h1 : ∀ dsts, Ready s [(f.ga, f.sa, 0)] dsts := ready_of_nil hq (by simpa using hstuck)
  have hd := Thread.drained_nil hq
  have htrap : ∀ r : Nat, r < 256 → .next (s.barrierTrap f.bar r) = trap r := fun r hr => by
    rw [State.barrierTrap_nil hq, Nat.mod_eq_of_lt hr]
  have arrive {r : Nat} (hr : s.useReason f.bar false = some r) (hlt : r < 256) :
      exec (.barArrive f) s = trap r ∧ (fresh → exec (.barSync f) s = trap r) :=
    ⟨(execBarArrive_refused h0 hd hr).trans (htrap r hlt), fun hf => (execBarSync_refused h0 hd hf hr).trans (htrap r hlt)⟩
  have wait {r : Nat} (hr : s.useReason f.bar true = some r) (hlt : r < 256) : exec (.barWait f) s = trap r :=
    (execBarWait_refused (h1 []) hr).trans (htrap r hlt)
  have configure {r : Nat} (hr : s.configReason f.bar (s.cur.gread f.ga) = some r) (hlt : r < 256) : exec (.barCfg f) s = trap r :=
    (execBarCfg_refused (h1 []) hd hr).trans (htrap r hlt)
  refine ⟨fun hf => ?_, fun hf hk => ?_, fun hf hk => arrive (State.useReason_landing hf hk) (by decide), fun hf hk hv hp => ?_,
    fun hf hk hv => ?_, fun hf hk hv hx => ?_, fun hv => configure (State.configReason_value hv) (by decide),
    fun hv ho => configure (State.configReason_owner hv ho) (by decide),
    fun hv ho hf => configure (State.configReason_foreign hv ho hf) (by decide), fun hv ho hf huse => ?_⟩
  · obtain ⟨harrive, hsync⟩ := arrive (State.useReason_foreign hf) (by decide)
    exact ⟨harrive, wait (State.useReason_foreign hf) (by decide), (execBarStat_foreign (h1 [f.gd]) hf).trans (htrap 5 (by decide)), hsync⟩
  · obtain ⟨harrive, hsync⟩ := arrive (State.useReason_off hf hk) (by decide)
    exact ⟨harrive, wait (State.useReason_off hf hk) (by decide), hsync⟩
  · exact (execBarArrive_again h0 hd (State.useReason_thread hf hk) hv hp).trans (htrap 3 (by decide))
  · rw [exec_barWait, execBarWait_thread (h1 []) (State.useReason_thread hf hk) hk, if_pos hv]
    exact htrap 4 (by decide)
  · have hr : s.useReason f.bar false = none := State.useReason_thread hf hk
    have hfirst : (k.valid && k.phase == b.phase) = false := by
      rw [hv]
      rfl
    refine ⟨(execBarArrive_differs h0 hd hr hfirst hx).trans (htrap 7 (by decide)), ?_⟩
    exact (execBarSync_differs h0 hd hr hfirst (fun hsync => ne_false_of_eq_true hsync.2 hv) hx).trans (htrap 7 (by decide))
  · exact configure ((State.configReason_own hv ho hf).trans (if_pos huse)) (by decide)

/-- Settles O52: a phase is ready where every crew has reported; it completes on those crews, and AWAIT_WAKEUP marks a slot's sleeper. -/
theorem phaseAndWakeup : Obligations.PhaseAndWakeup := by
  unfold Obligations.PhaseAndWakeup
  refine ⟨fun team bar crews s h => ⟨fun c hc => ?_, ?_⟩, fun team bar s h => ?_, fun slot s => execAwaitWakeup_eq slot s⟩
  · exact (Barrier.reported_iff _).mp (State.readyPhase_reported h c hc)
  · rw [exec_barrierPhaseComplete, execBarrierPhaseComplete, h, ← State.completePhase_eq]
  · rw [exec_barrierPhaseComplete, execBarrierPhaseComplete, h]

end Sys2Proof.Proofs
end
